-- ==== Sys2Proof/Word.lean ====
section
/-! DEFINITION. The one machine word of the part's links: the 8-bit character (chapter 11, opening). -/

namespace Sys2Proof

/-- One character of either link: 8 data bits (chapter 11, opening paragraph). -/
abbrev Byte := BitVec 8

end Sys2Proof
end

