-- ==== Sys2Proof/Syntax.lean ====
section
/-! DEFINITION. The commands of the part, one constructor of `Instr` for each row of spec/opcode_table.json,
with the operand types they carry. The same record types hold the configuration in State. -/

namespace Sys2Proof

/-- A named choice as one byte of a request carries it (R179): the member of the list, or a byte that names no
member. Configuration records keep it in this form because R51 and R108 store an unconfigured record as sent. -/
inductive Coded (α : Type) where
  | val (a : α)
  | unlisted (code : Nat)
  deriving DecidableEq, Repr

/-- Is the code one of its list's members? -/
def Coded.listed {α : Type} : Coded α → Bool
  | .val _ => true
  | .unlisted _ => false

/-- Table 15, role. -/
inductive Role where
  | probe | valve | blower | pump
  deriving DecidableEq, Repr

/-- Table 3: the nine quantity kinds, in the order of the table. -/
inductive Kind where
  | dissolvedOxygen | nh4 | airflow | pressure | inflow | volume | position | level | runstate
  deriving DecidableEq, Repr

/-- Table 18, forward mode (the band of CHANGE stands in a field of its own). -/
inductive ForwardMode where
  | never | every | change
  deriving DecidableEq, Repr

/-- Table 24, release policy. -/
inductive Release where
  | whenDone | onRequest
  deriving DecidableEq, Repr

/-- Table 32, allocation policy. -/
inductive Policy where
  | priority | level
  deriving DecidableEq, Repr

/-- Table 42, channel mode. -/
inductive ChannelMode where
  | batch | cycle | ratio
  deriving DecidableEq, Repr

/-- Table 47, force. -/
inductive Force where
  | auto | on | off
  deriving DecidableEq, Repr

/-- Table 52, timeout code. -/
inductive TimeoutCode where
  | t10 | t60 | t300 | never
  deriving DecidableEq, Repr

/-- Table 65, byte 2: the command of a demand. -/
inductive Command where
  | stop | run | position
  deriving DecidableEq, Repr

/-- Table 52: what a hand passage's target is. -/
inductive HandKind where
  | zone | pump
  deriving DecidableEq, Repr

/-- The four alarm classes, highest first (chapter 9.1). -/
inductive AlarmClass where
  | critical | major | minor | advisory
  deriving DecidableEq, Repr

/-- Table 55: the 23 alarm codes, in the order of the table. -/
inductive AlarmCode where
  | stationLost | stationLocal | pointStale | pointSuspect | pointKindMismatch
  | zoneDoInvalid | zoneValveUnavailable | doLow | airLimited | laneAmmoniaInvalid
  | airShort | headerPressureHigh | headerPressureLow
  | blowerFault | blowerStartFail | blowerLost
  | channelNoPump | channelChangeover | channelPausedLong
  | stormActive | influentInvalid | roundOverrun | settingsInvalid
  deriving DecidableEq, Repr

/-- Chapter 9.1: the source of an alarm, its index counted from 0 (Table 72). -/
inductive Source where
  | station (i : Nat) | point (i : Nat) | zone (i : Nat) | lane (i : Nat) | blower (i : Nat) | channel (i : Nat)
  | header | works | fieldLine
  deriving DecidableEq, Repr

/-- Table 6: what a poll names, a logical station (S1 is 0) or a group. -/
inductive Target where
  | station (i : Nat)
  | group (g : Nat)
  deriving DecidableEq, Repr

/-- Table 6, poll kind. -/
inductive PollKind where
  | read | drive
  deriving DecidableEq, Repr

/-- The two serial links of the part (00_scope.md, 2.3). -/
inductive Link where
  | field | plant
  deriving DecidableEq, Repr

/-- Table 6: one roster entry. -/
structure RosterEntry where
  target : Target
  kind : PollKind
  divisor : Nat
  phase : Nat
  deriving DecidableEq, Repr

/-- Table 11: the four line settings, the round period in steps of 0.1 s. -/
structure LineSettings where
  window : Nat
  retries : Nat
  lostThreshold : Nat
  roundPeriod : Nat
  deriving DecidableEq, Repr

/-- Table 18, source: a station and its channel. -/
structure PointSource where
  station : Nat
  channel : Nat
  deriving DecidableEq, Repr

/-- Table 18: the configuration of a point. -/
structure PointCfg where
  source : Option PointSource
  kind : Coded Kind
  numerator : Nat
  denominator : Nat
  offset : Int
  low : Nat
  high : Nat
  staleLimit : Nat
  alarm : Bool
  forward : Coded ForwardMode
  band : Nat
  deriving DecidableEq, Repr

/-- Table 22: the configuration of a lane, less its in-service flag (R47). -/
structure LaneCfg where
  ammoniaPoint : Option Nat
  spLow : Nat
  spMid : Nat
  spHigh : Nat
  spStorm : Nat
  thresholdA : Nat
  thresholdB : Nat
  hysteresis : Nat
  stormFollow : Bool
  startGrace : Nat
  deriving DecidableEq, Repr

/-- Table 24: the configuration of a zone. -/
structure ZoneCfg where
  configured : Bool
  doPoint : Nat
  valve : Target
  feedback : Option Nat
  offset : Int
  deadband : Nat
  gain : Nat
  maxStep : Nat
  minPos : Nat
  maxPos : Nat
  fallbackPos : Nat
  fullOpenAir : Nat
  mixingFloor : Nat
  priorityClass : Nat
  release : Coded Release
  trimPeriod : Nat
  doLowBand : Nat
  doLowDelay : Nat
  deriving DecidableEq, Repr

/-- Table 29: the configuration of a blower, less its lockout flag (R74). -/
structure BlowerCfg where
  configured : Bool
  station : Nat
  runPoint : Nat
  rated : Nat
  turndown : Nat
  rampTime : Nat
  runDownTime : Nat
  minRun : Nat
  minStop : Nat
  deriving DecidableEq, Repr

/-- Table 32: the pool configuration, less the duty order (R87). -/
structure PoolCfg where
  upFraction : Nat
  upDelay : Nat
  downFraction : Nat
  downDelay : Nat
  minNormal : Nat
  minStorm : Nat
  pressurePoint : Option Nat
  pressureHigh : Nat
  pressureLow : Nat
  allocationPeriod : Nat
  policy : Coded Policy
  deriving DecidableEq, Repr

/-- Table 42: the configuration of a return channel. -/
structure ChannelCfg where
  configured : Bool
  mode : Coded ChannelMode
  pump : Nat
  volumePoint : Nat
  levelPoint : Option Nat
  minLevel : Nat
  pauseLimit : Nat
  influentPoint : Option Nat
  target : Nat
  ratio : Nat
  stormRatio : Nat
  noticeOnCycle : Bool
  autoStart : Bool
  deriving DecidableEq, Repr

/-- Table 47: the storm monitor's configuration, less the force (R127). -/
structure StormCfg where
  influentPoint : Option Nat
  entryThreshold : Nat
  exitThreshold : Nat
  entryConfirm : Nat
  exitConfirm : Nat
  minimumHold : Nat
  deriving DecidableEq, Repr

/-- R160: a set of annunciator lines. -/
structure LineSet where
  horn : Bool
  beacon : Bool
  callout : Bool
  healthy : Bool
  deriving DecidableEq, Repr

/-- R160: the line map, a set of lines for each class. -/
structure LineMap where
  critical : LineSet
  major : LineSet
  minor : LineSet
  advisory : LineSet
  deriving DecidableEq, Repr

/-- The header of a request that reaches the part: its source address and tag (Table 69). -/
structure Hdr where
  src : Byte
  tag : Byte
  deriving DecidableEq, Repr

/-- R69, R136: the target of a hand passage. -/
structure HandTarget where
  kind : HandKind
  index : Nat
  deriving DecidableEq, Repr

/-- What a request asks, with the arguments its payload carries (Table 61 and the owning rules). Indexes count from 0
and may lie outside their range, since the owning rule judges them. `malformed` is a request that cannot be read (R168),
`unreadableValue` one of the right length with a flag or presence byte that is neither 0 nor 1
(DESIGN CHOICE, notes/assumptions/8.md). -/
inductive Req where
  | malformed (code : Byte)
  | unreadableValue (code : Byte)
  | identify
  | mapWrite (station addr : Nat) (role : Coded Role) (legacy alarm : Bool)
  | mapRead (station : Nat)
  | mapClear (station : Nat)
  | groupWrite (group : Nat) (members : List Nat) (answering : Option Nat)
  | pointWrite (point : Nat) (cfg : PointCfg)
  | pointRead (point : Nat)
  | rosterLoad (entries : List RosterEntry)
  | rosterRead
  | lineWrite (line : LineSettings)
  | expressRead (station : Nat)
  | stationCounters (station : Nat) (reset : Bool)
  | laneWrite (lane : Nat) (cfg : LaneCfg)
  | laneService (lane : Nat) (on : Bool)
  | zoneWrite (zone : Nat) (cfg : ZoneCfg)
  | zoneRead (zone : Nat)
  | blowerWrite (blower : Nat) (cfg : BlowerCfg)
  | blowerRead (blower : Nat)
  | blowerLockout (blower : Nat) (on : Bool)
  | blowerReset (blower : Nat)
  | poolWrite (cfg : PoolCfg)
  | dutyOrder (order : List Nat)
  | dutyRotate
  | grantsRead
  | channelWrite (channel : Nat) (cfg : ChannelCfg)
  | channelStart (channel : Nat)
  | channelStop (channel : Nat)
  | channelRead (channel : Nat)
  | pairSet (pair : Nat) (join : Bool)
  | dutySwap (pair : Nat)
  | stormWrite (cfg : StormCfg)
  | stormForce (force : Coded Force)
  | stormRead
  | handDrive (kind : Coded HandKind) (index : Nat) (command : Coded Command) (value : Nat) (timeout : Coded TimeoutCode)
  | handRelease (kind : Coded HandKind) (index : Nat)
  | handRead
  | alarmList (start : Nat)
  | alarmAck (code : Coded AlarmCode) (sourceKind sourceIndex : Nat)
  | alarmAckClass (cls : Coded AlarmClass)
  | silence
  | classMapWrite (lines : LineMap) (classes : List (Coded AlarmClass))
  | escalationWrite (minutes : Nat)
  | save
  | restart
  deriving DecidableEq, Repr

/-- A request with the header it came under, as the request queue holds it (R165, R166). -/
structure Request where
  hdr : Hdr
  body : Req
  deriving DecidableEq, Repr

/-- The commands: one constructor for each row of spec/opcode_table.json, in the table's order. The first 23 are events
at the part's pins, links and timers. The others are requests of the plant controller: each stands for a good REQUEST frame
addressed to the part that carries these arguments under the header `h` (DESIGN CHOICE, notes/assumptions/2.md). -/
inductive Instr where
  | powerOn (straps : BitVec 3) (fast : Bool)
  | resetPin (straps : BitVec 3) (fast : Bool)
  | saveWriteComplete (readsBackValid : Bool)
  | plantFrameReceived (chars : List Byte)
  | plantFrameSent
  | framingIdleTimeout (link : Link)
  | pollSent
  | fieldFrameReceived (chars : List Byte)
  | answerWindowExpiry
  | roundTimerExpiry
  | staleTimerExpiry (point : Nat)
  | trimTimerExpiry (zone : Nat)
  | startGraceExpiry (lane : Nat)
  | rampTimeElapsed (blower : Nat)
  | rampTimerExpiry (blower : Nat)
  | runDownEnd (blower : Nat)
  | allocationTimerExpiry
  | pauseLimitExpiry (channel : Nat)
  | entryConfirmExpiry
  | holdTimerExpiry
  | exitConfirmExpiry
  | deadlineExpiry (target : HandTarget)
  | escalationExpiry (code : AlarmCode) (source : Source)
  | malformedRequest (h : Hdr) (code : Byte)
  | identify (h : Hdr)
  | mapWrite (h : Hdr) (station addr : Nat) (role : Coded Role) (legacy alarm : Bool)
  | mapRead (h : Hdr) (station : Nat)
  | mapClear (h : Hdr) (station : Nat)
  | groupWrite (h : Hdr) (group : Nat) (members : List Nat) (answering : Option Nat)
  | pointWrite (h : Hdr) (point : Nat) (cfg : PointCfg)
  | pointRead (h : Hdr) (point : Nat)
  | rosterLoad (h : Hdr) (entries : List RosterEntry)
  | rosterRead (h : Hdr)
  | lineWrite (h : Hdr) (line : LineSettings)
  | expressRead (h : Hdr) (station : Nat)
  | stationCounters (h : Hdr) (station : Nat) (reset : Bool)
  | laneWrite (h : Hdr) (lane : Nat) (cfg : LaneCfg)
  | laneServiceOff (h : Hdr) (lane : Nat)
  | laneServiceOn (h : Hdr) (lane : Nat)
  | zoneWrite (h : Hdr) (zone : Nat) (cfg : ZoneCfg)
  | zoneRead (h : Hdr) (zone : Nat)
  | blowerWrite (h : Hdr) (blower : Nat) (cfg : BlowerCfg)
  | blowerRead (h : Hdr) (blower : Nat)
  | blowerLockoutOn (h : Hdr) (blower : Nat)
  | blowerLockoutOff (h : Hdr) (blower : Nat)
  | blowerReset (h : Hdr) (blower : Nat)
  | poolWrite (h : Hdr) (cfg : PoolCfg)
  | dutyOrder (h : Hdr) (order : List Nat)
  | dutyRotate (h : Hdr)
  | grantsRead (h : Hdr)
  | channelWrite (h : Hdr) (channel : Nat) (cfg : ChannelCfg)
  | channelStart (h : Hdr) (channel : Nat)
  | channelStop (h : Hdr) (channel : Nat)
  | channelRead (h : Hdr) (channel : Nat)
  | pairSet (h : Hdr) (pair : Nat) (join : Bool)
  | dutySwap (h : Hdr) (pair : Nat)
  | stormWrite (h : Hdr) (cfg : StormCfg)
  | stormForce (h : Hdr) (force : Coded Force)
  | stormRead (h : Hdr)
  | handDrive (h : Hdr) (kind : Coded HandKind) (index : Nat) (command : Coded Command) (value : Nat) (timeout : Coded TimeoutCode)
  | handRelease (h : Hdr) (kind : Coded HandKind) (index : Nat)
  | handRead (h : Hdr)
  | alarmList (h : Hdr) (start : Nat)
  | alarmAck (h : Hdr) (code : Coded AlarmCode) (sourceKind sourceIndex : Nat)
  | alarmAckClass (h : Hdr) (cls : Coded AlarmClass)
  | silence (h : Hdr)
  | classMapWrite (h : Hdr) (lines : LineMap) (classes : List (Coded AlarmClass))
  | escalationWrite (h : Hdr) (minutes : Nat)
  | save (h : Hdr)
  | restart (h : Hdr)
  deriving DecidableEq, Repr

end Sys2Proof
end

