-- ==== Sys2Proof/Decode.lean ====
section
/-! DEFINITION. What the characters of a frame mean: the CRC (11.3), the two envelopes (R180, R181), the content of an
ANSWER (R182), the arguments of a REQUEST (R179, Table 70) and their encoder. No row of the command table has bits, so
`decodeTableWord` spells no command. -/

namespace Sys2Proof

/-- The command a table word spells: no row of spec/opcode_table.json gives bits, so there is none. -/
def decodeTableWord (_nbits _w : Nat) : Option Instr := none

/-! ### Sources and targets -/

/-- The kind of source a code takes (Table 55). -/
def Source.kindIndex : Source → Nat
  | .station _ => 0 | .point _ => 1 | .zone _ => 2 | .lane _ => 3 | .blower _ => 4 | .channel _ => 5
  | .header => 6 | .works => 7 | .fieldLine => 8

/-- The index of a source, counted from 0, 0 for the single sources (Table 72). -/
def Source.index : Source → Nat
  | .station i | .point i | .zone i | .lane i | .blower i | .channel i => i
  | .header | .works | .fieldLine => 0

/-- The source kind Table 55 gives a code, numbered as in Table 72. -/
def AlarmCode.sourceKind : AlarmCode → Nat
  | .stationLost | .stationLocal => 0
  | .pointStale | .pointSuspect | .pointKindMismatch => 1
  | .zoneDoInvalid | .zoneValveUnavailable | .doLow | .airLimited => 2
  | .laneAmmoniaInvalid => 3
  | .airShort | .headerPressureHigh | .headerPressureLow => 6
  | .blowerFault | .blowerStartFail | .blowerLost => 4
  | .channelNoPump | .channelChangeover | .channelPausedLong => 5
  | .stormActive | .influentInvalid | .settingsInvalid => 7
  | .roundOverrun => 8

/-- How many sources a kind has (chapter 9.1), by its number in Table 72. -/
def sourceCount (kind : Nat) : Nat := [48, 128, 24, 6, 6, 4, 1, 1, 1].getD kind 0

/-- A source of the code's own kind, in range (R154). -/
def Source.validFor (src : Source) (code : AlarmCode) : Bool :=
  src.kindIndex == code.sourceKind && decide (src.index < sourceCount src.kindIndex)

def HandTarget.wf (t : HandTarget) : Bool :=
  match t.kind with
  | .zone => t.index < 24
  | .pump => t.index < 48

/-! ### Bytes -/

/-- One byte. -/
def b8 (n : Nat) : List Byte := [BitVec.ofNat 8 n]

/-- Two bytes, most significant first (chapter 11, opening). -/
def b16 (n : Nat) : List Byte := [BitVec.ofNat 8 (n / 256), BitVec.ofNat 8 n]

/-- A signed figure in two's complement, two bytes. -/
def bs16 (n : Int) : List Byte := b16 (n % 65536).toNat

/-- Four bytes, most significant first. -/
def b32 (n : Nat) : List Byte := b16 (n / 65536) ++ b16 n

/-- A flag as R179 codes it. -/
def bFlag (b : Bool) : List Byte := b8 b.toNat

/-- A field that may be absent: a presence byte, then the field, sent as 0 when absent (R179). -/
def bOpt {α : Type} (code : α → List Byte) (zero : α) : Option α → List Byte
  | none => b8 0 ++ code zero
  | some a => b8 1 ++ code a

/-- A list of variable length: a count byte, then its entries (R179). -/
def bList {α : Type} (code : α → List Byte) (l : List α) : List Byte := b8 l.length ++ l.flatMap code

/-- The number two bytes carry. -/
def word16 (hi lo : Byte) : Nat := hi.toNat * 256 + lo.toNat

/-- A 16-bit number read as a signed figure. -/
def signed16 (n : Nat) : Int := if n < 32768 then n else (n : Int) - 65536

/-! ### The CRC -/

/-- One bit of the register's work (11.3). -/
def crcBit (c : BitVec 16) : BitVec 16 := if c.msb then (c <<< 1) ^^^ 0x1021#16 else c <<< 1

/-- The register after one more character. -/
def crcByte (c : BitVec 16) (b : Byte) : BitVec 16 :=
  crcBit (crcBit (crcBit (crcBit (crcBit (crcBit (crcBit (crcBit (c ^^^ (b.zeroExtend 16 <<< 8)))))))))

/-- The CRC of 11.3: generator 0x1021, initial value 0xFFFF, most significant bit first, no final inversion. -/
def crc16 (bytes : List Byte) : BitVec 16 := bytes.foldl crcByte 0xFFFF#16

/-- The CRC as it is sent, high byte first. -/
def crcBytes (bytes : List Byte) : List Byte := b16 (crc16 bytes).toNat

/-! ### Envelopes -/

/-- What a receiver makes of a run of characters that follows two idle character times (R180, R181). -/
inductive Received (α : Type) where
  | passedOver
  | rejected
  | whole (content : α)
  deriving DecidableEq, Repr

/-- A plant frame that is whole and whose CRC agrees (Table 69). -/
structure PlantFrame where
  dest : Byte
  source : Byte
  kind : Byte
  tag : Byte
  payload : List Byte
  deriving DecidableEq, Repr

/-- R180, R181 on the plant port. Characters after the last CRC byte follow a shorter idle and are passed over. -/
def readPlantFrame : List Byte → Received PlantFrame
  | [] => .passedOver
  | start :: rest =>
    if start ≠ 0xA5#8 then .passedOver else
    match rest with
    | len :: dest :: source :: kind :: tag :: tail =>
      let n := len.toNat
      let payload := tail.take n
      if 240 < n then .rejected else
      match tail.drop n with
      | hi :: lo :: _ =>
        if crcBytes (len :: dest :: source :: kind :: tag :: payload) = [hi, lo]
        then .whole ⟨dest, source, kind, tag, payload⟩ else .rejected
      | _ => .rejected
    | _ => .rejected

/-- R180, R181 on the field line: the body of a frame that is whole and whose CRC agrees. -/
def readFieldFrame : List Byte → Received (List Byte)
  | [] => .passedOver
  | start :: rest =>
    if start ≠ 0xC3#8 then .passedOver else
    match rest with
    | len :: tail =>
      let n := len.toNat
      let body := tail.take n
      if 40 < n then .rejected else
      match tail.drop n with
      | hi :: lo :: _ => if crcBytes (len :: body) = [hi, lo] then .whole body else .rejected
      | _ => .rejected
    | _ => .rejected

/-! ### Named choices as bytes -/

/-- The member of a list at a place counted from 0, or the code that names none. -/
def Coded.ofList {α : Type} (members : List α) (code : Nat) : Coded α :=
  match members[code]? with
  | some a => .val a
  | none => .unlisted code

/-- The byte of a named choice, given the place of each member. -/
def Coded.code {α : Type} (place : α → Nat) : Coded α → Nat
  | .val a => place a
  | .unlisted c => c

def Role.all : List Role := [.probe, .valve, .blower, .pump]
def Role.code : Role → Nat | .probe => 0 | .valve => 1 | .blower => 2 | .pump => 3
def Kind.all : List Kind :=
  [.dissolvedOxygen, .nh4, .airflow, .pressure, .inflow, .volume, .position, .level, .runstate]
def Kind.code : Kind → Nat
  | .dissolvedOxygen => 0 | .nh4 => 1 | .airflow => 2 | .pressure => 3 | .inflow => 4 | .volume => 5 | .position => 6
  | .level => 7 | .runstate => 8
def ForwardMode.all : List ForwardMode := [.never, .every, .change]
def ForwardMode.code : ForwardMode → Nat | .never => 0 | .every => 1 | .change => 2
def Release.all : List Release := [.whenDone, .onRequest]
def Release.code : Release → Nat | .whenDone => 0 | .onRequest => 1
def Policy.all : List Policy := [.priority, .level]
def Policy.code : Policy → Nat | .priority => 0 | .level => 1
def ChannelMode.all : List ChannelMode := [.batch, .cycle, .ratio]
def ChannelMode.code : ChannelMode → Nat | .batch => 0 | .cycle => 1 | .ratio => 2
def Force.all : List Force := [.auto, .on, .off]
def Force.code : Force → Nat | .auto => 0 | .on => 1 | .off => 2
def TimeoutCode.all : List TimeoutCode := [.t10, .t60, .t300, .never]
def TimeoutCode.code : TimeoutCode → Nat | .t10 => 0 | .t60 => 1 | .t300 => 2 | .never => 3
def Command.all : List Command := [.stop, .run, .position]
def Command.code : Command → Nat | .stop => 0 | .run => 1 | .position => 2
def HandKind.all : List HandKind := [.zone, .pump]
def HandKind.code : HandKind → Nat | .zone => 0 | .pump => 1
def AlarmClass.all : List AlarmClass := [.critical, .major, .minor, .advisory]
def AlarmClass.code : AlarmClass → Nat | .critical => 0 | .major => 1 | .minor => 2 | .advisory => 3

/-- Table 55, top to bottom. -/
def AlarmCode.all : List AlarmCode :=
  [.stationLost, .stationLocal, .pointStale, .pointSuspect, .pointKindMismatch, .zoneDoInvalid, .zoneValveUnavailable,
   .doLow, .airLimited, .laneAmmoniaInvalid, .airShort, .headerPressureHigh, .headerPressureLow, .blowerFault,
   .blowerStartFail, .blowerLost, .channelNoPump, .channelChangeover, .channelPausedLong, .stormActive, .influentInvalid,
   .roundOverrun, .settingsInvalid]

/-- Place in Table 55, counted from 0. -/
def AlarmCode.place : AlarmCode → Nat
  | .stationLost => 0 | .stationLocal => 1 | .pointStale => 2 | .pointSuspect => 3 | .pointKindMismatch => 4
  | .zoneDoInvalid => 5 | .zoneValveUnavailable => 6 | .doLow => 7 | .airLimited => 8 | .laneAmmoniaInvalid => 9
  | .airShort => 10 | .headerPressureHigh => 11 | .headerPressureLow => 12 | .blowerFault => 13 | .blowerStartFail => 14
  | .blowerLost => 15 | .channelNoPump => 16 | .channelChangeover => 17 | .channelPausedLong => 18 | .stormActive => 19
  | .influentInvalid => 20 | .roundOverrun => 21 | .settingsInvalid => 22

/-- The source that a kind and an index name (Table 72), where the part has it (chapter 9.1). -/
def Source.ofBytes (kind index : Nat) : Option Source :=
  if sourceCount kind ≤ index then none else
  match kind with
  | 0 => some (.station index) | 1 => some (.point index) | 2 => some (.zone index) | 3 => some (.lane index)
  | 4 => some (.blower index) | 5 => some (.channel index) | 6 => some .header | 7 => some .works | 8 => some .fieldLine
  | _ => none

/-- Table 70, byte 0: a target. -/
def Target.code : Target → Nat
  | .station i => i
  | .group g => 48 + g

/-- Table 70, byte 0. A code above 55 names no group: it stays a group number above 7, which every check refuses. -/
def Target.ofCode (n : Nat) : Target := if n < 48 then .station n else .group (n - 48)

/-- Annunciator lines of one class as the set byte of R179, bit 0 HORN. -/
def LineSet.code (s : LineSet) : Nat := s.horn.toNat + 2 * s.beacon.toNat + 4 * s.callout.toNat + 8 * s.healthy.toNat

/-- The set a byte names; bits past the list are ignored (notes/assumptions/8.md). -/
def LineSet.ofCode (n : Nat) : LineSet := ⟨n.testBit 0, n.testBit 1, n.testBit 2, n.testBit 3⟩

/-- Table 70: one roster entry in two bytes. -/
def RosterEntry.code (e : RosterEntry) : List Byte :=
  let kind := match e.kind with | .read => 0 | .drive => 1
  let divisor := if e.divisor = 1 then 0 else if e.divisor = 2 then 1 else if e.divisor = 4 then 2 else 3
  b8 e.target.code ++ b8 (kind + 2 * divisor + 8 * e.phase)

/-- Table 70 read back; bits 6 and 7 are ignored (notes/assumptions/8.md). -/
def RosterEntry.ofBytes (b0 b1 : Nat) : RosterEntry :=
  { target := Target.ofCode b0, kind := if b1.testBit 0 then .drive else .read,
    divisor := [1, 2, 4, 8].getD (b1 / 2 % 4) 1, phase := b1 / 8 % 8 }

/-! ### Reading arguments -/

/-- A reader of arguments: it consumes bytes, fails where they run out, and remembers whether some flag or presence byte
was neither 0 nor 1. -/
abbrev Reader := StateT (List Byte × Bool) Option

/-- The next byte. -/
def rByte : Reader Nat := fun s =>
  match s.1 with
  | [] => none
  | b :: rest => some (b.toNat, rest, s.2)

/-- A two-byte figure. -/
def r16 : Reader Nat := do
  let hi ← rByte
  let lo ← rByte
  return hi * 256 + lo

/-- A signed two-byte figure. -/
def rs16 : Reader Int := do
  let n ← r16
  return signed16 n

/-- A flag; a byte above 1 marks the request unreadable. -/
def rFlag : Reader Bool := fun s =>
  match s.1 with
  | [] => none
  | b :: rest => some (b == 1#8, rest, s.2 || (b != 0#8 && b != 1#8))

/-- A named choice. -/
def rCoded {α : Type} (members : List α) : Reader (Coded α) := do
  let n ← rByte
  return Coded.ofList members n

/-- A field that may be absent. -/
def rOpt {α : Type} (r : Reader α) : Reader (Option α) := do
  let present ← rFlag
  let a ← r
  return if present then some a else none

/-- `n` entries, one after another. -/
def rTimes {α : Type} (r : Reader α) : Nat → Reader (List α)
  | 0 => return []
  | n + 1 => do
    let a ← r
    let rest ← rTimes r n
    return a :: rest

/-- A list of variable length. -/
def rList {α : Type} (r : Reader α) : Reader (List α) := do
  let n ← rByte
  rTimes r n

def rRosterEntry : Reader RosterEntry := do
  let b0 ← rByte
  let b1 ← rByte
  return RosterEntry.ofBytes b0 b1

def rPointCfg : Reader PointCfg := do
  let source ← rOpt (do let station ← rByte; let channel ← rByte; return PointSource.mk station channel)
  let kind ← rCoded Kind.all
  let numerator ← r16
  let denominator ← r16
  let offset ← rs16
  let low ← r16
  let high ← r16
  let staleLimit ← r16
  let alarm ← rFlag
  let forward ← rCoded ForwardMode.all
  let band ← r16
  return { source, kind, numerator, denominator, offset, low, high, staleLimit, alarm, forward, band }

def rLaneCfg : Reader LaneCfg := do
  let ammoniaPoint ← rOpt rByte
  let spLow ← r16
  let spMid ← r16
  let spHigh ← r16
  let spStorm ← r16
  let thresholdA ← r16
  let thresholdB ← r16
  let hysteresis ← r16
  let stormFollow ← rFlag
  let startGrace ← r16
  return { ammoniaPoint, spLow, spMid, spHigh, spStorm, thresholdA, thresholdB, hysteresis, stormFollow, startGrace }

def rTarget : Reader Target := do
  let n ← rByte
  return Target.ofCode n

def rZoneCfg : Reader ZoneCfg := do
  let configured ← rFlag
  let doPoint ← rByte
  let valve ← rTarget
  let feedback ← rOpt rByte
  let offset ← rs16
  let deadband ← r16
  let gain ← r16
  let maxStep ← r16
  let minPos ← r16
  let maxPos ← r16
  let fallbackPos ← r16
  let fullOpenAir ← r16
  let mixingFloor ← r16
  let priorityClass ← rByte
  let release ← rCoded Release.all
  let trimPeriod ← r16
  let doLowBand ← r16
  let doLowDelay ← r16
  return { configured, doPoint, valve, feedback, offset, deadband, gain, maxStep, minPos, maxPos, fallbackPos,
           fullOpenAir, mixingFloor, priorityClass, release, trimPeriod, doLowBand, doLowDelay }

def rBlowerCfg : Reader BlowerCfg := do
  let configured ← rFlag
  let station ← rByte
  let runPoint ← rByte
  let rated ← r16
  let turndown ← r16
  let rampTime ← r16
  let runDownTime ← r16
  let minRun ← r16
  let minStop ← r16
  return { configured, station, runPoint, rated, turndown, rampTime, runDownTime, minRun, minStop }

def rPoolCfg : Reader PoolCfg := do
  let upFraction ← r16
  let upDelay ← r16
  let downFraction ← r16
  let downDelay ← r16
  let minNormal ← r16
  let minStorm ← r16
  let pressurePoint ← rOpt rByte
  let pressureHigh ← r16
  let pressureLow ← r16
  let allocationPeriod ← r16
  let policy ← rCoded Policy.all
  return { upFraction, upDelay, downFraction, downDelay, minNormal, minStorm, pressurePoint, pressureHigh, pressureLow,
           allocationPeriod, policy }

def rChannelCfg : Reader ChannelCfg := do
  let configured ← rFlag
  let mode ← rCoded ChannelMode.all
  let pump ← rByte
  let volumePoint ← rByte
  let levelPoint ← rOpt rByte
  let minLevel ← r16
  let pauseLimit ← r16
  let influentPoint ← rOpt rByte
  let target ← r16
  let ratio ← r16
  let stormRatio ← r16
  let noticeOnCycle ← rFlag
  let autoStart ← rFlag
  return { configured, mode, pump, volumePoint, levelPoint, minLevel, pauseLimit, influentPoint, target, ratio,
           stormRatio, noticeOnCycle, autoStart }

def rStormCfg : Reader StormCfg := do
  let influentPoint ← rOpt rByte
  let entryThreshold ← r16
  let exitThreshold ← r16
  let entryConfirm ← r16
  let exitConfirm ← r16
  let minimumHold ← r16
  return { influentPoint, entryThreshold, exitThreshold, entryConfirm, exitConfirm, minimumHold }

def rLineMap : Reader LineMap := do
  let critical ← rByte
  let major ← rByte
  let minor ← rByte
  let advisory ← rByte
  return ⟨.ofCode critical, .ofCode major, .ofCode minor, .ofCode advisory⟩

/-- The reader of the arguments of a request code (Table 61; the argument order of each owning rule). -/
def rArgs (code : Nat) : Option (Reader Req) :=
  match code with
  | 1 => some (return .identify)
  | 2 => some (do
      let station ← rByte; let addr ← r16; let role ← rCoded Role.all; let legacy ← rFlag; let alarm ← rFlag
      return .mapWrite station addr role legacy alarm)
  | 3 => some (do let i ← rByte; return .mapRead i)
  | 4 => some (do let i ← rByte; return .mapClear i)
  | 5 => some (do let g ← rByte; let members ← rList rByte; let answering ← rOpt rByte
                  return .groupWrite g members answering)
  | 6 => some (do let p ← rByte; let cfg ← rPointCfg; return .pointWrite p cfg)
  | 7 => some (do let p ← rByte; return .pointRead p)
  | 8 => some (do let entries ← rList rRosterEntry; return .rosterLoad entries)
  | 9 => some (return .rosterRead)
  | 10 => some (do
      let window ← r16; let retries ← r16; let lostThreshold ← r16; let roundPeriod ← r16
      return .lineWrite { window, retries, lostThreshold, roundPeriod })
  | 11 => some (do let i ← rByte; return .expressRead i)
  | 12 => some (do let i ← rByte; let reset ← rFlag; return .stationCounters i reset)
  | 13 => some (do let l ← rByte; let cfg ← rLaneCfg; return .laneWrite l cfg)
  | 14 => some (do let l ← rByte; let on ← rFlag; return .laneService l on)
  | 15 => some (do let z ← rByte; let cfg ← rZoneCfg; return .zoneWrite z cfg)
  | 16 => some (do let z ← rByte; return .zoneRead z)
  | 17 => some (do let b ← rByte; let cfg ← rBlowerCfg; return .blowerWrite b cfg)
  | 18 => some (do let b ← rByte; return .blowerRead b)
  | 19 => some (do let b ← rByte; let on ← rFlag; return .blowerLockout b on)
  | 20 => some (do let b ← rByte; return .blowerReset b)
  | 21 => some (do let cfg ← rPoolCfg; return .poolWrite cfg)
  | 22 => some (do let order ← rList rByte; return .dutyOrder order)
  | 23 => some (return .dutyRotate)
  | 24 => some (return .grantsRead)
  | 25 => some (do let c ← rByte; let cfg ← rChannelCfg; return .channelWrite c cfg)
  | 26 => some (do let c ← rByte; return .channelStart c)
  | 27 => some (do let c ← rByte; return .channelStop c)
  | 28 => some (do let c ← rByte; return .channelRead c)
  | 29 => some (do let p ← rByte; let join ← rFlag; return .pairSet p join)
  | 30 => some (do let p ← rByte; return .dutySwap p)
  | 31 => some (do let cfg ← rStormCfg; return .stormWrite cfg)
  | 32 => some (do let force ← rCoded Force.all; return .stormForce force)
  | 33 => some (return .stormRead)
  | 34 => some (do
      let kind ← rCoded HandKind.all; let index ← rByte; let command ← rCoded Command.all; let value ← r16
      let timeout ← rCoded TimeoutCode.all
      return .handDrive kind index command value timeout)
  | 35 => some (do let kind ← rCoded HandKind.all; let index ← rByte; return .handRelease kind index)
  | 36 => some (return .handRead)
  | 37 => some (do let start ← r16; return .alarmList start)
  | 38 => some (do let code ← rCoded AlarmCode.all; let kind ← rByte; let index ← rByte; return .alarmAck code kind index)
  | 39 => some (do let cls ← rCoded AlarmClass.all; return .alarmAckClass cls)
  | 40 => some (return .silence)
  | 41 => some (do let lines ← rLineMap; let classes ← rTimes (rCoded AlarmClass.all) 23; return .classMapWrite lines classes)
  | 42 => some (do let minutes ← r16; return .escalationWrite minutes)
  | 43 => some (return .save)
  | 44 => some (return .restart)
  | _ => none

/-- The request a REQUEST payload carries (R168, R179): MALFORMED when its code is unknown or its length is not the one its
code and arguments give; unreadable when a flag or presence byte is neither 0 nor 1. -/
def readRequest : List Byte → Req
  | [] => .malformed 0
  | code :: rest =>
    match rArgs code.toNat with
    | none => .malformed code
    | some r =>
      match r.run (rest, false) with
      | some (req, [], false) => req
      | some (_, [], true) => .unreadableValue code
      | _ => .malformed code

/-! ### The encoder of requests -/

def PointCfg.code (c : PointCfg) : List Byte :=
  bOpt (fun p : PointSource => b8 p.station ++ b8 p.channel) ⟨0, 0⟩ c.source ++ b8 (c.kind.code Kind.code)
    ++ b16 c.numerator ++ b16 c.denominator ++ bs16 c.offset ++ b16 c.low ++ b16 c.high ++ b16 c.staleLimit
    ++ bFlag c.alarm ++ b8 (c.forward.code ForwardMode.code) ++ b16 c.band

def LaneCfg.code (c : LaneCfg) : List Byte :=
  bOpt b8 0 c.ammoniaPoint ++ b16 c.spLow ++ b16 c.spMid ++ b16 c.spHigh ++ b16 c.spStorm ++ b16 c.thresholdA
    ++ b16 c.thresholdB ++ b16 c.hysteresis ++ bFlag c.stormFollow ++ b16 c.startGrace

def ZoneCfg.code (c : ZoneCfg) : List Byte :=
  bFlag c.configured ++ b8 c.doPoint ++ b8 c.valve.code ++ bOpt b8 0 c.feedback ++ bs16 c.offset ++ b16 c.deadband
    ++ b16 c.gain ++ b16 c.maxStep ++ b16 c.minPos ++ b16 c.maxPos ++ b16 c.fallbackPos ++ b16 c.fullOpenAir
    ++ b16 c.mixingFloor ++ b8 c.priorityClass ++ b8 (c.release.code Release.code) ++ b16 c.trimPeriod
    ++ b16 c.doLowBand ++ b16 c.doLowDelay

def BlowerCfg.code (c : BlowerCfg) : List Byte :=
  bFlag c.configured ++ b8 c.station ++ b8 c.runPoint ++ b16 c.rated ++ b16 c.turndown ++ b16 c.rampTime
    ++ b16 c.runDownTime ++ b16 c.minRun ++ b16 c.minStop

def PoolCfg.code (c : PoolCfg) : List Byte :=
  b16 c.upFraction ++ b16 c.upDelay ++ b16 c.downFraction ++ b16 c.downDelay ++ b16 c.minNormal ++ b16 c.minStorm
    ++ bOpt b8 0 c.pressurePoint ++ b16 c.pressureHigh ++ b16 c.pressureLow ++ b16 c.allocationPeriod
    ++ b8 (c.policy.code Policy.code)

def ChannelCfg.code (c : ChannelCfg) : List Byte :=
  bFlag c.configured ++ b8 (c.mode.code ChannelMode.code) ++ b8 c.pump ++ b8 c.volumePoint ++ bOpt b8 0 c.levelPoint
    ++ b16 c.minLevel ++ b16 c.pauseLimit ++ bOpt b8 0 c.influentPoint ++ b16 c.target ++ b16 c.ratio ++ b16 c.stormRatio
    ++ bFlag c.noticeOnCycle ++ bFlag c.autoStart

def StormCfg.code (c : StormCfg) : List Byte :=
  bOpt b8 0 c.influentPoint ++ b16 c.entryThreshold ++ b16 c.exitThreshold ++ b16 c.entryConfirm ++ b16 c.exitConfirm
    ++ b16 c.minimumHold

def LineMap.code (m : LineMap) : List Byte :=
  b8 m.critical.code ++ b8 m.major.code ++ b8 m.minor.code ++ b8 m.advisory.code

/-- The request code: the place in Table 61, counted from 1. -/
def Req.code : Req → Nat
  | .malformed code | .unreadableValue code => code.toNat
  | .identify => 1 | .mapWrite .. => 2 | .mapRead _ => 3 | .mapClear _ => 4 | .groupWrite .. => 5 | .pointWrite .. => 6
  | .pointRead _ => 7 | .rosterLoad _ => 8 | .rosterRead => 9 | .lineWrite _ => 10 | .expressRead _ => 11
  | .stationCounters .. => 12 | .laneWrite .. => 13 | .laneService .. => 14 | .zoneWrite .. => 15 | .zoneRead _ => 16
  | .blowerWrite .. => 17 | .blowerRead _ => 18 | .blowerLockout .. => 19 | .blowerReset _ => 20 | .poolWrite _ => 21
  | .dutyOrder _ => 22 | .dutyRotate => 23 | .grantsRead => 24 | .channelWrite .. => 25 | .channelStart _ => 26
  | .channelStop _ => 27 | .channelRead _ => 28 | .pairSet .. => 29 | .dutySwap _ => 30 | .stormWrite _ => 31
  | .stormForce _ => 32 | .stormRead => 33 | .handDrive .. => 34 | .handRelease .. => 35 | .handRead => 36
  | .alarmList _ => 37 | .alarmAck .. => 38 | .alarmAckClass _ => 39 | .silence => 40 | .classMapWrite .. => 41
  | .escalationWrite _ => 42 | .save => 43 | .restart => 44

/-- The arguments of a request as R179 codes them; the two unreadable forms have none of their own. -/
def Req.argBytes : Req → Option (List Byte)
  | .malformed _ | .unreadableValue _ => none
  | .mapWrite station addr role legacy alarm =>
      some (b8 station ++ b16 addr ++ b8 (role.code Role.code) ++ bFlag legacy ++ bFlag alarm)
  | .groupWrite g members answering => some (b8 g ++ bList b8 members ++ bOpt b8 0 answering)
  | .pointWrite p cfg => some (b8 p ++ cfg.code)
  | .rosterLoad entries => some (bList RosterEntry.code entries)
  | .lineWrite l => some (b16 l.window ++ b16 l.retries ++ b16 l.lostThreshold ++ b16 l.roundPeriod)
  | .laneWrite l cfg => some (b8 l ++ cfg.code)
  | .zoneWrite z cfg => some (b8 z ++ cfg.code)
  | .blowerWrite b cfg => some (b8 b ++ cfg.code)
  | .poolWrite cfg => some cfg.code
  | .dutyOrder order => some (bList b8 order)
  | .channelWrite c cfg => some (b8 c ++ cfg.code)
  | .stormWrite cfg => some cfg.code
  | .stormForce force => some (b8 (force.code Force.code))
  | .handDrive kind index command value timeout =>
      some (b8 (kind.code HandKind.code) ++ b8 index ++ b8 (command.code Command.code) ++ b16 value
        ++ b8 (timeout.code TimeoutCode.code))
  | .handRelease kind index => some (b8 (kind.code HandKind.code) ++ b8 index)
  | .alarmList start => some (b16 start)
  | .alarmAck code kind index => some (b8 (code.code AlarmCode.place) ++ b8 kind ++ b8 index)
  | .alarmAckClass cls => some (b8 (cls.code AlarmClass.code))
  | .classMapWrite lines classes => some (lines.code ++ classes.flatMap fun c => b8 (c.code AlarmClass.code))
  | .escalationWrite minutes => some (b16 minutes)
  | .mapRead i | .mapClear i | .pointRead i | .expressRead i | .zoneRead i | .blowerRead i | .blowerReset i
  | .channelStart i | .channelStop i | .channelRead i | .dutySwap i => some (b8 i)
  | .stationCounters i f | .laneService i f | .blowerLockout i f | .pairSet i f => some (b8 i ++ bFlag f)
  | .identify | .rosterRead | .dutyRotate | .grantsRead | .stormRead | .handRead | .silence | .save | .restart => some []

/-- The payload of the REQUEST that carries a readable request. -/
def Req.payload (r : Req) : Option (List Byte) := r.argBytes.map (b8 r.code ++ ·)

/-- A whole plant frame around a payload (Table 69). -/
def plantFrame (dest source kind tag : Byte) (payload : List Byte) : List Byte :=
  let inner := b8 payload.length ++ [dest, source, kind, tag] ++ payload
  0xA5#8 :: (inner ++ crcBytes inner)

/-- A whole field frame around a body (11.1). -/
def fieldFrame (body : List Byte) : List Byte :=
  let inner := b8 body.length ++ body
  0xC3#8 :: (inner ++ crcBytes inner)

/-! ### Answers -/

/-- One reading of an answer (Table 67): tagged with its kind, or a raw signed count. -/
structure Reading where
  tag : Option Kind
  channel : Nat
  value : Int
  deriving DecidableEq, Repr

/-- A valid ANSWER body (Table 66); the echo is passed over (R8). -/
structure Answer where
  source : Nat
  sequence : Nat
  fault : Bool
  localMode : Bool
  held : Bool
  readings : List Reading
  deriving DecidableEq, Repr

/-- One reading from its bytes (Tables 67 and 68). -/
def readReading (untagged : Bool) : List Byte → Option (Reading × List Byte)
  | [] => none
  | b0 :: rest =>
    if untagged then
      match rest with
      | hi :: lo :: tail =>
        if b0.toNat < 4 then some (⟨none, b0.toNat, signed16 (word16 hi lo)⟩, tail) else none
      | _ => none
    else
      match rest with
      | hi :: lo :: _ :: tail =>
        if b0.toNat / 16 = 0 then none else
        match Kind.all[b0.toNat / 16 - 1]? with
        | none => none
        | some k => if b0.toNat % 16 < 4 then some (⟨some k, b0.toNat % 16, word16 hi lo⟩, tail) else none
      | _ => none

/-- `n` readings and nothing after them. -/
def readReadings (untagged : Bool) : Nat → List Byte → Option (List Reading)
  | 0, [] => some []
  | 0, _ :: _ => none
  | n + 1, bytes =>
    match readReading untagged bytes with
    | none => none
    | some (r, tail) => (readReadings untagged n tail).map (r :: ·)

/-- R182: the content checks of a frame whose CRC agrees, and what it then carries. -/
def readAnswer : List Byte → Option Answer
  | src :: control :: seq :: status :: count :: rest =>
    let readings := if control.getLsbD 0 then rest.drop 3 else rest
    if !control.getLsbD 7 || 8 < count.toNat || (control.getLsbD 0 && rest.length < 3) then none else
    (readReadings (control.getLsbD 1) count.toNat readings).map fun rs =>
      { source := src.toNat, sequence := seq.toNat, fault := status.getLsbD 0, localMode := status.getLsbD 1,
        held := status.getLsbD 2, readings := rs }
  | _ => none

end Sys2Proof
end

