-- ==== Sys2Proof/Config.lean ====
section
/-! DEFINITION. What the spec leaves to the part or states no value for: free values, constants with no body. -/

namespace Sys2Proof

/-- What the uptime clock holds after its last value. Chapter 3.2 gives the clock the range 0 to 2³²−1 and does not say
what follows 2³²−1 (FREE VALUE, notes/assumptions/4.md). -/
opaque Config.uptimeAfterLast : BitVec 32

/-- The characters of the part name and of the revision of its request set, which IDENTIFY reports first (R169) and to
which the spec gives no value (FREE VALUE, notes/assumptions/9.md). -/
opaque Config.identity : List Byte

/-- The two bytes sent for a figure that does not fit the two bytes R179 or Table 72 gives it, such as an air shortfall
above 65535 (R98): the spec states no coding for it (FREE VALUE, notes/assumptions/9.md). -/
opaque Config.overwide16 : Nat → BitVec 16

/-- The four bytes sent for a figure that does not fit four bytes (FREE VALUE, notes/assumptions/9.md). -/
opaque Config.overwide32 : Nat → BitVec 32

end Sys2Proof
end

