-- ==== Sys2Proof/Machine/State.lean ====
section
/-! DEFINITION. The state of the part, as plain data, and the state after reset. Banks are lists of the length the spec
gives: 48 stations, 8 groups, 128 points, 6 lanes, 24 zones, 6 blowers, 4 channels, 2 pairs. Times are uptimes. A timer
counted in seconds is held as the uptime of its expiry, `none` while stopped (notes/assumptions/3.md). -/

namespace Sys2Proof.Machine

open Sys2Proof

/-- No condition of the spec stops the part (INVENTORY.md, Faults): there is no fault to raise. -/
inductive Fault where
  deriving DecidableEq, Repr

/-- Why a command has no meaning. -/
inductive Refusal where
  /-- The arm of the command has no meaning yet: raised by `exec` alone, safe. -/
  | notModelled (mnemonic : String)
  deriving DecidableEq, Repr

/-! ### Stations, groups, points (chapter 2) -/

/-- Chapter 1.8. -/
inductive Health where
  | unseen | live | lost
  deriving DecidableEq, Repr

/-- Table 19, as Table 71 numbers them. -/
inductive Validity where
  | none | good | stale | suspect
  deriving DecidableEq, Repr

/-- Table 18, suspect cause. -/
inductive SuspectCause where
  | range | kind
  deriving DecidableEq, Repr

/-- Table 15, what MAP_WRITE writes. -/
structure StationCfg where
  configured : Bool
  addr : Nat
  role : Role
  legacy : Bool
  alarm : Bool
  deriving DecidableEq, Repr

/-- Table 10. -/
structure Counters where
  turns : Nat
  failed : Nat
  gaps : Nat
  repeats : Nat
  formatErrors : Nat
  deriving DecidableEq, Repr

/-- Table 15: a station map entry. -/
structure Station where
  cfg : StationCfg
  fault : Bool
  localMode : Bool
  held : Bool
  health : Health
  consec : Nat
  counters : Counters
  lastSeq : Option Nat
  deriving DecidableEq, Repr

/-- R29: one entry of the group table. -/
structure Group where
  members : List Nat
  answering : Option Nat
  deriving DecidableEq, Repr

/-- Table 18: a point. -/
structure Point where
  cfg : PointCfg
  value : Nat
  validity : Validity
  suspectCause : Option SuspectCause
  lastTime : Option Nat
  staleDeadline : Option Nat
  fresh : Bool
  lastForwarded : Option Nat
  deriving DecidableEq, Repr

/-! ### Field line (chapter 1) -/

/-- A demand a DRIVE carries (Table 65). -/
inductive Drive where
  | stop (speed : Nat)
  | run (speed : Nat)
  | position (p : Nat)
  deriving DecidableEq, Repr

/-- R13: an express entry; a READ has no payload. -/
structure ExpressEntry where
  target : Target
  payload : Option Drive
  deriving DecidableEq, Repr

/-- R5: where a turn stands, its poll being sent or its answer window open. -/
inductive TurnPhase where
  | sending | window
  deriving DecidableEq, Repr

/-- 1.3: the turn on the line. `payload = none` is a READ. -/
structure Turn where
  fromRoster : Bool
  station : Nat
  group : Option Nat
  addr : Nat
  answerAddr : Nat
  payload : Option Drive
  window : Nat
  retries : Nat
  retriesMade : Nat
  phase : TurnPhase
  deriving DecidableEq, Repr

/-- The state of the Field Line Controller (chapter 1, opening). `roundTimer` is the period of a running timer, `none` once
expired. `passRest` is what the pass has still to reach, `gap` marks that a roster turn has closed and the line arbiter
has not yet chosen what follows (R16). -/
structure Flc where
  active : List RosterEntry
  staged : Option (List RosterEntry)
  round : Nat
  roundTimer : Option Nat
  passEnded : Bool
  passRest : List RosterEntry
  gap : Bool
  overruns : Nat
  consecOverruns : Nat
  turn : Option Turn
  express : List ExpressEntry
  expressDrops : Nat
  unsolicited : Nat
  line : LineSettings
  deriving DecidableEq, Repr

/-! ### Lanes and zones (chapters 3 and 5) -/

/-- Table 22, ammonia band and active band. -/
inductive Band where
  | low | mid | high | storm
  deriving DecidableEq, Repr

/-- Table 22, with the start grace being counted (R63, R65, R68). -/
structure Lane where
  inService : Bool
  cfg : LaneCfg
  ammoniaBand : Band
  ammoniaValid : Bool
  activeBand : Band
  graceDeadline : Option Nat
  graceExpired : Bool
  deriving DecidableEq, Repr

/-- Table 26. -/
inductive ZoneMode where
  | off | waiting | auto | fallback | hand
  deriving DecidableEq, Repr

/-- Table 25, cause set. -/
structure Causes where
  doInvalid : Bool
  valveUnavailable : Bool
  deriving DecidableEq, Repr

/-- R61, R62: a spell, since when and whether its alarm has been raised in it. -/
structure Spell where
  since : Option Nat
  raised : Bool
  deriving DecidableEq, Repr

/-- Tables 24, 25 and 36. The driven position and the demand are computed (`State.driven`, `State.demand`). -/
structure Zone where
  cfg : ZoneCfg
  mode : ZoneMode
  modeBeforeHand : ZoneMode
  causes : Causes
  desired : Nat
  cap : Nat
  grant : Nat
  air : Spell
  doLow : Spell
  trimDeadline : Option Nat
  trimCount : Nat
  skipCount : Nat
  lastModeChange : Nat
  deriving DecidableEq, Repr

/-! ### Blowers, pool and allocation (chapters 4 and 5) -/

/-- Table 31. -/
inductive BlowerState where
  | unknown | stopped | starting | running | stopping | tripped | localMode | lockedOut
  deriving DecidableEq, Repr

/-- Table 30, trip cause. -/
inductive TripCause where
  | fault | startFail | lost
  deriving DecidableEq, Repr

/-- Tables 29 and 30. The command is computed (`State.blowerRun`). -/
structure Blower where
  cfg : BlowerCfg
  lockout : Bool
  state : BlowerState
  tripCause : Option TripCause
  speed : Nat
  runStart : Option Nat
  runEnd : Option Nat
  rampDeadline : Option Nat
  runDownDeadline : Option Nat
  lastChange : Nat
  deriving DecidableEq, Repr

/-- Table 36: the figures of the last pass. -/
structure PassFigures where
  supply : Nat
  handClaims : Nat
  floors : Nat
  demand : Nat
  grants : Nat
  deriving DecidableEq, Repr

/-- Chapter 4.9 to 4.12 and Table 36: the pool and the allocation. `supply` is the supply figure. -/
structure Pool where
  cfg : PoolCfg
  dutyOrder : List Nat
  runList : List Nat
  supply : Nat
  stageUpSince : Option Nat
  stageDownSince : Option Nat
  settled : Bool
  firstPassDone : Bool
  pressureHigh : Bool
  pressureLow : Bool
  allocDeadline : Option Nat
  passCount : Nat
  lastPass : Option Nat
  airShort : Bool
  figures : PassFigures
  deriving DecidableEq, Repr

/-! ### Return channels (chapter 6) -/

/-- Table 44. -/
inductive ChannelState where
  | disabled | running | paused | faulted
  deriving DecidableEq, Repr

/-- 6.1: a pair's duty selection. -/
inductive Duty where
  | first | partner
  deriving DecidableEq, Repr

/-- Tables 42 and 43. -/
structure Channel where
  cfg : ChannelCfg
  state : ChannelState
  target : Nat
  remaining : Nat
  cycles : Nat
  counted : Nat
  overshoot : Nat
  lastMeter : Option Nat
  pauseStart : Option Nat
  pauseDeadline : Option Nat
  accumulator : Nat
  lastInfluent : Option Nat
  autoPending : Bool
  deriving DecidableEq, Repr

/-- 6.1: the pair flag and the duty selection. -/
structure Pair where
  joined : Bool
  duty : Duty
  deriving DecidableEq, Repr

/-! ### Storm monitor (chapter 7) -/

/-- Table 48, state. -/
inductive StormState where
  | normal | rising | storm | falling
  deriving DecidableEq, Repr

/-- Table 48: a timer of the monitor. -/
inductive StormTimer where
  | stopped
  | running (expiry : Nat)
  | suspended (left : Nat)
  deriving DecidableEq, Repr

/-- Tables 47 and 48. -/
structure Storm where
  cfg : StormCfg
  force : Force
  state : StormState
  entryTimer : StormTimer
  holdTimer : StormTimer
  exitTimer : StormTimer
  holdExpired : Bool
  influentValid : Bool
  lastInfluent : Option Nat
  lastChange : Nat
  deriving DecidableEq, Repr

/-! ### Hand passages (chapter 8) -/

/-- Table 52. -/
structure Passage where
  target : HandTarget
  demand : Drive
  timeout : TimeoutCode
  deadline : Option Nat
  start : Nat
  refreshes : Nat
  deriving DecidableEq, Repr

/-! ### Alarms (chapter 9) -/

/-- Table 56, state. -/
inductive RecordState where
  | raisedUnack | raisedAck | clearedUnack
  deriving DecidableEq, Repr

/-- Table 56; pinned and escalated are computed (`State.pinned`, `State.escalated`). -/
structure AlarmRecord where
  code : AlarmCode
  source : Source
  cls : AlarmClass
  state : RecordState
  count : Nat
  first : Nat
  last : Nat
  value : Option Nat
  unack : Option Nat
  deriving DecidableEq, Repr

/-- 9.2, 9.7, 9.8: the list, its flags, the class map, the escalation time and the lines. -/
structure Alarms where
  records : List AlarmRecord
  full : Bool
  silenced : Bool
  escalation : Nat
  lineMap : LineMap
  codeClasses : List AlarmClass
  lines : LineSet
  deriving DecidableEq, Repr

/-! ### Plant port (chapter 10) -/

/-- Table 60. -/
inductive Status where
  | done | busy | refused | noObject | malformed
  deriving DecidableEq, Repr

/-- Table 63, kind of start. -/
inductive StartKind where
  | powerOn | resetPin | restart
  deriving DecidableEq, Repr

/-- R158, action. -/
inductive AlarmAction where
  | raised | cleared | acknowledged | evicted
  deriving DecidableEq, Repr

/-- A record as a notice or a report shows it (Table 72). -/
structure AlarmView where
  record : AlarmRecord
  removed : Bool
  pinned : Bool
  escalated : Bool
  deriving DecidableEq, Repr

/-- Table 62. -/
inductive Notice where
  | alarmChange (action : AlarmAction) (full : Bool) (view : AlarmView)
  | channelDone (channel cycles counted : Nat)
  | stormChange (old new : StormState) (force : Force) (inForce : Bool) (last : Option Nat) (uptime : Nat)
  | blowerChange (blower : Nat) (oldState : BlowerState) (oldCause : Option TripCause) (newState : BlowerState)
      (newCause : Option TripCause) (uptime : Nat)
  | zoneModeChange (zone : Nat) (old new : ZoneMode) (causes : Causes) (uptime : Nat)
  | startComplete (kind : StartKind) (imageValid : Bool) (uptime : Nat)
  deriving DecidableEq, Repr

/-- R167: a reply. `code` is the request code, `report` stands after the status of a DONE reply to a read. -/
structure Reply where
  dest : Byte
  tag : Byte
  code : Nat
  status : Status
  report : List Byte
  deriving DecidableEq, Repr

/-- R172: a point pending in the forward queue. -/
structure PendingPoint where
  point : Nat
  value : Nat
  validity : Validity
  deriving DecidableEq, Repr

/-- R173: the frame on the transmitter. -/
inductive TxFrame where
  | reply (r : Reply)
  | notice (dest : Byte) (n : Notice) (lost : Nat)
  | reading (dest : Byte) (p : PendingPoint) (uptime : Nat)
  deriving DecidableEq, Repr

/-- R174: what the settings image holds; a flag beside a lane's configuration is its in-service flag, beside a blower's
its lockout flag. -/
structure Settings where
  stations : List StationCfg
  groups : List Group
  points : List PointCfg
  roster : List RosterEntry
  line : LineSettings
  lanes : List (Bool × LaneCfg)
  zones : List ZoneCfg
  blowers : List (Bool × BlowerCfg)
  pool : PoolCfg
  dutyOrder : List Nat
  channels : List ChannelCfg
  pairs : List Pair
  storm : StormCfg
  force : Force
  lineMap : LineMap
  codeClasses : List AlarmClass
  escalation : Nat
  deriving DecidableEq, Repr

/-- R175: a save in progress, its snapshot and the header its reply answers. -/
structure Save where
  snapshot : Settings
  hdr : Hdr
  deriving DecidableEq, Repr

/-- Chapter 10. `imageOk` says whether the check word of the retained image agrees (R174). -/
structure Port where
  plantAddr : Nat
  fastLine : Bool
  startKind : StartKind
  imageValidAtStart : Bool
  image : Settings
  imageOk : Bool
  save : Option Save
  requests : List Request
  replies : List Reply
  notices : List Notice
  noticesLost : Nat
  forward : List PendingPoint
  checkErrors : Nat
  unanswered : Nat
  address : Byte
  tx : Option TxFrame
  restartTaken : Bool
  deriving DecidableEq, Repr

/-- The state of the part, and the queue of commands that wait. -/
structure State where
  uptime : Nat
  stations : List Station
  groups : List Group
  points : List Point
  flc : Flc
  lanes : List Lane
  zones : List Zone
  blowers : List Blower
  pool : Pool
  channels : List Channel
  pairs : List Pair
  storm : Storm
  hand : List Passage
  alarms : Alarms
  port : Port
  pending : List Instr
  deriving DecidableEq, Repr

/-! ### Blank configuration: the defaults of an invalid image, and the values of notes/assumptions/6.md -/

end Sys2Proof.Machine

namespace Sys2Proof

def PointCfg.blank : PointCfg :=
  { source := none, kind := .val .dissolvedOxygen, numerator := 1, denominator := 1, offset := 0, low := 0, high := 0,
    staleLimit := 30, alarm := false, forward := .val .never, band := 0 }

/-- Table 11, defaults. -/
def LineSettings.default : LineSettings := ⟨10, 1, 3, 10⟩

/-- Table 27, lane configuration of an invalid image. -/
def LaneCfg.blank : LaneCfg :=
  { ammoniaPoint := none, spLow := 200, spMid := 200, spHigh := 200, spStorm := 200, thresholdA := 0, thresholdB := 1000,
    hysteresis := 0, stormFollow := false, startGrace := 300 }

def ZoneCfg.blank : ZoneCfg :=
  { configured := false, doPoint := 0, valve := .station 0, feedback := none, offset := 0, deadband := 0, gain := 10,
    maxStep := 5, minPos := 0, maxPos := 0, fallbackPos := 0, fullOpenAir := 10, mixingFloor := 0, priorityClass := 0,
    release := .val .whenDone, trimPeriod := 30, doLowBand := 0, doLowDelay := 60 }

def BlowerCfg.blank : BlowerCfg :=
  { configured := false, station := 0, runPoint := 0, rated := 100, turndown := 300, rampTime := 10, runDownTime := 10,
    minRun := 60, minStop := 60 }

/-- Table 32, defaults. -/
def PoolCfg.default : PoolCfg :=
  { upFraction := 900, upDelay := 120, downFraction := 800, downDelay := 600, minNormal := 1, minStorm := 2,
    pressurePoint := none, pressureHigh := 900, pressureLow := 300, allocationPeriod := 5, policy := .val .priority }

def ChannelCfg.blank : ChannelCfg :=
  { configured := false, mode := .val .batch, pump := 0, volumePoint := 0, levelPoint := none, minLevel := 0,
    pauseLimit := 1, influentPoint := none, target := 1, ratio := 1, stormRatio := 1, noticeOnCycle := false,
    autoStart := false }

/-- Table 47, defaults. -/
def StormCfg.default : StormCfg := ⟨none, 20000, 19999, 300, 900, 60⟩

/-- Table 57. -/
def LineMap.default : LineMap :=
  { critical := ⟨true, true, true, true⟩, major := ⟨true, true, false, true⟩, minor := ⟨false, true, false, false⟩,
    advisory := ⟨false, false, false, false⟩ }

end Sys2Proof

namespace Sys2Proof.Machine

open Sys2Proof

def StationCfg.blank : StationCfg := ⟨false, 0, .probe, false, false⟩
def Counters.zero : Counters := ⟨0, 0, 0, 0, 0⟩
def Group.blank : Group := ⟨[], none⟩

/-- Table 55, default class, in the order of the codes. -/
def defaultCodeClasses : List AlarmClass :=
  [.major, .advisory, .minor, .minor, .minor, .major, .major, .minor, .advisory, .advisory, .critical, .major, .minor,
   .critical, .major, .major, .major, .minor, .major, .advisory, .major, .minor, .major]

/-- What every table is loaded from when the image is invalid (R24, R46, R73, R93, R106, R125, R135, R164). -/
def Settings.blank : Settings :=
  { stations := List.replicate 48 .blank, groups := List.replicate 8 .blank, points := List.replicate 128 .blank,
    roster := [], line := .default, lanes := List.replicate 6 (false, .blank), zones := List.replicate 24 .blank,
    blowers := List.replicate 6 (false, .blank), pool := .default, dutyOrder := [],
    channels := List.replicate 4 .blank, pairs := List.replicate 2 ⟨false, .first⟩, storm := .default, force := .auto,
    lineMap := .default, codeClasses := defaultCodeClasses, escalation := 15 }

/-! ### Start states of the records, given their configuration -/

/-- Tables 12 and 20. -/
def Station.start (c : StationCfg) : Station :=
  ⟨c, false, false, false, .unseen, 0, .zero, none⟩

/-- Table 20. -/
def Point.start (c : PointCfg) : Point := ⟨c, 0, .none, none, none, none, false, none⟩

/-- Table 27; the bands are judged afterwards. -/
def Lane.start (now : Nat) (inService : Bool) (c : LaneCfg) : Lane :=
  { inService := inService, cfg := c, ammoniaBand := .high, ammoniaValid := false, activeBand := .mid,
    graceDeadline := if inService then some (now + c.startGrace) else none, graceExpired := false }

/-- Tables 27 and 37. -/
def Zone.start (now : Nat) (inService : Bool) (c : ZoneCfg) : Zone :=
  { cfg := c, mode := if c.configured && inService then .waiting else .off, modeBeforeHand := .off,
    causes := ⟨false, false⟩, desired := 0, cap := 0, grant := 0, air := ⟨none, false⟩, doLow := ⟨none, false⟩,
    trimDeadline := none, trimCount := 0, skipCount := 0, lastModeChange := now }

/-- Table 33; the trip of a blower whose station is not configured follows. -/
def Blower.start (now : Nat) (lockout : Bool) (c : BlowerCfg) : Blower :=
  { cfg := c, lockout := lockout, state := .unknown, tripCause := none, speed := 0, runStart := none, runEnd := none,
    rampDeadline := none, runDownDeadline := none, lastChange := now }

/-- Tables 33 and 37. -/
def Pool.start (c : PoolCfg) (dutyOrder : List Nat) : Pool :=
  { cfg := c, dutyOrder := dutyOrder, runList := [], supply := 0, stageUpSince := none, stageDownSince := none,
    settled := false, firstPassDone := false, pressureHigh := false, pressureLow := false, allocDeadline := none,
    passCount := 0, lastPass := none, airShort := false, figures := ⟨0, 0, 0, 0, 0⟩ }

/-- Table 45; auto-start pending is set afterwards. -/
def Channel.start (c : ChannelCfg) : Channel :=
  { cfg := c, state := .disabled, target := 0, remaining := 0, cycles := 0, counted := 0, overshoot := 0,
    lastMeter := none, pauseStart := none, pauseDeadline := none, accumulator := 0, lastInfluent := none,
    autoPending := false }

/-- Table 50. -/
def Storm.start (now : Nat) (c : StormCfg) (force : Force) : Storm :=
  { cfg := c, force := force, state := match force with | .on => .storm | _ => .normal, entryTimer := .stopped,
    holdTimer := .stopped, exitTimer := .stopped, holdExpired := false, influentValid := false, lastInfluent := none,
    lastChange := now }

/-- Table 12. -/
def Flc.start (roster : List RosterEntry) (line : LineSettings) : Flc :=
  { active := roster, staged := none, round := 0, roundTimer := some line.roundPeriod, passEnded := false,
    passRest := roster, gap := false, overruns := 0, consecOverruns := 0, turn := none, express := [], expressDrops := 0,
    unsolicited := 0, line := line }

/-- The alarm list with no record: Table 58 at power-on, lines off. -/
def Alarms.start (lineMap : LineMap) (codeClasses : List AlarmClass) (escalation : Nat) : Alarms :=
  { records := [], full := false, silenced := false, escalation := escalation, lineMap := lineMap,
    codeClasses := codeClasses, lines := ⟨false, false, false, false⟩ }

/-- The one record of the reset state: SETTINGS_INVALID (R176 step 2, R149). -/
def resetRecord : AlarmRecord :=
  { code := .settingsInvalid, source := .works, cls := .major, state := .raisedUnack, count := 1, first := 0, last := 0,
    value := none, unack := some 0 }

/-- The machine right after reset: power-on with the strap pins low and a retained image that is invalid
(notes/assumptions/5.md). The pool, with no blower configured, has settled and made its first pass (R93), the pass of
round 0 has ended (R1), SETTINGS_INVALID stands raised and its notice is on the transmitter (R173). -/
def State.reset : State :=
  { uptime := 0,
    stations := List.replicate 48 (Station.start .blank),
    groups := List.replicate 8 .blank,
    points := List.replicate 128 (Point.start .blank),
    flc := { Flc.start [] .default with passEnded := true },
    lanes := List.replicate 6 (Lane.start 0 false .blank),
    zones := List.replicate 24 (Zone.start 0 false .blank),
    blowers := List.replicate 6 (Blower.start 0 false .blank),
    pool := { Pool.start .default [] with
      settled := true, firstPassDone := true, allocDeadline := some 5, passCount := 1, lastPass := some 0 },
    channels := List.replicate 4 (Channel.start .blank),
    pairs := List.replicate 2 ⟨false, .first⟩,
    storm := Storm.start 0 .default .auto,
    hand := [],
    alarms := { Alarms.start .default defaultCodeClasses 15 with
      records := [resetRecord], lines := ⟨true, true, false, false⟩ },
    port :=
    { plantAddr := 48, fastLine := false, startKind := .powerOn, imageValidAtStart := false, image := .blank,
      imageOk := false, save := none, requests := [], replies := [], notices := [.startComplete .powerOn false 0],
      noticesLost := 0, forward := [], checkErrors := 0, unanswered := 0, address := 0,
      tx := some (.notice 0 (.alarmChange .raised false ⟨resetRecord, false, false, false⟩) 0), restartTaken := false },
    pending := [] }

end Sys2Proof.Machine
end

