-- ==== Sys2Proof/Machine/Ops.lean ====
section
/-! DEFINITION. The named operations over the banks of State, over its saturating and wrapping counts and over the three
queues every block offers to: notices (R170), express polls (R13, R14), forwarded readings (R172). -/

namespace Sys2Proof.Machine

open Sys2Proof

/-! ### Counts -/

/-- A count that holds at `top`. -/
def holdAdd (top n k : Nat) : Nat := min top (n + k)

/-- A figure limited to a range. -/
def clampNat (low high n : Nat) : Nat := max low (min high n)

/-- A signed figure limited to a range of natural figures. -/
def clampInt (low high : Nat) (n : Int) : Nat := (max (low : Int) (min (high : Int) n)).toNat

/-! ### Banks -/

def State.station (s : State) (i : Nat) : Station := s.stations.getD i (Station.start .blank)
def State.group (s : State) (g : Nat) : Group := s.groups.getD g .blank
def State.point (s : State) (p : Nat) : Point := s.points.getD p (Point.start .blank)
def State.lane (s : State) (l : Nat) : Lane := s.lanes.getD l (Lane.start 0 false .blank)
def State.zone (s : State) (z : Nat) : Zone := s.zones.getD z (Zone.start 0 false .blank)
def State.blower (s : State) (b : Nat) : Blower := s.blowers.getD b (Blower.start 0 false .blank)
def State.channel (s : State) (c : Nat) : Channel := s.channels.getD c (Channel.start .blank)
def State.pair (s : State) (k : Nat) : Pair := s.pairs.getD k ⟨false, .first⟩

/-- One entry of a bank changed; an index outside the bank changes nothing. -/
def State.modStation (s : State) (i : Nat) (f : Station → Station) : State := { s with stations := s.stations.modify i f }
def State.modGroup (s : State) (g : Nat) (f : Group → Group) : State := { s with groups := s.groups.modify g f }
def State.modPoint (s : State) (p : Nat) (f : Point → Point) : State := { s with points := s.points.modify p f }
def State.modLane (s : State) (l : Nat) (f : Lane → Lane) : State := { s with lanes := s.lanes.modify l f }
def State.modZone (s : State) (z : Nat) (f : Zone → Zone) : State := { s with zones := s.zones.modify z f }
def State.modBlower (s : State) (b : Nat) (f : Blower → Blower) : State := { s with blowers := s.blowers.modify b f }
def State.modChannel (s : State) (c : Nat) (f : Channel → Channel) : State :=
  { s with channels := s.channels.modify c f }
def State.modPair (s : State) (k : Nat) (f : Pair → Pair) : State := { s with pairs := s.pairs.modify k f }
def State.modFlc (s : State) (f : Flc → Flc) : State := { s with flc := f s.flc }
def State.modPool (s : State) (f : Pool → Pool) : State := { s with pool := f s.pool }
def State.modStorm (s : State) (f : Storm → Storm) : State := { s with storm := f s.storm }
def State.modAlarms (s : State) (f : Alarms → Alarms) : State := { s with alarms := f s.alarms }
def State.modPort (s : State) (f : Port → Port) : State := { s with port := f s.port }

/-! ### Time -/

/-- A timer that is running and has reached its expiry. -/
def State.due (s : State) (deadline : Option Nat) : Bool :=
  match deadline with
  | none => false
  | some d => d ≤ s.uptime

/-- At least `d` seconds have passed since `t`; absent counts as long past (Table 30). -/
def State.longSince (s : State) (t : Option Nat) (d : Nat) : Bool :=
  match t with
  | none => true
  | some t => t + d ≤ s.uptime

/-- Some lie at least `d` seconds in the past: an absent time has not begun. -/
def State.lasted (s : State) (t : Option Nat) (d : Nat) : Bool :=
  match t with
  | none => false
  | some t => t + d ≤ s.uptime

/-- Is the time present and still ahead, at the time `deadline`? Seconds left, absent while stopped. -/
def State.secondsLeft (s : State) (deadline : Option Nat) : Option Nat := deadline.map (· - s.uptime)

/-! ### Offers -/

/-- R170: a notice is added at the tail, or lost and counted. -/
def State.offerNotice (s : State) (n : Notice) : State :=
  s.modPort fun p =>
    if p.notices.length < 32 then { p with notices := p.notices ++ [n] }
    else { p with noticesLost := holdAdd 65535 p.noticesLost 1 }

/-- R13: two entries are the same when they name the same target and poll kind. -/
def ExpressEntry.same (a b : ExpressEntry) : Bool := a.target == b.target && a.payload.isSome == b.payload.isSome

/-- R13, R14: was the offer queued or coalesced? -/
def State.expressTaken (s : State) (e : ExpressEntry) : Bool :=
  s.flc.express.any (·.same e) || decide (s.flc.express.length < 8)

/-- R13, R14: an offer to the express queue coalesces with an entry of its target and kind, is added at the tail, or is
dropped and counted. -/
def State.offerExpress (s : State) (e : ExpressEntry) : State :=
  s.modFlc fun f =>
    if f.express.any (·.same e) then { f with express := f.express.map fun x => if x.same e then e else x }
    else if f.express.length < 8 then { f with express := f.express ++ [e] }
    else { f with expressDrops := holdAdd 65535 f.expressDrops 1 }

/-- An express DRIVE. -/
def State.offerDrive (s : State) (t : Target) (d : Drive) : State := s.offerExpress ⟨t, some d⟩

/-- R172: would the forward queue take an offer of this point? -/
def State.forwardTakes (s : State) (p : Nat) : Bool :=
  s.port.forward.any (·.point == p) || decide (s.port.forward.length < 16)

/-- R172: an offer of a reading replaces the pending point in its place, is added at the tail, or is dropped. -/
def State.offerForward (s : State) (e : PendingPoint) : State :=
  s.modPort fun q =>
    if q.forward.any (·.point == e.point) then
      { q with forward := q.forward.map fun x => if x.point == e.point then e else x }
    else if q.forward.length < 16 then { q with forward := q.forward ++ [e] }
    else q

/-- Visit the indexes 0..n-1 in order. -/
def State.each (s : State) (n : Nat) (f : Nat → State → State) : State := (List.range n).foldl (fun s i => f i s) s

end Sys2Proof.Machine
end

