-- ==== Sys2Proof/Machine/Operands.lean ====
section
/-! DEFINITION. What each block reads of the others' records: a station's health as R28 gives it, a point as R52 gives it,
the driven position and demand of a zone (R59, R60), a blower's reports and command (R75), a pump's command (R110). -/

namespace Sys2Proof.Machine

open Sys2Proof

/-! ### Stations and groups -/

/-- R28: the health other blocks read; an unconfigured station reads LOST. -/
def State.readsHealth (s : State) (i : Nat) : Health :=
  let st := s.station i
  if st.cfg.configured then st.health else .lost

/-- R28: the FAULT flag other blocks read. -/
def State.readsFault (s : State) (i : Nat) : Bool := (s.station i).cfg.configured && (s.station i).fault

/-- R28: the LOCAL flag other blocks read. -/
def State.readsLocal (s : State) (i : Nat) : Bool := (s.station i).cfg.configured && (s.station i).localMode

/-- The station that answers for a target: itself, or the group's answering member. -/
def State.answerer (s : State) : Target → Option Nat
  | .station i => some i
  | .group g => (s.group g).answering

/-- R18, R28: the health of a station or group; a group with no answering member reads LOST. -/
def State.targetHealth (s : State) (t : Target) : Health :=
  match s.answerer t with
  | none => .lost
  | some i => s.readsHealth i

/-- The LOCAL flag of a station or of a group's answering member. -/
def State.targetLocal (s : State) (t : Target) : Bool :=
  match s.answerer t with
  | none => false
  | some i => s.readsLocal i

/-- 2.1: the groups whose member list names the station. -/
def State.memberships (s : State) (i : Nat) : List Bool :=
  (List.range 8).map fun g => (s.group g).members.contains i

/-! ### Points -/

/-- R52, R107, R126: GOOD, and of the kind the reading block requires. An unbound point is NONE. -/
def State.pointGood (s : State) (p : Nat) (k : Kind) : Bool :=
  let x := s.point p
  x.validity == .good && x.cfg.kind == .val k

/-- The same of a point that may be absent. -/
def State.optPointGood (s : State) (p : Option Nat) (k : Kind) : Bool :=
  match p with
  | none => false
  | some p => s.pointGood p k

/-- The value a point holds. -/
def State.pointValue (s : State) (p : Nat) : Nat := (s.point p).value

/-- A named point exists and is of the kind. -/
def State.pointIs (s : State) (p : Nat) (k : Kind) : Bool := decide (p < 128) && (s.point p).cfg.kind == .val k

/-- A point that is present is of the kind. -/
def State.optPointIs (s : State) (p : Option Nat) (k : Kind) : Bool :=
  match p with
  | none => true
  | some p => s.pointIs p k

/-! ### Storm -/

/-- Chapter 7: storm is in force in STORM and FALLING. -/
def State.stormInForce (s : State) : Bool :=
  match s.storm.state with
  | .storm | .falling => true
  | .normal | .rising => false

/-! ### Hand passages -/

/-- The passage that holds a target. -/
def State.passage (s : State) (t : HandTarget) : Option Passage := s.hand.find? (·.target == t)

/-- The position a passage carries to a valve. -/
def Passage.position (p : Passage) : Nat :=
  match p.demand with
  | .position x => x
  | .run x | .stop x => x

/-- The hand position of a zone, 0 while it is not held. -/
def State.handPosition (s : State) (z : Nat) : Nat :=
  match s.passage ⟨.zone, z⟩ with
  | none => 0
  | some p => p.position

/-- Is the pump held? -/
def State.pumpHeld (s : State) (st : Nat) : Bool := (s.passage ⟨.pump, st⟩).isSome

/-- Is the pump held with RUN? -/
def State.pumpHeldRun (s : State) (st : Nat) : Bool :=
  match s.passage ⟨.pump, st⟩ with
  | some p => match p.demand with
    | .run _ => true
    | _ => false
  | none => false

/-- R137, R142: what a target's reachability is read from. -/
def State.handTargetHealth (s : State) (t : HandTarget) : Health :=
  match t.kind with
  | .zone => s.targetHealth (s.zone t.index).cfg.valve
  | .pump => s.readsHealth t.index

/-! ### Zones -/

/-- The lane of a zone, in zone order (3.4). -/
def laneOf (z : Nat) : Nat := z / 4

/-- The setpoint of the lane's active band. -/
def Lane.bandSetpoint (l : Lane) : Nat :=
  match l.activeBand with
  | .low => l.cfg.spLow
  | .mid => l.cfg.spMid
  | .high => l.cfg.spHigh
  | .storm => l.cfg.spStorm

/-- R50. -/
def State.setpoint (s : State) (z : Nat) : Nat :=
  clampInt 20 400 ((s.lane (laneOf z)).bandSetpoint + (s.zone z).cfg.offset)

/-- R53. -/
def State.valveAvailable (s : State) (z : Nat) : Bool :=
  let v := (s.zone z).cfg.valve
  s.targetHealth v == .live && !s.targetLocal v

/-- R54: the causes that hold now. -/
def State.causesNow (s : State) (z : Nat) : Causes :=
  ⟨!s.pointGood (s.zone z).cfg.doPoint .dissolvedOxygen, !s.valveAvailable z⟩

def Causes.none : Causes := ⟨false, false⟩

/-- The cause set is empty. -/
def Causes.isEmpty (c : Causes) : Bool := !c.doInvalid && !c.valveUnavailable

/-- R59: the driven position. -/
def State.driven (s : State) (z : Nat) : Nat :=
  let x := s.zone z
  match x.mode with
  | .auto | .fallback => min x.desired x.cap
  | .hand => s.handPosition z
  | .off | .waiting => 0

/-- R60: the demand. -/
def State.demand (s : State) (z : Nat) : Nat :=
  let x := s.zone z
  match x.mode with
  | .auto | .fallback => x.desired * x.cfg.fullOpenAir / 1000
  | .hand => s.handPosition z * x.cfg.fullOpenAir / 1000
  | .off | .waiting => 0

/-- R64: the position a zone starts trimming from. -/
def State.startPosition (s : State) (z : Nat) : Nat :=
  let c := (s.zone z).cfg
  match c.feedback with
  | some p => if s.pointGood p .position then clampNat c.minPos c.maxPos (s.pointValue p) else c.fallbackPos
  | none => c.fallbackPos

/-- R55: the position tracked while the valve is unavailable, `held` being the driven position just before. -/
def State.trackedPosition (s : State) (z held : Nat) : Nat :=
  let c := (s.zone z).cfg
  match c.feedback with
  | some p => if s.pointGood p .position then clampNat c.minPos c.maxPos (s.pointValue p) else clampNat c.minPos c.maxPos held
  | none => clampNat c.minPos c.maxPos held

/-! ### Blowers -/

/-- The run-state point's value while it is GOOD (4.1). -/
def State.runState (s : State) (b : Nat) : Option Nat :=
  let p := (s.blower b).cfg.runPoint
  if s.pointGood p .runstate then some (s.pointValue p) else none

/-- 4.1: the run-state point reads RUNNING. -/
def State.readsRunning (s : State) (b : Nat) : Bool := s.runState b == some 1

/-- 4.1: the run-state point reads STOPPED. -/
def State.readsStopped (s : State) (b : Nat) : Bool := s.runState b == some 0

/-- 4.1: the blower reports a fault. -/
def State.reportsFault (s : State) (b : Nat) : Bool :=
  s.readsFault (s.blower b).cfg.station || s.runState b == some 2

/-- R85: is the blower counted as delivering? -/
def State.counted (s : State) (b : Nat) : Bool :=
  let x := s.blower b
  x.cfg.configured &&
    match x.state with
    | .running => true
    | .localMode => s.readsRunning b
    | _ => false

/-- R85: the sum of the rated capacities of the counted blowers. -/
def State.supplyNow (s : State) : Nat :=
  ((List.range 6).map fun b => if s.counted b then (s.blower b).cfg.rated else 0).sum

/-- Table 31, command: is RUN commanded? -/
def State.blowerRun (s : State) (b : Nat) : Bool :=
  match (s.blower b).state with
  | .starting | .running => true
  | .localMode => s.readsRunning b
  | .unknown | .stopped | .stopping | .tripped | .lockedOut => false

/-- R12, Table 31: the demand a DRIVE to the blower carries. -/
def State.blowerDrive (s : State) (b : Nat) : Drive :=
  if s.blowerRun b then .run (s.blower b).speed else .stop (s.blower b).speed

/-- R77. -/
def State.startable (s : State) (b : Nat) : Bool :=
  let x := s.blower b
  x.cfg.configured && x.state == .stopped && s.readsHealth x.cfg.station == .live && !s.readsFault x.cfg.station
    && !s.readsLocal x.cfg.station && !s.reportsFault b && s.longSince x.runEnd x.cfg.minStop

/-- R89: the minimum in force. -/
def State.minimumInForce (s : State) : Nat := if s.stormInForce then s.pool.cfg.minStorm else s.pool.cfg.minNormal

/-- The blowers in RUNNING or STARTING (R89). -/
def State.runningCount (s : State) : Nat :=
  ((List.range 6).filter fun b =>
    (s.blower b).cfg.configured && ((s.blower b).state == .running || (s.blower b).state == .starting)).length

/-- A configured blower in STARTING. -/
def Blower.starting (x : Blower) : Bool := x.cfg.configured && x.state == .starting

/-- Is some blower in STARTING (R77)? -/
def State.someStarting (s : State) : Bool := (List.range 6).any fun b => (s.blower b).starting

/-- R93: is no configured blower UNKNOWN? -/
def State.noneUnknown (s : State) : Bool :=
  (List.range 6).all fun b => !((s.blower b).cfg.configured && (s.blower b).state == .unknown)

/-! ### Channels -/

/-- R107: the upper channel of a joined pair. -/
def State.dormant (s : State) (c : Nat) : Bool := c % 2 == 1 && (s.pair (c / 2)).joined

/-- A channel that is configured and governs its own record. -/
def State.liveChannel (s : State) (c : Nat) : Bool := (s.channel c).cfg.configured && !s.dormant c

/-- Is the channel the channel of a joined pair (R107)? -/
def State.paired (s : State) (c : Nat) : Bool := c % 2 == 0 && (s.pair (c / 2)).joined

/-- R107: the pumps of a channel, first before partner. A channel that is not configured has none (R108). -/
def State.pumps (s : State) (c : Nat) : List Nat :=
  if !(s.channel c).cfg.configured then []
  else if s.paired c then [(s.channel c).cfg.pump, (s.channel (c + 1)).cfg.pump] else [(s.channel c).cfg.pump]

/-- R107: the duty pump. -/
def State.dutyPump (s : State) (c : Nat) : Nat :=
  if s.paired c then
    match (s.pair (c / 2)).duty with
    | .first => (s.channel c).cfg.pump
    | .partner => (s.channel (c + 1)).cfg.pump
  else (s.channel c).cfg.pump

/-- The pump of a pair that is not duty. -/
def State.otherPump (s : State) (c : Nat) : Option Nat :=
  if s.paired c then
    match (s.pair (c / 2)).duty with
    | .first => some (s.channel (c + 1)).cfg.pump
    | .partner => some (s.channel c).cfg.pump
  else none

/-- R109. -/
def State.pumpAvailable (s : State) (st : Nat) : Bool :=
  s.readsHealth st == .live && !s.readsFault st && !s.readsLocal st

/-- The channel whose pump the station is, if any (R107). -/
def State.channelOfPump (s : State) (st : Nat) : Option Nat :=
  (List.range 4).find? fun c => s.liveChannel c && (s.pumps c).contains st

/-- The other pump of the pair whose pump the station is, if it is paired. -/
def State.mateOfPump (s : State) (st : Nat) : Option Nat :=
  match s.channelOfPump st with
  | none => none
  | some c => if s.paired c then (s.pumps c).find? (· != st) else none

/-- The partner pump of a joined pair, whether or not the pair's channel is configured (Tables 7 and 53). -/
def State.partnerPump (s : State) (st : Nat) : Bool :=
  (List.range 2).any fun k => (s.pair k).joined && (s.channel (2 * k + 1)).cfg.pump == st

/-- The pump stations the Return Channels own and a passage may hold (Tables 7 and 53). -/
def State.ownedPump (s : State) (st : Nat) : Bool := (s.channelOfPump st).isSome || s.partnerPump st

/-- R110: the channel command of a pump station, RUN or not. -/
def State.pumpRun (s : State) (st : Nat) : Bool :=
  match s.channelOfPump st with
  | none => false
  | some c =>
    (s.channel c).state == .running && st == s.dutyPump c &&
      match s.mateOfPump st with
      | none => true
      | some mate => !s.pumpHeldRun mate

/-- A pump's command as a DRIVE carries it (Table 65). -/
def pumpDrive (run : Bool) : Drive := if run then .run 0 else .stop 0

/-- R138: the effective command. -/
def State.pumpCommandedRun (s : State) (st : Nat) : Bool :=
  if s.pumpHeld st then s.pumpHeldRun st else s.pumpRun st

end Sys2Proof.Machine
end

