-- ==== Sys2Proof/Machine/Flags.lean ====
section
/-! DEFINITION. The alarm list (chapter 9): raise, clear, acknowledge, evict, pinning, escalation, and the four lines that
follow it. -/

namespace Sys2Proof.Machine

open Sys2Proof

/-! ### Derived fields of a record -/

/-- R151: does its owner hold this alarm as the cause of the state the owner is in? -/
def State.pinned (s : State) (code : AlarmCode) (src : Source) : Bool :=
  match code, src with
  | .zoneDoInvalid, .zone z => (s.zone z).mode == .fallback && (s.zone z).causes.doInvalid
  | .zoneValveUnavailable, .zone z => (s.zone z).mode == .fallback && (s.zone z).causes.valveUnavailable
  | .blowerFault, .blower b =>
      (s.blower b).cfg.configured && (s.blower b).state == .tripped && (s.blower b).tripCause == some .fault
  | .blowerStartFail, .blower b =>
      (s.blower b).cfg.configured && (s.blower b).state == .tripped && (s.blower b).tripCause == some .startFail
  | .blowerLost, .blower b =>
      (s.blower b).cfg.configured && (s.blower b).state == .tripped && (s.blower b).tripCause == some .lost
  | .channelNoPump, .channel c => (s.channel c).state == .faulted
  | _, _ => false

/-- R163. -/
def State.escalated (s : State) (r : AlarmRecord) : Bool :=
  r.state == .raisedUnack && s.lasted r.unack (s.alarms.escalation * 60)

/-- A record as it is shown. -/
def State.view (s : State) (r : AlarmRecord) : AlarmView := ⟨r, false, s.pinned r.code r.source, s.escalated r⟩

/-- R158: the notice of one action on a record. -/
def State.noteAlarm (s : State) (a : AlarmAction) (r : AlarmRecord) (removed : Bool) : State :=
  s.offerNotice (.alarmChange a s.alarms.full { s.view r with removed := removed })

/-! ### The list -/

/-- Is this the record of the code and source? -/
def AlarmRecord.is (r : AlarmRecord) (code : AlarmCode) (src : Source) : Bool := r.code == code && r.source == src

/-- The record of a code and source. -/
def State.record (s : State) (code : AlarmCode) (src : Source) : Option AlarmRecord :=
  s.alarms.records.find? (·.is code src)

/-- R160: the lines of a class in the line map. -/
def linesOf (m : LineMap) : AlarmClass → LineSet
  | .critical => m.critical
  | .major => m.major
  | .minor => m.minor
  | .advisory => m.advisory

/-- R160: the class the class map gives a code. -/
def Alarms.classOf (a : Alarms) (code : AlarmCode) : AlarmClass := a.codeClasses.getD code.place .advisory

/-- Put a record in the place of the one with its code and source. -/
def Alarms.replace (a : Alarms) (r : AlarmRecord) : Alarms :=
  { a with records := a.records.map fun x => if x.is r.code r.source then r else x }

/-- Take a record out; the list-full flag is cleared (R150). -/
def Alarms.remove (a : Alarms) (code : AlarmCode) (src : Source) : Alarms :=
  { a with records := a.records.filter fun x => !x.is code src, full := false }

/-- R162: a raise whose record is mapped to HORN clears the horn-silenced flag. -/
def Alarms.hornHeard (a : Alarms) (cls : AlarmClass) : Alarms :=
  if (linesOf a.lineMap cls).horn then { a with silenced := false } else a

/-- R150: the record evicted to make room for a new one of the class. -/
def State.evictee (s : State) (code : AlarmCode) (src : Source) : Option AlarmRecord :=
  let unpinned := s.alarms.records.filter fun r => !s.pinned r.code r.source
  let cls := s.alarms.classOf code
  match unpinned.find? (·.state == .clearedUnack) with
  | some r => some r
  | none =>
    match unpinned.find? fun r => cls.code < r.cls.code with
    | some r => some r
    | none => if s.pinned code src then unpinned.head? else none

/-- R149: insert a new record at the tail, with its notice. -/
def State.insertRecord (s : State) (code : AlarmCode) (src : Source) (value : Option Nat) : State :=
  let r : AlarmRecord :=
    { code := code, source := src, cls := s.alarms.classOf code, state := .raisedUnack, count := 1, first := s.uptime,
      last := s.uptime, value := value, unack := some s.uptime }
  let s := s.modAlarms fun a => ({ a with records := a.records ++ [r] }).hornHeard r.cls
  s.noteAlarm .raised r false

/-- R148: the record after one more raise. -/
def AlarmRecord.raisedAgain (r : AlarmRecord) (now : Nat) (value : Option Nat) : AlarmRecord :=
  { r with
    count := holdAdd 255 r.count 1, value := value, last := now,
    state := if r.state == .clearedUnack then .raisedUnack else r.state,
    unack := if r.state == .clearedUnack then some now else r.unack }

/-- R148 to R150: a raise. Owners change their own state first, so that a record that will be pinned is read as pinned
(R152). -/
def State.raiseAlarm (s : State) (code : AlarmCode) (src : Source) (value : Option Nat := none) : State :=
  match s.record code src with
  | some r =>
    let r := r.raisedAgain s.uptime value
    let s := s.modAlarms fun a => (a.replace r).hornHeard r.cls
    s.noteAlarm .raised r false
  | none =>
    if s.alarms.records.length < 64 then s.insertRecord code src value else
    match s.evictee code src with
    | some r =>
      let shown := s.view r
      let s := s.modAlarms (·.remove r.code r.source)
      (s.offerNotice (.alarmChange .evicted s.alarms.full shown)).insertRecord code src value
    | none => s.modAlarms fun a => { a with full := true }

/-- R153: a clear. -/
def State.clearAlarm (s : State) (code : AlarmCode) (src : Source) : State :=
  match s.record code src with
  | none => s
  | some r =>
    match r.state with
    | .raisedUnack =>
      let r := { r with state := .clearedUnack, unack := none, last := s.uptime }
      (s.modAlarms (·.replace r)).noteAlarm .cleared r false
    | .raisedAck =>
      let r := { r with last := s.uptime }
      (s.modAlarms (·.remove code src)).noteAlarm .cleared r true
    | .clearedUnack => s

/-- Raise or clear as a condition holds. -/
def State.setAlarm (s : State) (code : AlarmCode) (src : Source) (holds : Bool) (value : Option Nat := none) : State :=
  if holds then s.raiseAlarm code src value else s.clearAlarm code src

/-- R154: acknowledge the record of a code and source. -/
def State.ackAlarm (s : State) (code : AlarmCode) (src : Source) : State :=
  match s.record code src with
  | none => s
  | some r =>
    match r.state with
    | .raisedUnack =>
      let r := { r with state := .raisedAck, unack := none, last := s.uptime }
      (s.modAlarms (·.replace r)).noteAlarm .acknowledged r false
    | .clearedUnack =>
      let r := { r with last := s.uptime }
      (s.modAlarms (·.remove code src)).noteAlarm .acknowledged r true
    | .raisedAck => s

/-! ### The lines -/

/-- Some record that is raised is mapped to the line. -/
def Alarms.raisedOn (a : Alarms) (line : LineSet → Bool) : Bool :=
  a.records.any fun r => r.state != .clearedUnack && line (linesOf a.lineMap r.cls)

/-- R161 to R163: what the lines show; all off until start-up is complete, which is when the pool settles. -/
def State.linesNow (s : State) : LineSet :=
  let a := s.alarms
  if s.pool.settled then
    { horn := !a.silenced && a.records.any fun r => r.state == .raisedUnack && (linesOf a.lineMap r.cls).horn,
      beacon := a.raisedOn LineSet.beacon,
      callout := a.records.any fun r => s.escalated r && (linesOf a.lineMap r.cls).callout,
      healthy := !a.raisedOn LineSet.healthy }
  else ⟨false, false, false, false⟩

/-- R161: the lines take their values at the end of a handling. -/
def State.updateLines (s : State) : State := s.modAlarms fun a => { a with lines := s.linesNow }

end Sys2Proof.Machine
end

