-- ==== Sys2Proof/Machine/Trim.lean ====
section
/-! DEFINITION. The Trim Engine (chapter 3): bands, causes, modes, trim step, judgements, lanes in and out of service, a
zone's rewriting, and a zone's entry to and leaving of HAND. -/

namespace Sys2Proof.Machine

open Sys2Proof

/-! ### Mode changes and cause alarms -/

/-- R71: a zone takes a mode and a cause set; a change of mode is stamped and noticed. -/
def State.setMode (s : State) (z : Nat) (m : ZoneMode) (c : Causes) : State :=
  let old := (s.zone z).mode
  if old = m then s.modZone z fun x => { x with causes := c } else
  (s.modZone z fun x => { x with mode := m, causes := c, lastModeChange := s.uptime }).offerNotice
    (.zoneModeChange z old m c s.uptime)

/-- R54: one cause's alarm. It is raised when the cause joins the set, or is in it at an entry to FALLBACK; it is cleared
while the cause is not in the set. -/
def State.causeAlarm (s : State) (z : Nat) (code : AlarmCode) (was is entry : Bool) : State :=
  if is then (if entry || !was then s.raiseAlarm code (.zone z) else s) else s.clearAlarm code (.zone z)

/-- R54: both causes' alarms, ZONE_DO_INVALID before ZONE_VALVE_UNAVAILABLE (notes/assumptions/32.md). -/
def State.causeAlarms (s : State) (z : Nat) (old new : Causes) (entry : Bool) : State :=
  (s.causeAlarm z .zoneDoInvalid old.doInvalid new.doInvalid entry).causeAlarm z .zoneValveUnavailable
    old.valveUnavailable new.valveUnavailable entry

/-! ### Judgements (R61, R62) -/

/-- R61: the air-limited spell ends. -/
def State.endAir (s : State) (z : Nat) : State :=
  (s.modZone z fun x => { x with air := ⟨none, false⟩ }).clearAlarm .airLimited (.zone z)

/-- R62: the DO-low spell ends. -/
def State.endDoLow (s : State) (z : Nat) : State :=
  (s.modZone z fun x => { x with doLow := ⟨none, false⟩ }).clearAlarm .doLow (.zone z)

/-- The DO value a zone reads. -/
def State.doValue (s : State) (z : Nat) : Nat := s.pointValue (s.zone z).cfg.doPoint

/-- R61: is the zone air-limited? -/
def State.airLimited (s : State) (z : Nat) : Bool :=
  (s.zone z).mode == .auto && decide (s.driven z < (s.zone z).desired) && decide (s.doValue z < s.setpoint z)

/-- R61: the air-limited judgement of a zone in AUTO. -/
def State.judgeAir (s : State) (z : Nat) : State :=
  if (s.zone z).mode ≠ .auto then s else
  if s.airLimited z then
    let spell := (s.zone z).air
    if spell.since.isNone then s.modZone z fun x => { x with air := ⟨some s.uptime, false⟩ }
    else if s.lasted spell.since 600 && !spell.raised then
      (s.modZone z fun x => { x with air := ⟨spell.since, true⟩ }).raiseAlarm .airLimited (.zone z) (some (s.doValue z))
    else s
  else s.endAir z

/-- R62: is the DO low? Never while the setpoint less the band is 0 or below. -/
def State.doIsLow (s : State) (z : Nat) : Bool :=
  decide (s.doValue z + (s.zone z).cfg.doLowBand < s.setpoint z)

/-- R62: the DO-low judgement, made in AUTO, FALLBACK and HAND while the DO point is GOOD. -/
def State.judgeDoLow (s : State) (z : Nat) : State :=
  let x := s.zone z
  if x.mode = .off ∨ x.mode = .waiting ∨ ¬ s.pointGood x.cfg.doPoint .dissolvedOxygen then s else
  if s.doIsLow z then
    if x.doLow.since.isNone then s.modZone z fun x => { x with doLow := ⟨some s.uptime, false⟩ }
    else if s.lasted x.doLow.since x.cfg.doLowDelay && !x.doLow.raised then
      (s.modZone z fun y => { y with doLow := ⟨x.doLow.since, true⟩ }).raiseAlarm .doLow (.zone z) (some (s.doValue z))
    else s
  else s.endDoLow z

/-- R50: a change of a zone's setpoint is an event for both judgements. -/
def State.judgeSetpoint (s : State) (z : Nat) : State := (s.judgeAir z).judgeDoLow z

/-! ### Entering modes -/

/-- Start or restart the trim timer (R57). -/
def State.startTrim (s : State) (z : Nat) : State :=
  s.modZone z fun x => { x with trimDeadline := some (s.uptime + x.cfg.trimPeriod) }

/-- Entry to AUTO with a desired position (R56, R64, R67, R70). -/
def State.enterAuto (s : State) (z desired : Nat) : State :=
  let x := s.zone z
  let s := (s.modZone z fun x => { x with desired := desired }).startTrim z
  let s := (s.setMode z .auto .none).causeAlarms z x.causes .none false
  if desired = x.desired then s else s.judgeAir z

/-- The set is DO_INVALID alone. -/
def Causes.doAlone (c : Causes) : Bool := c.doInvalid && !c.valveUnavailable

/-- R62: the DO point has left GOOD while the zone was judging it. -/
def State.doJoined (s : State) (z : Nat) (old new : Causes) : State :=
  if new.doInvalid && !old.doInvalid then s.endDoLow z else s

/-- R55: the express DRIVE of the fallback position. -/
def State.offerFallback (s : State) (z : Nat) : State :=
  s.offerDrive (s.zone z).cfg.valve (.position (s.zone z).cfg.fallbackPos)

/-- Entry to FALLBACK with causes `c` (R55), `held` being the driven position just before. The order of the alarm actions, AIR_LIMITED
and DO_LOW cleared before the causes are raised, is the model's (notes/assumptions/32.md). -/
def State.enterFallback (s : State) (z : Nat) (c : Causes) (held : Nat) : State :=
  let x := s.zone z
  let early := x.mode == .off || x.mode == .waiting
  let d := if c.valveUnavailable then s.trackedPosition z held else x.cfg.fallbackPos
  let s := s.modZone z fun x => { x with desired := d }
  let s := if early then s.startTrim z else s
  let s := s.setMode z .fallback c
  let s := if x.mode == .auto then s.endAir z else s
  let s := if early then s else s.doJoined z x.causes c
  let s := s.causeAlarms z x.causes c true
  if c.doAlone then s.offerFallback z else s

/-- Entry to OFF (R54, R59, R62, R66); a zone in OFF stays as it is. -/
def State.enterOff (s : State) (z : Nat) : State :=
  let x := s.zone z
  if x.mode = .off then s else
  let s := s.modZone z fun x => { x with desired := 0, cap := 0, grant := 0, trimDeadline := none }
  let s := (s.setMode z .off .none).causeAlarms z x.causes .none false
  (s.endDoLow z).endAir z

/-- R67: a configured zone is taken out of OFF. -/
def State.leaveOff (s : State) (z : Nat) : State :=
  let c := s.causesNow z
  if c.isEmpty then s.enterAuto z (s.zone z).cfg.fallbackPos else s.enterFallback z c 0

/-- R65: a WAITING zone leaves WAITING when its lane's start grace is over. -/
def State.leaveWaiting (s : State) (z : Nat) : State :=
  let c := s.causesNow z
  if c.isEmpty then s.enterAuto z (s.startPosition z) else s.enterFallback z c 0

/-- R64: are the conditions of a WAITING zone met? -/
def State.readyForAuto (s : State) (z : Nat) : Bool := (s.causesNow z).isEmpty && s.pool.firstPassDone

/-- R56: a change of the cause set inside FALLBACK that leaves it not empty. -/
def State.changeCauses (s : State) (z : Nat) (c : Causes) : State :=
  let x := s.zone z
  let held := s.driven z
  let joins := c.valveUnavailable && !x.causes.valveUnavailable
  let d := if joins then s.trackedPosition z held else if c.doAlone then x.cfg.fallbackPos else x.desired
  let s := (s.modZone z fun x => { x with desired := d }).setMode z .fallback c
  let s := (s.doJoined z x.causes c).causeAlarms z x.causes c false
  if c.doAlone then s.offerFallback z else s

/-- R53 to R56, R64, R69: a zone judges its causes, and acts by its mode on what has changed. One that is WAITING keeps a DO_LOW record
of before a RESTART though its DO point leaves GOOD (notes/assumptions/37.md). -/
def State.rejudgeZone (z : Nat) (s : State) : State :=
  let x := s.zone z
  let c := s.causesNow z
  match x.mode with
  | .off => s
  | .waiting => if s.readyForAuto z then s.enterAuto z (s.startPosition z) else s
  | .auto => if c.isEmpty then s else s.enterFallback z c (s.driven z)
  | .fallback =>
    if c = x.causes then s else if c.isEmpty then s.enterAuto z x.desired else s.changeCauses z c
  | .hand =>
    if c = x.causes then s
    else ((s.setMode z .hand c).doJoined z x.causes c).causeAlarms z x.causes c false

/-- Every zone judges, in zone order (R55). -/
def State.rejudgeZones (s : State) : State := s.each 24 State.rejudgeZone

/-! ### Hand (R69, R70) -/

/-- R69: a zone enters HAND; its passage stands in the table. -/
def State.enterHand (s : State) (z : Nat) : State :=
  let x := s.zone z
  let waiting := x.mode == .waiting
  let c := if waiting then s.causesNow z else x.causes
  let s := s.modZone z fun y => { y with modeBeforeHand := x.mode }
  let s := if waiting then s.startTrim z else s
  let s := s.setMode z .hand c
  let s := if x.mode == .auto then s.endAir z else s
  if waiting then s.causeAlarms z .none c false else s

/-- R70: a zone leaves HAND, `position` being the hand demand that has ended. -/
def State.leaveHand (s : State) (z position : Nat) : State :=
  let c := s.causesNow z
  let cfg := (s.zone z).cfg
  if c.isEmpty then s.enterAuto z (clampNat cfg.minPos cfg.maxPos position) else s.enterFallback z c position

/-! ### Trim timer (R57, R58) -/

/-- R58: the step for an error, in per mille. -/
def trimStepFor (gain maxStep : Nat) (error : Int) : Int :=
  max (-(maxStep : Int)) (min (maxStep : Int) ((error * gain).tdiv 100))

/-- R58: the trim step. -/
def State.trimStep (s : State) (z : Nat) : State :=
  let x := s.zone z
  let p := s.point x.cfg.doPoint
  if !p.fresh then s.modZone z fun x => { x with skipCount := holdAdd 65535 x.skipCount 1 } else
  let error : Int := (s.setpoint z : Int) - p.value
  let s := s.modPoint x.cfg.doPoint fun p => { p with fresh := false }
  let d := if error.natAbs ≤ x.cfg.deadband then x.desired
    else clampInt x.cfg.minPos x.cfg.maxPos (x.desired + trimStepFor x.cfg.gain x.cfg.maxStep error)
  s.modZone z fun x => { x with trimCount := holdAdd 65535 x.trimCount 1, desired := d }

/-- R57: the expiry of a zone's trim timer. -/
def State.trimExpiry (s : State) (z : Nat) : State :=
  let s := s.startTrim z
  match (s.zone z).mode with
  | .auto => ((s.trimStep z).judgeAir z).judgeDoLow z
  | .fallback | .hand => s.judgeDoLow z
  | .off | .waiting => s

/-! ### Lanes (R48 to R50) -/

/-- R48, Table 23: the ammonia band after a GOOD reading v. -/
def bandAfter (c : LaneCfg) (band : Band) (v : Nat) : Band :=
  if c.thresholdB < v then .high
  else if v + c.hysteresis < c.thresholdA then .low
  else match band with
    | .low => if c.thresholdA < v then .mid else .low
    | .mid => .mid
    | .high => if v + c.hysteresis < c.thresholdB then .mid else .high
    | .storm => .storm

/-- R49: the active band. -/
def State.activeBandNow (s : State) (l : Nat) : Band :=
  let x := s.lane l
  if x.cfg.stormFollow && s.stormInForce then .storm
  else if x.cfg.ammoniaPoint.isNone then .mid
  else if s.optPointGood x.cfg.ammoniaPoint .nh4 then x.ammoniaBand else .high

/-- R49: the condition of LANE_AMMONIA_INVALID, as the lane's record last judged it. -/
def Lane.ammoniaFailed (x : Lane) : Bool := x.inService && x.cfg.ammoniaPoint.isSome && !x.ammoniaValid

/-- R49, R50: a lane judges its ammonia point and its active band. `before` is the state before the event. -/
def State.judgeLane (before : State) (l : Nat) (s : State) : State :=
  let was := (before.lane l).ammoniaFailed
  let valid := s.optPointGood (s.lane l).cfg.ammoniaPoint .nh4
  let band := s.activeBandNow l
  let s := s.modLane l fun x => { x with ammoniaValid := valid, activeBand := band }
  let is := (s.lane l).ammoniaFailed
  let s := if is && !was then s.raiseAlarm .laneAmmoniaInvalid (.lane l)
    else if was && !is then s.clearAlarm .laneAmmoniaInvalid (.lane l) else s
  s.each 4 fun i s => if before.setpoint (l * 4 + i) = s.setpoint (l * 4 + i) then s else s.judgeSetpoint (l * 4 + i)

/-- R48: a GOOD reading of the ammonia point moves the band. -/
def State.moveBand (s : State) (l v : Nat) : State :=
  s.modLane l fun x => { x with ammoniaBand := bandAfter x.cfg x.ammoniaBand v }

/-- Every lane judges its active band: a change of storm in force (R49). -/
def State.judgeLanes (s : State) : State := s.each 6 fun l s => s.judgeLane l s

/-- R41, R49: the lanes take up an event of a point. -/
def State.lanesPoint (s : State) (p : Nat) (accepted : Bool) : State :=
  s.each 6 fun l s =>
    if (s.lane l).cfg.ammoniaPoint = some p then
      let t := if accepted && s.pointGood p .nh4 then s.moveBand l (s.pointValue p) else s
      s.judgeLane l t
    else s

/-! ### Lanes in and out of service (R66, R67) -/

/-- Take a passage out of the table. -/
def State.dropPassage (s : State) (t : HandTarget) : State := { s with hand := s.hand.filter (·.target != t) }

/-- R66. -/
def State.laneOff (s : State) (l : Nat) : State :=
  let s0 := s
  let s := s.modLane l fun x => { x with inService := false }
  let s := s.each 4 fun i s =>
    let z := l * 4 + i
    let s := (s.dropPassage ⟨.zone, z⟩).enterOff z
    if (s.zone z).cfg.configured then s.offerDrive (s.zone z).cfg.valve (.position 0) else s
  s0.judgeLane l s

/-- R67. -/
def State.laneOn (s : State) (l : Nat) : State :=
  let s0 := s
  let s := s.modLane l fun x => { x with inService := true }
  let s := s.each 4 fun i s => if (s.zone (l * 4 + i)).cfg.configured then s.leaveOff (l * 4 + i) else s
  s0.judgeLane l s

/-- R65: the expiry of a lane's start grace. -/
def State.graceExpiry (s : State) (l : Nat) : State :=
  let s := s.modLane l fun x => { x with graceDeadline := none, graceExpired := true }
  s.each 4 fun i s => if (s.zone (l * 4 + i)).mode = .waiting then s.leaveWaiting (l * 4 + i) else s

/-! ### Rewriting a zone (R68) -/

/-- R102: the cap of a grant. -/
def capOf (grant fullOpenAir : Nat) : Nat := min 1000 (grant * 1000 / fullOpenAir)

/-- R68 step 3, a zone that was AUTO or FALLBACK (before a passage, where it was held). Of a zone that was held, the causes are new
against the set it held in HAND and the driven position is taken from desired and cap (notes/assumptions/24.md). -/
def State.rewriteTrimming (s : State) (z : Nat) (old : Zone) : State :=
  let cfg := (s.zone z).cfg
  let c := s.causesNow z
  let kept := clampNat cfg.minPos cfg.maxPos old.desired
  if c.isEmpty then
    if old.mode = .auto then s.modZone z fun x => { x with desired := kept } else s.enterAuto z kept
  else
    let joins := c.valveUnavailable && !old.causes.valveUnavailable
    let alone := c.doAlone && !old.causes.doAlone
    let d := if joins then s.trackedPosition z (min old.desired old.cap) else if alone then cfg.fallbackPos else kept
    let s := (s.modZone z fun x => { x with desired := d }).setMode z .fallback c
    let s := s.causeAlarms z old.causes c (old.mode != .fallback)
    if alone then s.offerFallback z else s

/-- R68 step 3, a zone that was WAITING (before a passage, where it was held). One that a passage held returns to WAITING
with its cause set empty (R54); one that stays WAITING keeps the records a RESTART left it (R73). -/
def State.rewriteWaiting (s : State) (z : Nat) (old : Zone) : State :=
  if s.readyForAuto z then s.enterAuto z (s.startPosition z)
  else if (s.lane (laneOf z)).graceExpired then s.leaveWaiting z
  else
    let s := s.modZone z fun x => { x with desired := 0, trimDeadline := none }
    if old.mode = .hand then (s.setMode z .waiting .none).causeAlarms z old.causes .none false else s

/-- R68 step 5: a WAITING zone keeps no more than its new floor. -/
def State.lowerWaitingGrant (s : State) (z : Nat) : State :=
  let x := s.zone z
  if x.mode = .waiting ∧ x.cfg.mixingFloor < x.grant then
    s.modZone z fun x => { x with grant := x.cfg.mixingFloor, cap := capOf x.cfg.mixingFloor x.cfg.fullOpenAir }
  else s

/-- R68: an accepted ZONE_WRITE. The judgements that a changed setpoint makes (R50) come after the steps of R68
(notes/assumptions/32.md). -/
def State.rewriteZone (s : State) (z : Nat) (cfg : ZoneCfg) : State :=
  let s0 := s
  let old := s.zone z
  let mode := if old.mode = .hand then old.modeBeforeHand else old.mode
  let s := (s.dropPassage ⟨.zone, z⟩).modZone z fun x => { x with cfg := cfg }
  let s := (s.endDoLow z).endAir z
  let s :=
    if !cfg.configured || !(s.lane (laneOf z)).inService then s.enterOff z
    else match mode with
      | .waiting => s.rewriteWaiting z old
      | .off => s.leaveOff z
      | .auto | .fallback | .hand => s.rewriteTrimming z old
  let s := if (s.zone z).mode = .auto ∨ (s.zone z).mode = .fallback then s.startTrim z else s
  let s := s.lowerWaitingGrant z
  if s0.setpoint z = s.setpoint z then
    (if old.desired = (s.zone z).desired then s else s.judgeAir z)
  else s.judgeSetpoint z

end Sys2Proof.Machine
end

