-- ==== Sys2Proof/Machine/Alloc.lean ====
section
/-! DEFINITION. The allocation pass as a computation: from the supply and what each zone brings to the pass, the grants
(R96 to R101). Lists run in zone order. -/

namespace Sys2Proof.Machine

open Sys2Proof

/-- What a pass reads of one zone. -/
structure Claim where
  mode : ZoneMode
  demand : Nat
  floor : Nat
  priorityClass : Nat
  onRequest : Bool
  previous : Nat
  deriving DecidableEq, Repr

/-- R96: a zone in HAND. -/
def Claim.hand (c : Claim) : Bool := c.mode == .hand

/-- R97: a floor zone. -/
def Claim.floorZone (c : Claim) : Bool := c.mode == .auto || c.mode == .fallback || c.mode == .waiting

/-- 5.4: a zone that shares the remainder. -/
def Claim.trimming (c : Claim) : Bool := c.mode == .auto || c.mode == .fallback

/-- The hand claim of a zone, 0 outside HAND. -/
def Claim.handClaim (c : Claim) : Nat := if c.hand then c.demand else 0

/-- The floor a zone asks for, 0 outside the floor zones. -/
def Claim.floorClaim (c : Claim) : Nat := if c.floorZone then c.floor else 0

/-- Wants met in full where they fit, and otherwise shared in proportion, each share truncated (R96, R97, 5.4). -/
def shareOut (air : Nat) (wants : List Nat) : List Nat :=
  if wants.sum ≤ air then wants else wants.map fun w => air * w / wants.sum

/-- Two lists of air, zone by zone. -/
def addAir (a b : List Nat) : List Nat := List.zipWith (· + ·) a b

/-- R96: the hand grants. -/
def handGrants (supply : Nat) (cs : List Claim) : List Nat := shareOut supply (cs.map Claim.handClaim)

/-- R97: the floor grants, from the air the hand grants left. -/
def floorGrants (supply : Nat) (cs : List Claim) : List Nat :=
  shareOut (supply - (handGrants supply cs).sum) (cs.map Claim.floorClaim)

/-- 5.4: the remaining demands. -/
def remainingDemands (floors : List Nat) (cs : List Claim) : List Nat :=
  List.zipWith (fun c f => if c.trimming then c.demand - f else 0) cs floors

/-- The wants of one priority class, 0 for the others. -/
def classWants (k : Nat) (cs : List Claim) (wants : List Nat) : List Nat :=
  List.zipWith (fun c w => if c.priorityClass = k then w else 0) cs wants

/-- R99: the classes in turn. -/
def priorityShares (cs : List Claim) (wants : List Nat) : List Nat → Nat → List Nat
  | [], _ => wants.map fun _ => 0
  | k :: ks, air =>
    let mine := classWants k cs wants
    if mine.sum ≤ air then addAir mine (priorityShares cs wants ks (air - mine.sum)) else shareOut air mine

/-- The third stage (R99, R100). -/
def remainderShares (policy : Policy) (cs : List Claim) (wants : List Nat) (air : Nat) : List Nat :=
  match policy with
  | .priority => priorityShares cs wants [0, 1, 2, 3] air
  | .level => shareOut air wants

/-- The computed grants: the first three stages. -/
def computedGrants (policy : Policy) (supply : Nat) (cs : List Claim) : List Nat :=
  let hand := handGrants supply cs
  let floors := floorGrants supply cs
  let air := supply - hand.sum - floors.sum
  addAir (addAir hand floors) (remainderShares policy cs (remainingDemands floors cs) air)

/-- R101: a requesting zone. -/
def requesting (c : Claim) (computed : Nat) : Bool := (c.trimming || c.hand) && decide (computed < c.demand)

/-- R101, no requesting zone: in zone order each ON_REQUEST zone keeps what the spare allows. -/
def releaseKeep : Nat → List Claim → List Nat → List Nat
  | spare, c :: cs, g :: gs =>
    let kept := if c.trimming && c.onRequest then max g (min c.previous (g + spare)) else g
    kept :: releaseKeep (spare - (kept - g)) cs gs
  | _, _, _ => []

/-- R101: the fourth stage. -/
def releaseStage (supply : Nat) (cs : List Claim) (computed : List Nat) : List Nat :=
  if (List.zipWith requesting cs computed).any id then computed else releaseKeep (supply - computed.sum) cs computed

/-- The grants of a pass (R96 to R101). -/
def computeGrants (policy : Policy) (supply : Nat) (cs : List Claim) : List Nat :=
  releaseStage supply cs (computedGrants policy supply cs)

/-- What a pass reads of each zone, in zone order. -/
def State.claims (s : State) : List Claim :=
  (List.range 24).map fun z =>
    let x := s.zone z
    { mode := x.mode, demand := s.demand z, floor := x.cfg.mixingFloor, priorityClass := x.cfg.priorityClass,
      onRequest := x.cfg.release == .val .onRequest, previous := x.grant }

/-- The allocation policy in force. -/
def State.policy (s : State) : Policy :=
  match s.pool.cfg.policy with
  | .val p => p
  | .unlisted _ => .priority

/-- 4.10: total demand, of the zones in AUTO, FALLBACK and HAND. -/
def totalDemand (cs : List Claim) : Nat := (cs.map fun c => if c.trimming || c.hand then c.demand else 0).sum

/-- The figures a pass uses and sets (Table 36). -/
def passFigures (supply : Nat) (cs : List Claim) (grants : List Nat) : PassFigures :=
  { supply := supply, handClaims := (cs.map Claim.handClaim).sum, floors := (cs.map Claim.floorClaim).sum,
    demand := totalDemand cs, grants := grants.sum }

/-- R102: a zone takes its grant and cap; a change of cap is an air-limited judgement (R61). -/
def State.setGrant (s : State) (z grant : Nat) : State :=
  let x := s.zone z
  let cap := if x.mode = .off then 0 else capOf grant x.cfg.fullOpenAir
  let s := s.modZone z fun x => { x with grant := grant, cap := cap }
  if cap = x.cap then s else s.judgeAir z

/-- R98: the air-short judgement. -/
def State.judgeAirShort (s : State) (wanted : Nat) : State :=
  let supply := s.pool.supply
  if supply < wanted then
    if s.pool.airShort then s
    else (s.modPool fun p => { p with airShort := true }).raiseAlarm .airShort .header (some (wanted - supply))
  else (s.modPool fun p => { p with airShort := false }).clearAlarm .airShort .header

/-- R94: the figures of the pass are kept and the allocation timer restarts. -/
def Pool.passed (p : Pool) (now : Nat) (f : PassFigures) : Pool :=
  { p with
    figures := f, passCount := (p.passCount + 1) % 65536, lastPass := some now,
    allocDeadline := some (now + p.cfg.allocationPeriod) }

/-- R94 to R102: the pass up to the setting of the caps. -/
def State.allocate (s : State) : State :=
  let cs := s.claims
  let grants := computeGrants s.policy s.pool.supply cs
  let f := passFigures s.pool.supply cs grants
  let s := s.judgeAirShort (f.handClaims + f.floors)
  let s := s.modPool fun p => p.passed s.uptime f
  s.each 24 fun z s => s.setGrant z (grants.getD z 0)

end Sys2Proof.Machine
end

