-- ==== Sys2Proof/Machine/Header.lean ====
section
/-! DEFINITION. The Header Unit's blower pool (chapter 4): blower states, trips, adoption, staging, speed, header pressure,
the supply figure and the settling of the pool. -/

namespace Sys2Proof.Machine

open Sys2Proof

/-! ### Entering states -/

/-- R83: the alarm of a trip cause. -/
def TripCause.alarm : TripCause → AlarmCode
  | .fault => .blowerFault
  | .startFail => .blowerStartFail
  | .lost => .blowerLost

/-- R83, R93: the alarms of the causes not held are cleared, then the alarm of the cause held is raised. A record that a RESTART
kept is cleared at a trip with another cause as at adoption (notes/assumptions/28.md). -/
def State.tripAlarms (s : State) (b : Nat) (cause : Option TripCause) : State :=
  let s := [TripCause.fault, .startFail, .lost].foldl
    (fun s c => if cause = some c then s else s.clearAlarm c.alarm (.blower b)) s
  match cause with
  | none => s
  | some c => s.raiseAlarm c.alarm (.blower b)

/-- R86: the run list after a blower enters a state. -/
def runListAfter (l : List Nat) (b : Nat) (st : BlowerState) : List Nat :=
  match st with
  | .starting | .running => if l.contains b then l else l ++ [b]
  | _ => l.filter (· != b)

/-- Table 31: the speed a blower takes at its entry to a state (notes/assumptions/23.md for LOCAL). -/
def State.entrySpeed (s : State) (b : Nat) (st : BlowerState) : Nat :=
  let x := s.blower b
  match st with
  | .starting => x.cfg.turndown
  | .running => if x.state = .starting ∨ x.state = .localMode then x.speed else 1000
  | .localMode =>
    if s.readsRunning b then (if x.state = .starting ∨ x.state = .running then x.speed else 1000) else 0
  | _ => 0

/-- R75: the record of a blower after its entry to a state. Both its timers stop at every entry but the one that starts them
(notes/assumptions/28.md). -/
def Blower.entered (x : Blower) (now : Nat) (st : BlowerState) (cause : Option TripCause) (speed : Nat) : Blower :=
  let active := x.state == .starting || x.state == .running || x.state == .stopping
  let rests := st == .stopped || st == .tripped || st == .lockedOut
  { x with
    state := st, tripCause := cause, speed := speed, lastChange := now,
    runStart := if st = .starting then some now else x.runStart,
    runEnd := if active && rests then some now else x.runEnd,
    rampDeadline := if st = .starting then some (now + 2 * x.cfg.rampTime) else none,
    runDownDeadline := if st = .stopping then some (now + x.cfg.runDownTime) else none }

/-- R75, R83, R84, R86: a blower enters a state; `cause` is present for TRIPPED. -/
def State.enterBlower (s : State) (b : Nat) (st : BlowerState) (cause : Option TripCause := none) : State :=
  let x := s.blower b
  let speed := s.entrySpeed b st
  let s := s.modBlower b fun x => x.entered s.uptime st cause speed
  let s := s.modPool fun p => { p with runList := runListAfter p.runList b st }
  let s := s.offerNotice (.blowerChange b x.state x.tripCause st cause s.uptime)
  s.tripAlarms b cause

/-- An express DRIVE to a blower's station (R13). -/
def State.driveBlower (s : State) (b : Nat) (d : Drive) : State := s.offerDrive (.station (s.blower b).cfg.station) d

/-- R82: a blower enters STOPPING and is sent STOP. -/
def State.stopBlower (s : State) (b : Nat) : State := (s.enterBlower b .stopping).driveBlower b (.stop 0)

/-! ### Starts (R77, R88, R89) -/

/-- R77: the blower a request for a start would start. -/
def State.nextStart (s : State) : Option Nat :=
  if s.someStarting then none else s.pool.dutyOrder.find? s.startable

/-- R77: a start, where one can be made; it leaves stage-up since absent (R88, R89). -/
def State.askStart (s : State) : State :=
  match s.nextStart with
  | none => s
  | some b =>
    let s := s.enterBlower b .starting
    let s := s.driveBlower b (.run (s.blower b).cfg.turndown)
    s.modPool fun p => { p with stageUpSince := none }

/-- R89: minimum running, judged once the pool has settled. -/
def State.judgeMinimum (s : State) : State :=
  if s.pool.settled && decide (s.runningCount < s.minimumInForce) then s.askStart else s

/-- R88: stage-up, with the total demand of the pass. -/
def State.stageUp (s : State) (demand : Nat) : State :=
  if demand ≤ s.pool.supply * s.pool.cfg.upFraction / 1000 then s.modPool fun p => { p with stageUpSince := none }
  else if s.pool.stageUpSince.isNone then s.modPool fun p => { p with stageUpSince := some s.uptime }
  else if s.lasted s.pool.stageUpSince s.pool.cfg.upDelay then s.askStart
  else s

/-- R90: the candidate for a stop. -/
def State.stopCandidate (s : State) : Option Nat :=
  s.pool.runList.reverse.find? fun b => (s.blower b).state == .running

/-- R90: stage-down, with the total demand of the pass. -/
def State.stageDown (s : State) (demand : Nat) : State :=
  match s.stopCandidate with
  | none => s.modPool fun p => { p with stageDownSince := none }
  | some b =>
    if (s.pool.supply - (s.blower b).cfg.rated) * s.pool.cfg.downFraction / 1000 ≤ demand then
      s.modPool fun p => { p with stageDownSince := none }
    else if s.pool.stageDownSince.isNone then s.modPool fun p => { p with stageDownSince := some s.uptime }
    else if s.lasted s.pool.stageDownSince s.pool.cfg.downDelay
        && s.longSince (s.blower b).runStart (s.blower b).cfg.minRun
        && decide (s.minimumInForce + 1 ≤ s.runningCount) then
      (s.stopBlower b).modPool fun p => { p with stageDownSince := none }
    else s

/-! ### Speed and pressure (R91, R92) -/

/-- R91: the share s, rounded up. -/
def shareOf (grants supply : Nat) : Nat := (grants * 1000 + supply - 1) / supply

/-- R91: the speed of a counted blower after a pass. -/
def speedAfter (high : Bool) (old turndown share : Nat) : Nat :=
  let figure := min 1000 (max turndown share)
  if high then min old figure else figure

/-- R91: the speeds are set. -/
def State.setSpeeds (s : State) (grants : Nat) : State :=
  s.each 6 fun b s =>
    if s.counted b then
      s.modBlower b fun x =>
        { x with speed := speedAfter s.pool.pressureHigh x.speed x.cfg.turndown (shareOf grants s.pool.supply) }
    else s

/-- R92: the header pressure is judged, while the pool has a pressure point. One reading that ends one condition and begins the other
acts on HEADER_PRESSURE_HIGH first (notes/assumptions/13.md). -/
def State.judgePressure (s : State) : State :=
  match s.pool.cfg.pressurePoint with
  | none => s
  | some p =>
    let good := s.pointGood p .pressure
    let v := s.pointValue p
    let high := good && decide (s.pool.cfg.pressureHigh < v)
    let low := good && decide (v < s.pool.cfg.pressureLow) && decide (0 < s.pool.supply)
    let wasHigh := s.pool.pressureHigh
    let wasLow := s.pool.pressureLow
    let s := s.modPool fun q => { q with pressureHigh := high, pressureLow := low }
    let s := if high && wasHigh then s else s.setAlarm .headerPressureHigh .header high (some v)
    if low && wasLow then s else s.setAlarm .headerPressureLow .header low (some v)

/-- R92: a pool that loses its pressure point ends both conditions. -/
def State.dropPressure (s : State) : State :=
  ((s.modPool fun q => { q with pressureHigh := false, pressureLow := false }).clearAlarm .headerPressureHigh
    .header).clearAlarm .headerPressureLow .header

/-! ### Passes, supply changes, settling (R85, R93, R94, R103) -/

/-- R103 step 3: at the first pass the zones learn that it is complete. -/
def State.firstPass (s : State) : State :=
  if s.pool.firstPassDone then s else (s.modPool fun p => { p with firstPassDone := true }).rejudgeZones

/-- R94, R103: one allocation pass. -/
def State.runPass (s : State) : State :=
  let s := s.allocate
  let f := s.pool.figures
  let s := s.setSpeeds f.grants
  let s := ((s.stageUp f.demand).judgeMinimum).stageDown f.demand
  s.firstPass

/-- R85, R92: the supply figure takes its new value; a change to or from 0 judges the pressure, before the pass that the same
change runs (notes/assumptions/13.md). -/
def State.noteSupply (s : State) : State :=
  let old := s.pool.supply
  let s := s.modPool fun p => { p with supply := s.supplyNow }
  if (old == 0) == (s.pool.supply == 0) then s else s.judgePressure

/-- R93, R176: the pool settles, start-up is complete, the first pass runs. -/
def State.settle (s : State) : State :=
  let s := s.noteSupply.modPool fun p => { p with settled := true }
  (s.offerNotice (.startComplete s.port.startKind s.port.imageValidAtStart s.uptime)).runPass

/-- What the Header Unit does after a blower's change (R85, R89, R93): the pool may settle, a change of the supply figure
runs a pass, a pass that stops a blower runs another, and minimum running is judged. One event that moves several blowers in
LOCAL is one change of the figure (notes/assumptions/13.md). `n` bounds the passes; a pass stops at most one of the six blowers. -/
def State.afterBlower : Nat → State → State
  | 0, s => s.judgeMinimum
  | n + 1, s =>
    if !s.pool.settled && s.noneUnknown then afterBlower n s.settle
    else if s.supplyNow = s.pool.supply then s.judgeMinimum
    else if s.pool.settled then afterBlower n s.noteSupply.runPass
    else s.noteSupply

/-- The Header Unit takes up a change. -/
def State.header (s : State) : State := s.afterBlower 9

/-- A blower's change of state, and all that follows from it. -/
def State.changeBlower (s : State) (b : Nat) (st : BlowerState) (cause : Option TripCause := none) : State :=
  (s.enterBlower b st cause).header

/-! ### Adoption, trips, LOCAL, loss (R76, R78 to R82) -/

/-- Run start and run end absent (R76, R81). -/
def State.forgetRuns (s : State) (b : Nat) : State :=
  s.modBlower b fun x => { x with runStart := none, runEnd := none }

/-- The rest state of a blower: LOCKED_OUT with the lockout flag set, STOPPED without. -/
def Blower.restState (x : Blower) : BlowerState := if x.lockout then .lockedOut else .stopped

/-- Entry to RUNNING by adoption or from LOCAL: a locked-out blower goes on to STOPPING at once (R76, R81, R82). -/
def State.takeRunning (s : State) (b : Nat) : State :=
  let s := s.changeBlower b .running
  if (s.blower b).lockout && (s.blower b).state == .running then (s.stopBlower b).header else s

/-- R76: may the blower adopt now? -/
def State.adoptable (s : State) (b : Nat) : Bool :=
  let x := s.blower b
  (x.state == .unknown || (x.state == .tripped && x.tripCause == some .lost)) && s.readsHealth x.cfg.station == .live
    && (s.readsLocal x.cfg.station || s.reportsFault b || s.readsRunning b || s.readsStopped b)

/-- R76: adoption. -/
def State.adopt (s : State) (b : Nat) : State :=
  let x := s.blower b
  let s := s.forgetRuns b
  if s.readsLocal x.cfg.station then s.changeBlower b .localMode
  else if s.reportsFault b then s.changeBlower b .tripped (some .fault)
  else if s.readsRunning b then s.takeRunning b
  else s.changeBlower b x.restState

/-- R79: a trip with cause FAULT; from STARTING and RUNNING a STOP goes out. -/
def State.tripFault (s : State) (b : Nat) : State :=
  let old := (s.blower b).state
  let s := s.enterBlower b .tripped (some .fault)
  (if old = .starting ∨ old = .running then s.driveBlower b (.stop 0) else s).header

/-- R78: has the ramp time elapsed? -/
def State.ramped (s : State) (b : Nat) : Bool := s.lasted (s.blower b).runStart (s.blower b).cfg.rampTime

/-- R81, R85: a blower in LOCAL takes up its run-state point. A change to or from reading RUNNING changes the supply figure; a
reading that changes nothing is none of the moments of R89. -/
def State.localReading (s : State) (b : Nat) : State :=
  let s := s.modBlower b fun y =>
    { y with speed := if s.readsRunning b then (if y.speed = 0 then 1000 else y.speed) else 0 }
  if s.supplyNow = s.pool.supply then s else s.header

/-- A blower judges its reports: the station's FAULT flag and its run-state point (R76, R78, R79, R81). -/
def State.judgeBlower (b : Nat) (s : State) : State :=
  let x := s.blower b
  if !x.cfg.configured then s else
  match x.state with
  | .unknown => if s.adoptable b then s.adopt b else s
  | .starting =>
    if s.reportsFault b then s.tripFault b
    else if s.ramped b && s.readsRunning b then s.changeBlower b .running else s
  | .running =>
    if s.reportsFault b || (s.readsStopped b && !s.readsLocal x.cfg.station) then s.tripFault b else s
  | .stopping => if s.reportsFault b then s.tripFault b else s
  | .tripped =>
    if x.tripCause = some .startFail then (if s.reportsFault b then s.tripFault b else s)
    else if s.adoptable b then s.adopt b else s
  | .localMode => s.localReading b
  | .stopped | .lockedOut => s

/-- R81: the station's LOCAL flag has been set. A blower TRIPPED with cause LOST, whose station returns with it, enters LOCAL as
R81 gives it and keeps run start and run end (notes/assumptions/33.md). -/
def State.blowerLocalSet (b : Nat) (s : State) : State :=
  match (s.blower b).state with
  | .unknown | .localMode => s
  | _ => s.changeBlower b .localMode

/-- R81: the station's LOCAL flag has been cleared. -/
def State.blowerLocalClear (b : Nat) (s : State) : State :=
  if (s.blower b).state ≠ .localMode then s else
  let s := s.forgetRuns b
  if s.reportsFault b then s.changeBlower b .tripped (some .fault)
  else if s.readsRunning b then s.takeRunning b
  else s.changeBlower b (s.blower b).restState

/-- R80: the blower's station has become LOST. -/
def State.blowerLost (b : Nat) (s : State) : State :=
  match (s.blower b).state with
  | .starting | .running | .localMode | .unknown => s.changeBlower b .tripped (some .lost)
  | _ => s

/-- The configured blowers on a station. -/
def State.eachBlowerOn (s : State) (st : Nat) (f : Nat → State → State) : State :=
  s.each 6 fun b s => if (s.blower b).cfg.configured && (s.blower b).cfg.station == st then f b s else s

/-- R41, R76, R78, R79, R92: the Header Unit takes up an event of a point. Two blowers that name it are taken in number order,
which is then their order in the run list (notes/assumptions/10.md). The supply figure counts a blower in LOCAL as it reads at once, so
one or two passes may follow (notes/assumptions/13.md). -/
def State.headerPoint (s : State) (p : Nat) : State :=
  let s := s.each 6 fun b s =>
    if (s.blower b).cfg.configured && (s.blower b).cfg.runPoint == p then s.judgeBlower b else s
  if s.pool.cfg.pressurePoint = some p then s.judgePressure else s

/-! ### Timers -/

/-- R78: the ramp timer's expiry. -/
def State.startFails (s : State) (b : Nat) : State :=
  ((s.enterBlower b .tripped (some .startFail)).driveBlower b (.stop 0)).header

/-- R82: the end of the run-down. -/
def State.runDownEnds (s : State) (b : Nat) : State := s.changeBlower b (s.blower b).restState

/-- R94: the allocation timer's expiry. -/
def State.allocationExpiry (s : State) : State := s.runPass.header

end Sys2Proof.Machine
end

