-- ==== Sys2Proof/Machine/Channels.lean ====
section
/-! DEFINITION. The return channels (chapter 6): targets, starting and stopping, metering, level pause, pump loss and
recovery, auto-start, and the offers that follow a change of a pump's channel command. -/

namespace Sys2Proof.Machine

open Sys2Proof

/-! ### Channel commands (R110) -/

/-- The pump stations the channel records name, each once. -/
def State.pumpStations (s : State) : List Nat := ((List.range 4).map fun c => (s.channel c).cfg.pump).eraseDups

/-- The pumps whose channel command has become `run`, and which no passage holds. -/
def State.changedPumps (before s : State) (run : Bool) : List Nat :=
  s.pumpStations.filter fun st => s.pumpRun st == run && before.pumpRun st != run && !s.pumpHeld st

/-- R110: each change of a channel command since `before` offers an express DRIVE, STOP before RUN, across the channels too
(notes/assumptions/30.md). -/
def State.syncCommands (before s : State) : State :=
  let offer := fun (s : State) (run : Bool) (st : Nat) => s.offerDrive (.station st) (pumpDrive run)
  let stops := before.changedPumps s false
  let runs := before.changedPumps s true
  runs.foldl (offer · true) (stops.foldl (offer · false) s)

/-- An event of the channels, with the offers its changes of command make. -/
def State.withCommands (s : State) (f : State → State) : State := s.syncCommands (f s)

/-! ### States -/

/-- A channel enters a state it is not in (Table 44, R117, R118). -/
def State.enterChannel (s : State) (c : Nat) (st : ChannelState) : State :=
  let old := (s.channel c).state
  let s := s.modChannel c fun x =>
    { x with
      state := st, pauseStart := if st = .paused then some s.uptime else none,
      pauseDeadline := if st = .paused then some (s.uptime + x.cfg.pauseLimit * 60) else none }
  if old = .paused then s.clearAlarm .channelPausedLong (.channel c) else s

/-- R113: a channel enters DISABLED. -/
def State.disableChannel (s : State) (c : Nat) : State :=
  let s := (s.enterChannel c .disabled).modChannel c fun x => { x with autoPending := false }
  (s.clearAlarm .channelNoPump (.channel c)).clearAlarm .channelPausedLong (.channel c)

/-- R119: a channel enters FAULTED. From PAUSED, CHANNEL_PAUSED_LONG is cleared before CHANNEL_NO_PUMP is raised
(notes/assumptions/30.md). -/
def State.faultChannel (s : State) (c : Nat) : State :=
  (s.enterChannel c .faulted).raiseAlarm .channelNoPump (.channel c)

/-- The level point is GOOD and its value is below the minimum level (R112, R120). -/
def State.levelLow (s : State) (c : Nat) : Bool :=
  match (s.channel c).cfg.levelPoint with
  | none => false
  | some p => s.pointGood p .level && decide (s.pointValue p < (s.channel c).cfg.minLevel)

/-- R112, R120: PAUSED on a low level, RUNNING otherwise. -/
def State.enterFlow (s : State) (c : Nat) : State :=
  s.enterChannel c (if s.levelLow c then .paused else .running)

/-- The duty selection moves to the other pump. -/
def State.moveDuty (s : State) (c : Nat) : State :=
  s.modPair (c / 2) fun p => { p with duty := if p.duty = .first then .partner else .first }

/-- The other pump of a joined pair is available. -/
def State.otherAvailable (s : State) (c : Nat) : Bool :=
  match s.otherPump c with
  | none => false
  | some st => s.pumpAvailable st

/-! ### Targets and starting (R111, R112) -/

/-- R111: the target a channel loads. -/
def State.nextTarget (s : State) (c : Nat) : Nat :=
  let x := s.channel c
  match x.cfg.mode with
  | .val .ratio =>
    clampNat 1 65535 (x.accumulator * (if s.stormInForce then x.cfg.stormRatio else x.cfg.ratio) / 1000 / 10)
  | _ => x.cfg.target

/-- R111: a target is loaded. -/
def State.loadTarget (s : State) (c : Nat) : State :=
  s.modChannel c fun x =>
    { x with
      target := s.nextTarget c,
      accumulator := match x.cfg.mode with
        | .val .ratio => 0
        | _ => x.accumulator }

/-- R112: a start is made. -/
def State.startChannel (s : State) (c : Nat) : State :=
  let s := (s.loadTarget c).modChannel c fun x =>
    { x with remaining := x.target, counted := 0, cycles := 0, overshoot := 0, lastMeter := none, autoPending := false }
  if s.pumpAvailable (s.dutyPump c) then s.enterFlow c
  else if s.otherAvailable c then (s.moveDuty c).enterFlow c
  else s.faultChannel c

/-! ### Metering (R114 to R116) -/

/-- R115: one more cycle completed, with its notice. -/
def State.countCycle (s : State) (c : Nat) : State :=
  let s := s.modChannel c fun x => { x with cycles := holdAdd 65535 x.cycles 1 }
  let x := s.channel c
  if x.cfg.noticeOnCycle then s.offerNotice (.channelDone c x.cycles x.counted) else s

/-- R115: cycles complete one after another while the excess covers the target last loaded. Every load is at least 1, so
`excess + 1` rounds are enough. -/
def State.completeCycles : Nat → Nat → Nat → State → State
  | 0, _, _, s => s
  | n + 1, c, excess, s =>
    let s := s.countCycle c
    if (s.channel c).cfg.mode = .val .batch then
      (s.modChannel c fun x => { x with overshoot := excess, target := 0, remaining := 0 }).disableChannel c
    else
      let s := s.loadTarget c
      let t := (s.channel c).target
      if t ≤ excess then completeCycles n c (excess - t) s
      else s.modChannel c fun x => { x with remaining := t - excess }

/-- R114: a metered delta is counted and set against remaining. -/
def State.meterDelta (s : State) (c delta : Nat) : State :=
  let s := s.modChannel c fun x => { x with counted := (x.counted + delta) % 4294967296 }
  let left := (s.channel c).remaining
  if delta < left then s.modChannel c fun x => { x with remaining := left - delta }
  else s.completeCycles (delta - left + 1) c (delta - left)

/-- R114: a GOOD reading v of the volume point. -/
def State.meter (s : State) (c v : Nat) : State :=
  let x := s.channel c
  if x.state = .disabled then s else
  let s := s.modChannel c fun x => { x with lastMeter := some v }
  match x.lastMeter with
  | none => s
  | some old => s.meterDelta c ((v + 65536 - old) % 65536)

/-- R116: a GOOD reading v of the influent point. -/
def State.accumulate (s : State) (c v : Nat) : State :=
  s.modChannel c fun x =>
    { x with
      accumulator := match x.lastInfluent with
        | none => x.accumulator
        | some t => holdAdd 4294967295 x.accumulator (v * (s.uptime - t)),
      lastInfluent := some s.uptime }

/-- R117: a GOOD reading v of the level point. -/
def State.judgeLevel (s : State) (c v : Nat) : State :=
  let x := s.channel c
  if x.state = .running ∧ v < x.cfg.minLevel then s.enterChannel c .paused
  else if x.state = .paused ∧ x.cfg.minLevel + 10 ≤ v then s.enterChannel c .running
  else s

/-- R41, R114, R116, R117: one channel takes up an event of a point. -/
def State.channelPoint (s : State) (c p : Nat) (accepted : Bool) : State :=
  let cfg := (s.channel c).cfg
  let s :=
    if cfg.volumePoint ≠ p then s
    else if accepted && s.pointGood p .volume then s.meter c (s.pointValue p)
    else if (s.point p).validity = .none then s.modChannel c fun x => { x with lastMeter := none }
    else s
  let s :=
    if cfg.influentPoint ≠ some p then s
    else if !s.pointGood p .inflow then s.modChannel c fun x => { x with lastInfluent := none }
    else if accepted then s.accumulate c (s.pointValue p)
    else s
  if cfg.levelPoint = some p ∧ accepted ∧ s.pointGood p .level then s.judgeLevel c (s.pointValue p) else s

/-- The channels take up an event of a point. A channel that is not configured stands in DISABLED (R124) and its accumulator
counts in every state (R116, notes/assumptions/30.md); a dormant one has no part in it (R107). -/
def State.channelsPoint (s : State) (p : Nat) (accepted : Bool) : State :=
  s.withCommands fun s => s.each 4 fun c s => if s.dormant c then s else s.channelPoint c p accepted

/-! ### Pumps (R119, R120, R123) -/

/-- R119: the duty pump has become unavailable in RUNNING or PAUSED. -/
def State.losePump (s : State) (c : Nat) : State :=
  if s.otherAvailable c then
    ((s.moveDuty c).raiseAlarm .channelChangeover (.channel c)).clearAlarm .channelChangeover (.channel c)
  else s.faultChannel c

/-- R120: a pump of a FAULTED channel has become available. -/
def State.recoverChannel (s : State) (c : Nat) : State :=
  let s := if s.pumpAvailable (s.dutyPump c) then s else s.moveDuty c
  (s.clearAlarm .channelNoPump (.channel c)).enterFlow c

/-- R119, R120, R123: a channel judges its pumps, by its state. -/
def State.judgeChannel (c : Nat) (s : State) : State :=
  if !s.liveChannel c then s else
  match (s.channel c).state with
  | .running | .paused => if s.pumpAvailable (s.dutyPump c) then s else s.losePump c
  | .faulted => if s.pumpAvailable (s.dutyPump c) || s.otherAvailable c then s.recoverChannel c else s
  | .disabled =>
    if (s.channel c).autoPending && s.readsHealth (s.dutyPump c) == .live then s.startChannel c else s

/-- Every channel judges its pumps. -/
def State.judgeChannels (s : State) : State := s.withCommands fun s => s.each 4 State.judgeChannel

/-- R118: the pause limit's expiry. -/
def State.pauseExpiry (s : State) (c : Nat) : State :=
  let s := s.modChannel c fun x => { x with pauseDeadline := none }
  s.raiseAlarm .channelPausedLong (.channel c) ((s.channel c).cfg.levelPoint.map s.pointValue)

end Sys2Proof.Machine
end

