-- ==== Sys2Proof/Machine/StormMonitor.lean ====
section
/-! DEFINITION. The Storm Monitor (chapter 7): readings, timers, freeze and force. -/

namespace Sys2Proof.Machine

open Sys2Proof

/-- A timer started for `d` seconds. -/
def State.stormTimer (s : State) (d : Nat) : StormTimer := .running (s.uptime + d)

/-- R132, R133: the monitor enters a state; storm in force may begin or end with it. -/
def State.enterStorm (s : State) (st : StormState) : State :=
  let old := s.storm.state
  if old = st then s else
  let was := s.stormInForce
  let s := s.modStorm fun m => { m with state := st, lastChange := s.uptime }
  let is := s.stormInForce
  let s := s.offerNotice (.stormChange old st s.storm.force is s.storm.lastInfluent s.uptime)
  if was = is then s
  else ((s.setAlarm .stormActive .works is s.storm.lastInfluent).judgeLanes).judgeMinimum

/-- R126: the influent point counts as GOOD. -/
def State.influentGood (s : State) : Bool := s.optPointGood s.storm.cfg.influentPoint .inflow

/-- R128, Table 49: a reading v. -/
def State.stormReading (s : State) (v : Nat) : State :=
  let s := s.modStorm fun m => { m with lastInfluent := some v }
  let m := s.storm
  if m.force ≠ .auto then s else
  match m.state with
  | .normal =>
    if m.cfg.entryThreshold < v then
      (s.modStorm fun m => { m with entryTimer := s.stormTimer m.cfg.entryConfirm }).enterStorm .rising
    else s
  | .rising =>
    if v ≤ m.cfg.entryThreshold then (s.modStorm fun m => { m with entryTimer := .stopped }).enterStorm .normal else s
  | .storm =>
    if v < m.cfg.exitThreshold ∧ m.holdExpired then
      (s.modStorm fun m => { m with exitTimer := s.stormTimer m.cfg.exitConfirm }).enterStorm .falling
    else s
  | .falling =>
    if m.cfg.exitThreshold ≤ v then (s.modStorm fun m => { m with exitTimer := .stopped }).enterStorm .storm else s

/-- R129: the entry confirm timer's expiry. -/
def State.entryExpires (s : State) : State :=
  (s.modStorm fun m =>
    { m with entryTimer := .stopped, holdTimer := s.stormTimer (m.cfg.minimumHold * 60), holdExpired := false }).enterStorm
      .storm

/-- R129: the hold timer's expiry. -/
def State.holdExpires (s : State) : State :=
  let s := s.modStorm fun m => { m with holdTimer := .stopped, holdExpired := true }
  match s.storm.lastInfluent with
  | none => s
  | some v =>
    if v < s.storm.cfg.exitThreshold then
      (s.modStorm fun m => { m with exitTimer := s.stormTimer m.cfg.exitConfirm }).enterStorm .falling
    else s

/-- R129: the exit confirm timer's expiry. -/
def State.exitExpires (s : State) : State :=
  (s.modStorm fun m => { m with exitTimer := .stopped, holdExpired := false }).enterStorm .normal

/-- R130: a running timer is suspended. -/
def StormTimer.suspend (now : Nat) : StormTimer → StormTimer
  | .running e => .suspended (e - now)
  | t => t

/-- R130: a suspended timer runs again. -/
def StormTimer.resume (now : Nat) : StormTimer → StormTimer
  | .suspended left => .running (now + left)
  | t => t

/-- A running timer that has reached its expiry (R129). -/
def StormTimer.due (now : Nat) : StormTimer → Bool
  | .running e => e ≤ now
  | _ => false

/-- Every running timer is suspended. -/
def State.suspendTimers (s : State) : State :=
  s.modStorm fun m =>
    { m with
      entryTimer := m.entryTimer.suspend s.uptime, holdTimer := m.holdTimer.suspend s.uptime,
      exitTimer := m.exitTimer.suspend s.uptime }

/-- R130: the freeze ends. Each suspended timer runs again, and one with no time remaining expires at that moment. -/
def State.thaw (s : State) : State :=
  let s := s.clearAlarm .influentInvalid .works
  let m := s.storm
  let s := s.modStorm fun m =>
    { m with
      influentValid := true, entryTimer := m.entryTimer.resume s.uptime, holdTimer := m.holdTimer.resume s.uptime,
      exitTimer := m.exitTimer.resume s.uptime }
  let s := if m.entryTimer = .suspended 0 then s.entryExpires else s
  let s := if m.holdTimer = .suspended 0 then s.holdExpires else s
  if m.exitTimer = .suspended 0 then s.exitExpires else s

/-- R130: the monitor judges its influent point; an accepted GOOD reading is then judged under R128. `watched` says
whether a point that was not GOOD already stood judged so. -/
def State.judgeInfluent (s : State) (accepted watched : Bool) : State :=
  match s.storm.cfg.influentPoint with
  | none => ((s.modStorm fun m => { m with influentValid := false }).suspendTimers).clearAlarm .influentInvalid .works
  | some p =>
    if s.influentGood then
      let s := if s.storm.influentValid then s else s.thaw
      if accepted then s.stormReading (s.pointValue p) else s
    else if s.storm.influentValid || !watched then
      ((s.modStorm fun m => { m with influentValid := false }).suspendTimers).raiseAlarm .influentInvalid .works
    else s

/-- R41: the monitor takes up an event of a point. -/
def State.stormPoint (s : State) (p : Nat) (accepted : Bool) : State :=
  if s.storm.cfg.influentPoint = some p then s.judgeInfluent accepted true else s

/-- R131: all three timers stop and hold expired is cleared. -/
def State.stopStormTimers (s : State) : State :=
  s.modStorm fun m =>
    { m with entryTimer := .stopped, holdTimer := .stopped, exitTimer := .stopped, holdExpired := false }

/-- R131: judgement resumes from STORM with a fresh hold. -/
def State.freshHold (s : State) : State :=
  if s.storm.state = .storm then
    s.modStorm fun m => { m with holdTimer := s.stormTimer (m.cfg.minimumHold * 60), holdExpired := false }
  else s

/-- R131: a force other than the one held is taken. -/
def State.takeForce (s : State) (f : Force) : State :=
  let s := s.modStorm fun m => { m with force := f }
  match f with
  | .on => s.stopStormTimers.enterStorm .storm
  | .off => s.stopStormTimers.enterStorm .normal
  | .auto =>
    let s := s.freshHold
    if s.influentGood then
      match s.storm.lastInfluent with
      | some v => s.stormReading v
      | none => s
    else s.suspendTimers

/-- R127: an accepted STORM_WRITE. -/
def State.rewriteStorm (s : State) (cfg : StormCfg) : State :=
  let old := s.storm.cfg.influentPoint
  let s := s.modStorm fun m => { m with cfg := cfg }
  if cfg.influentPoint = old then s
  else (s.modStorm fun m => { m with lastInfluent := none }).judgeInfluent false old.isSome

end Sys2Proof.Machine
end

