-- ==== Sys2Proof/Machine/Hand.lean ====
section
/-! DEFINITION. The Hand Passage Table (chapter 8). -/

namespace Sys2Proof.Machine

open Sys2Proof

/-- Table 52: the seconds of a timeout code, none for NONE. -/
def timeoutSeconds : TimeoutCode → Option Nat
  | .t10 => some 10
  | .t60 => some 60
  | .t300 => some 300
  | .never => none

/-- R139: where a passage's express DRIVE goes. -/
def State.handTarget (s : State) (t : HandTarget) : Target :=
  match t.kind with
  | .zone => (s.zone t.index).cfg.valve
  | .pump => .station t.index

/-- R143, R144: a passage ends; its entry leaves the table and the target returns to its owner. A pump whose station is
lost is offered nothing. -/
def State.endPassage (s : State) (t : HandTarget) (byLoss : Bool) : State :=
  match s.passage t with
  | none => s
  | some p =>
    let ended := s.dropPassage t
    match t.kind with
    | .zone => ended.leaveHand t.index p.position
    | .pump =>
      s.syncCommands
        (if byLoss then ended else ended.offerDrive (.station t.index) (pumpDrive (ended.pumpRun t.index)))

/-- R142: every passage whose target has come to read LOST ends, in table order. -/
def State.endLostPassages (s : State) : State :=
  (s.hand.map Passage.target).foldl
    (fun s t => if s.handTargetHealth t = .lost then s.endPassage t true else s) s

/-- R139: a refresh. -/
def Passage.refreshed (p : Passage) (now : Nat) (demand : Drive) (timeout : TimeoutCode) : Passage :=
  { p with
    demand := demand, timeout := timeout, deadline := (timeoutSeconds timeout).map (now + ·),
    refreshes := holdAdd 65535 p.refreshes 1 }

/-- R139: the entry of a HAND_DRIVE, refreshed in its place or added at the tail. -/
def State.putPassage (s : State) (t : HandTarget) (demand : Drive) (timeout : TimeoutCode) : State :=
  if (s.passage t).isSome then
    { s with hand := s.hand.map fun p => if p.target == t then p.refreshed s.uptime demand timeout else p }
  else
    { s with hand := s.hand ++ [⟨t, demand, timeout, (timeoutSeconds timeout).map (s.uptime + ·), s.uptime, 0⟩] }

/-- R139: a HAND_DRIVE that passed every check takes effect. -/
def State.holdTarget (s : State) (t : HandTarget) (demand : Drive) (timeout : TimeoutCode) : State :=
  let put := s.putPassage t demand timeout
  let entered := if t.kind = .zone ∧ (s.passage t).isNone then put.enterHand t.index else put
  s.syncCommands (entered.offerDrive (s.handTarget t) demand)

/-- R138: a join finds both pumps held at RUN, and the partner's demand becomes STOP. -/
def State.joinHandStop (s : State) (first partner : Nat) : State :=
  if s.pumpHeldRun first && s.pumpHeldRun partner then
    let t : HandTarget := ⟨.pump, partner⟩
    let s := { s with hand := s.hand.map fun (p : Passage) => if p.target == t then { p with demand := .stop 0 } else p }
    s.offerDrive (.station partner) (.stop 0)
  else s

end Sys2Proof.Machine
end

