-- ==== Sys2Proof/Machine/Points.lean ====
section
/-! DEFINITION. The Point Table (2.5 to 2.7): readings, validity, staleness, forwarding, and what the other blocks are told
of each point (R41). -/

namespace Sys2Proof.Machine

open Sys2Proof

/-- Table 3: the highest value of a kind; the lowest is 0. -/
def kindTop : Kind → Nat
  | .dissolvedOxygen => 2000 | .nh4 => 1000 | .airflow => 60000 | .pressure => 1500 | .inflow => 20000
  | .volume => 65535 | .position => 1000 | .level => 1000 | .runstate => 2

/-- The highest value of a point's kind. -/
def pointTop (c : PointCfg) : Nat :=
  match c.kind with
  | .val k => kindTop k
  | .unlisted _ => 0

/-- R41: the blocks that name a point take up its event, an accepted reading or a change of validity, in the order lanes,
zones, Storm Monitor, channels, Header Unit, and several lanes, channels or blowers that name it in number order
(notes/assumptions/10.md). -/
def State.notifyPoint (s : State) (p : Nat) (accepted : Bool) : State :=
  ((((s.lanesPoint p accepted).rejudgeZones).stormPoint p accepted).channelsPoint p accepted).headerPoint p

/-- R37: the record of a point that goes to NONE. -/
def Point.toNone (x : Point) : Point :=
  { x with
    value := 0, validity := .none, suspectCause := none, lastTime := none, staleDeadline := none, fresh := false,
    lastForwarded := none }

/-- R37: a point goes to NONE and its alarms are cleared. -/
def State.pointNone (s : State) (p : Nat) : State :=
  (((s.modPoint p Point.toNone).clearAlarm .pointStale (.point p)).clearAlarm .pointSuspect (.point p)).clearAlarm
    .pointKindMismatch (.point p)

/-- R38: a point becomes STALE. The raise of one that never took a value carries 0 (notes/assumptions/36.md). -/
def State.pointStale (s : State) (p : Nat) : State :=
  let s := s.modPoint p fun x =>
    { x with validity := .stale, suspectCause := none, fresh := false, staleDeadline := none }
  let s := s.clearAlarm .pointSuspect (.point p)
  if (s.point p).cfg.alarm then s.raiseAlarm .pointStale (.point p) (some (s.pointValue p)) else s

/-- GOOD or SUSPECT: a point that can become STALE. -/
def Point.current (x : Point) : Bool := x.validity == .good || x.validity == .suspect

/-- R38: the stale timer's expiry. -/
def State.staleExpiry (s : State) (p : Nat) : State :=
  if (s.point p).current then (s.pointStale p).notifyPoint p false
  else s.modPoint p fun x => { x with staleDeadline := none }

/-- R36: the value of a well-formed reading. -/
def readingValue (c : PointCfg) (r : Reading) : Nat :=
  match r.tag with
  | some _ => clampInt 0 (pointTop c) r.value
  | none => clampInt 0 (pointTop c) ((r.value * c.numerator).tdiv c.denominator + c.offset)

/-- R42: is a value offered for forwarding? -/
def Point.offers (x : Point) (v : Nat) : Bool :=
  match x.cfg.forward with
  | .val .every => true
  | .val .change =>
    match x.lastForwarded with
    | none => true
    | some last => decide (x.cfg.band < max v last - min v last)
  | _ => false

/-- R42: the offer of an accepted reading. -/
def State.forwardReading (s : State) (p : Nat) : State :=
  let x := s.point p
  if !x.offers x.value then s else
  let taken := s.forwardTakes p
  let s := s.offerForward ⟨p, x.value, x.validity⟩
  if taken then s.modPoint p fun y => { y with lastForwarded := some x.value } else s

/-- R37: is a value within plausibility? -/
def plausible (c : PointCfg) (v : Nat) : Bool := decide (c.low ≤ v) && decide (v ≤ c.high)

/-- R37: a point holds a value within plausibility. -/
def State.pointGoodNow (s : State) (p : Nat) : State :=
  let s := s.modPoint p fun x => { x with validity := .good, suspectCause := none, fresh := true }
  (s.clearAlarm .pointSuspect (.point p)).clearAlarm .pointStale (.point p)

/-- R37: a point holds a value outside plausibility. -/
def State.pointOutOfRange (s : State) (p : Nat) : State :=
  let s := s.modPoint p fun x => { x with validity := .suspect, suspectCause := some .range, fresh := false }
  let s := s.clearAlarm .pointStale (.point p)
  if (s.point p).cfg.alarm then s.raiseAlarm .pointSuspect (.point p) (some (s.pointValue p)) else s

/-- R37, R41, R42: a value is accepted. -/
def State.acceptValue (s : State) (p v : Nat) : State :=
  let s := s.modPoint p fun x =>
    { x with value := v, lastTime := some s.uptime, staleDeadline := some (s.uptime + x.cfg.staleLimit) }
  let s := if plausible (s.point p).cfg v then s.pointGoodNow p else s.pointOutOfRange p
  (s.notifyPoint p true).forwardReading p

/-- R35: a reading that is not well formed. -/
def State.kindMismatch (s : State) (p : Nat) : State :=
  let was := (s.point p).validity
  let s := s.modPoint p fun x => { x with validity := .suspect, suspectCause := some .kind, fresh := false }
  let s := s.raiseAlarm .pointKindMismatch (.point p)
  let s := s.clearAlarm .pointSuspect (.point p)
  let s := if was = .stale then s.clearAlarm .pointStale (.point p) else s
  if was = .suspect then s else s.notifyPoint p false

/-- R35: is the reading well formed for a point of a station? -/
def wellFormedReading (c : PointCfg) (legacy : Bool) (r : Reading) : Bool :=
  match r.tag with
  | some k => c.kind == .val k
  | none => legacy

/-- R35 to R37: a reading is delivered to a point. -/
def State.takeReading (s : State) (p : Nat) (legacy : Bool) (r : Reading) : State :=
  if wellFormedReading (s.point p).cfg legacy r then
    (s.clearAlarm .pointKindMismatch (.point p)).acceptValue p (readingValue (s.point p).cfg r)
  else s.kindMismatch p

/-- The point bound to a station's channel (R34). -/
def State.pointOn (s : State) (st ch : Nat) : Option Nat :=
  (List.range 128).find? fun p => (s.point p).cfg.source == some ⟨st, ch⟩

/-- R34: the first reading of each channel, in order. -/
def firstPerChannel : List Nat → List Reading → List Reading
  | _, [] => []
  | seen, r :: rs => if seen.contains r.channel then firstPerChannel seen rs
    else r :: firstPerChannel (r.channel :: seen) rs

/-- R34: the readings of an answer are delivered. -/
def State.deliverReadings (s : State) (st : Nat) (rs : List Reading) : State :=
  let legacy := (s.station st).cfg.legacy
  (firstPerChannel [] rs).foldl (fun s r =>
    match s.pointOn st r.channel with
    | none => s
    | some p => s.takeReading p legacy r) s

/-- The points bound to a station, in number order, in which they are taken at one event of the station (R26, R27, R39,
notes/assumptions/10.md). -/
def State.pointsOf (s : State) (st : Nat) : List Nat :=
  (List.range 128).filter fun p =>
    match (s.point p).cfg.source with
    | none => false
    | some src => src.station == st

/-- R44: a point's alarm flag changes. The raise for a point that never took a value carries 0 (notes/assumptions/36.md). -/
def State.pointFlagChange (s : State) (p : Nat) (old new : Bool) : State :=
  let x := s.point p
  if old = new then s
  else if new then
    let s := if x.validity = .stale then s.raiseAlarm .pointStale (.point p) (some x.value) else s
    if x.validity = .suspect ∧ x.suspectCause = some .range then
      s.raiseAlarm .pointSuspect (.point p) (some x.value) else s
  else (s.clearAlarm .pointStale (.point p)).clearAlarm .pointSuspect (.point p)

/-- R43: the value and validity are judged again under new figures. -/
def State.rejudgePoint (s : State) (p : Nat) : State :=
  let x := s.point p
  if x.current && s.lasted x.lastTime x.cfg.staleLimit then (s.pointStale p).notifyPoint p false
  else
    let s := s.modPoint p fun y =>
      { y with staleDeadline := if y.staleDeadline.isSome then y.lastTime.map (· + y.cfg.staleLimit) else none }
    if x.validity = .good ∧ ¬ plausible x.cfg x.value then (s.pointOutOfRange p).notifyPoint p false else s

/-- R43: an accepted POINT_WRITE. A change of the alarm flag is judged before the new figures; where the point moves to NONE it raises
nothing (notes/assumptions/29.md). -/
def State.rewritePoint (s : State) (p : Nat) (cfg : PointCfg) : State :=
  let old := s.point p
  let moved := cfg.source ≠ old.cfg.source ∨ cfg.kind ≠ old.cfg.kind ∨ cfg.numerator ≠ old.cfg.numerator
    ∨ cfg.denominator ≠ old.cfg.denominator ∨ cfg.offset ≠ old.cfg.offset
  let s := s.modPoint p fun x =>
    { x with
      cfg := cfg,
      lastForwarded := if cfg.forward = old.cfg.forward ∧ cfg.band = old.cfg.band then x.lastForwarded else none }
  if moved then
    let s := s.pointNone p
    if old.validity = .none then s else s.notifyPoint p false
  else (s.pointFlagChange p old.cfg.alarm cfg.alarm).rejudgePoint p

end Sys2Proof.Machine
end

