-- ==== Sys2Proof/Machine/Stations.lean ====
section
/-! DEFINITION. The Station Map: a station's health, flags and answers (R8, R19, R20, R30 to R34), and its rewriting, clearing
and grouping (R25 to R29, R44). -/

namespace Sys2Proof.Machine

open Sys2Proof

/-! ### Events for the owners -/

/-- The FAULT flag of a blower's station has changed: a blower that waits to adopt is judged after the answer (R76). -/
def State.blowerFaultEvent (b : Nat) (s : State) : State :=
  let x := s.blower b
  if x.state = .unknown ∨ (x.state = .tripped ∧ x.tripCause = some .lost) then s else s.judgeBlower b

/-- R30: the owners of a station take up its changed flags, FAULT before LOCAL (notes/assumptions/11.md). -/
def State.flagEvents (s : State) (st : Nat) (fault localMode : Bool × Bool) : State :=
  let s := if fault.1 = fault.2 then s else s.eachBlowerOn st State.blowerFaultEvent
  if localMode.1 = localMode.2 then s
  else s.eachBlowerOn st (if localMode.2 then State.blowerLocalSet else State.blowerLocalClear)

/-- R19, R30: after a change of a station's health or flags the zones judge their valves, the Header Unit its blowers'
flags, the channels their pumps. `old` is the station before. -/
def State.stationEvents (s : State) (st : Nat) (old : Station) : State :=
  let new := s.station st
  let s := s.rejudgeZones
  (s.flagEvents st (old.fault, new.fault) (old.localMode, new.localMode)).judgeChannels

/-! ### Answers -/

/-- What an answer's sequence number is judged (Table 17). -/
inductive SeqJudgement where
  | first | next | again | gap (size : Nat)
  deriving DecidableEq, Repr

/-- R33, Table 17. -/
def judgeSeq (last : Option Nat) (n : Nat) : SeqJudgement :=
  match last with
  | none => .first
  | some k =>
    if n = k then .again
    else if n = (k + 1) % 256 then .next
    else .gap ((n + 512 - k - 1) % 256)

/-- R8, R33: the station's record after the judgement of an answer's number. -/
def Station.judged (x : Station) (n : Nat) : Station :=
  match judgeSeq x.lastSeq n with
  | .first | .next => { x with lastSeq := some n }
  | .again => { x with counters := { x.counters with repeats := holdAdd 65535 x.counters.repeats 1 } }
  | .gap k => { x with lastSeq := some n, counters := { x.counters with gaps := holdAdd 65535 x.counters.gaps k } }

/-- R8, R19, R30: the station's record after a GOOD close with an answer. -/
def Station.answered (x : Station) (a : Answer) : Station :=
  ({ x with
    health := .live, consec := 0, fault := a.fault, localMode := a.localMode, held := a.held,
    counters := { x.counters with turns := holdAdd 65535 x.counters.turns 1 } } : Station).judged a.sequence

/-- R31: STATION_LOCAL follows the LOCAL flag of an answer. -/
def State.localAlarm (s : State) (st : Nat) (was is : Bool) : State :=
  if is then (if !was && (s.station st).cfg.alarm then s.raiseAlarm .stationLocal (.station st) else s)
  else s.clearAlarm .stationLocal (.station st)

/-- R76: the blowers of the station adopt after its answer has been handled. -/
def State.adoptAll (s : State) (st : Nat) : State :=
  s.eachBlowerOn st fun b s => if s.adoptable b then s.adopt b else s

/-- R8: a turn closes GOOD with an answer of the station. -/
def State.turnGood (s : State) (st : Nat) (a : Answer) : State :=
  let old := s.station st
  let s := (s.modStation st (·.answered a)).clearAlarm .stationLost (.station st)
  let s := s.localAlarm st old.localMode a.localMode
  let s := s.stationEvents st old
  let s := if judgeSeq old.lastSeq a.sequence = .again ∨ a.held then s else s.deliverReadings st a.readings
  s.adoptAll st

/-- R20, R28, R39, R142: what follows a station's coming to read LOST: passages on it end, its points' consumers, the
zones, the blowers and the channels take it up (notes/assumptions/10.md). -/
def State.lossEvents (s : State) (st : Nat) (points : List Nat) : State :=
  let s := s.endLostPassages
  let s := points.foldl (fun s p => s.notifyPoint p false) s
  let s := s.rejudgeZones
  (s.eachBlowerOn st State.blowerLost).judgeChannels

/-- R20, R33, R39: a station enters LOST. -/
def State.enterLost (s : State) (st : Nat) : State :=
  let points := (s.pointsOf st).filter fun p => (s.point p).current
  let s := s.modStation st fun x => { x with lastSeq := none }
  let s := points.foldl State.pointStale s
  let s := if (s.station st).cfg.alarm then s.raiseAlarm .stationLost (.station st) (some (s.station st).consec) else s
  s.lossEvents st points

/-- R8, R19: a turn closes FAILED. -/
def State.turnFailed (s : State) (st : Nat) : State :=
  let old := s.station st
  let s := s.modStation st fun x =>
    { x with
      consec := holdAdd 255 x.consec 1,
      counters := { x.counters with
        turns := holdAdd 65535 x.counters.turns 1, failed := holdAdd 65535 x.counters.failed 1 },
      health := if s.flc.line.lostThreshold ≤ holdAdd 255 x.consec 1 then .lost else x.health }
  if old.health ≠ .lost ∧ (s.station st).health = .lost then s.enterLost st else s

/-- R6: a format error of the polled station. -/
def State.formatError (s : State) (st : Nat) : State :=
  s.modStation st fun x =>
    { x with counters := { x.counters with formatErrors := holdAdd 65535 x.counters.formatErrors 1 } }

/-! ### The map -/

/-- R9: an open turn to the station closes VOID. A poll still being sent is cut, and the line is free at once
(notes/assumptions/31.md). -/
def State.voidTurn (s : State) (st : Nat) : State :=
  match s.flc.turn with
  | none => s
  | some t => if t.station = st then s.modFlc fun f => { f with turn := none, gap := t.fromRoster } else s

/-- R44: a station's alarm flag changes. -/
def State.stationFlagChange (s : State) (st : Nat) (old new : Bool) : State :=
  let x := s.station st
  if old = new then s
  else if new then
    let s := if x.health = .lost then s.raiseAlarm .stationLost (.station st) (some x.consec) else s
    if x.localMode then s.raiseAlarm .stationLocal (.station st) else s
  else (s.clearAlarm .stationLost (.station st)).clearAlarm .stationLocal (.station st)

/-- R26, R27: both alarms of a station are cleared. -/
def State.clearStation (s : State) (st : Nat) : State :=
  (s.clearAlarm .stationLost (.station st)).clearAlarm .stationLocal (.station st)

/-- R26: a configured station starts afresh. Its owners judge its health and flags before the events of its points
(notes/assumptions/10.md). -/
def State.stationAfresh (s : State) (st : Nat) (cfg : StationCfg) : State :=
  let old := s.station st
  let points := s.pointsOf st
  let changed := points.filter fun p => (s.point p).validity != .none
  let s := s.modStation st fun _ => Station.start cfg
  let s := points.foldl State.pointNone s
  let s := (s.clearStation st).voidTurn st
  let s := s.stationEvents st old
  changed.foldl (fun s p => s.notifyPoint p false) s

/-- R25, R26, R44: an accepted MAP_WRITE. -/
def State.rewriteStation (s : State) (st : Nat) (cfg : StationCfg) : State :=
  let old := s.station st
  if !old.cfg.configured then
    (s.modStation st fun _ => Station.start cfg).stationEvents st (Station.start cfg)
  else if cfg.addr ≠ old.cfg.addr ∨ cfg.role ≠ old.cfg.role ∨ cfg.legacy ≠ old.cfg.legacy then s.stationAfresh st cfg
  else (s.modStation st fun x => { x with cfg := cfg }).stationFlagChange st old.cfg.alarm cfg.alarm

/-- R27: the station leaves every group. -/
def Group.without (g : Group) (st : Nat) : Group :=
  { members := g.members.filter (· != st), answering := if g.answering = some st then none else g.answering }

/-- R27: an accepted MAP_CLEAR. The address, role and flags stay stored (notes/assumptions/15.md). -/
def State.clearMap (s : State) (st : Nat) : State :=
  let points := s.pointsOf st
  let changed := points.filter fun p => (s.point p).validity != .none
  let s := s.modStation st fun x => Station.start { x.cfg with configured := false }
  let s := points.foldl (fun s p => (s.modPoint p fun x => { x with cfg := { x.cfg with source := none } }).pointNone p) s
  let s := { s with groups := s.groups.map fun (g : Group) => g.without st }
  let s := (s.clearStation st).voidTurn st
  s.lossEvents st changed

/-- R29: an accepted GROUP_WRITE; readers see the group's health afresh (R18, R28, R142). Passages that it ends are ended before the
zones judge their causes (notes/assumptions/10.md). -/
def State.rewriteGroup (s : State) (g : Nat) (members : List Nat) (answering : Option Nat) : State :=
  ((s.modGroup g fun _ => ⟨members, answering⟩).endLostPassages).rejudgeZones

end Sys2Proof.Machine
end

