-- ==== Sys2Proof/Machine/FieldLine.lean ====
section
/-! DEFINITION. The Field Line Controller (chapter 1): which turn comes next, what it carries, and how it ends. -/

namespace Sys2Proof.Machine

open Sys2Proof

/-! ### What a turn carries -/

/-- R1, R15: a target no turn can be made to: an unconfigured station, a group with no configured answering member. -/
def State.unpollable (s : State) (t : Target) : Bool :=
  match s.answerer t with
  | none => true
  | some i => !(s.station i).cfg.configured ||
    match t with
    | .station _ => false
    | .group g => (s.group g).members.isEmpty

/-- The health the FLC holds of a target's answerer. -/
def State.lineHealth (s : State) (t : Target) : Health :=
  match s.answerer t with
  | none => .lost
  | some i => (s.station i).health

/-- The configured zone whose valve binding names the target (R10). -/
def State.zoneOfTarget (s : State) (t : Target) : Option Nat :=
  (List.range 24).find? fun z => (s.zone z).cfg.configured && (s.zone z).cfg.valve == t

/-- The configured blower of a station (R10). -/
def State.blowerOfStation (s : State) (st : Nat) : Option Nat :=
  (List.range 6).find? fun b => (s.blower b).cfg.configured && (s.blower b).cfg.station == st

/-- R10, R11: what a roster DRIVE to a zone's valve carries. -/
def State.zonePayload (s : State) (t : Target) : Option Drive :=
  match s.zoneOfTarget t with
  | none => none
  | some z =>
    match (s.zone z).mode with
    | .off | .waiting => none
    | .auto | .fallback | .hand => some (.position (s.driven z))

/-- R10, R12: what a roster DRIVE to a blower's station carries. -/
def State.blowerPayload (s : State) (st : Nat) : Option Drive :=
  match s.blowerOfStation st with
  | none => none
  | some b =>
    match (s.blower b).state with
    | .unknown | .lockedOut => none
    | _ => some (s.blowerDrive b)

/-- R10, R12: what a roster DRIVE to a pump station carries. -/
def State.pumpPayload (s : State) (st : Nat) : Option Drive :=
  if s.ownedPump st then some (pumpDrive (s.pumpCommandedRun st)) else none

/-- R10, Table 7: the payload of a roster DRIVE; none makes the turn a READ. -/
def State.rosterPayload (s : State) (t : Target) : Option Drive :=
  if s.lineHealth t = .lost then none else
  match t with
  | .group _ => s.zonePayload t
  | .station i =>
    match (s.station i).cfg.role with
    | .probe => none
    | .valve => s.zonePayload t
    | .blower => s.blowerPayload i
    | .pump => s.pumpPayload i

/-- R15: the payload of an express entry when it is served. One offered in HAND for a zone that has returned to WAITING is carried
as R15 gives it (notes/assumptions/32.md). -/
def State.expressPayload (s : State) (e : ExpressEntry) : Option Drive :=
  if s.lineHealth e.target = .lost then none else
  match e.payload with
  | some (.position p) =>
    match s.zoneOfTarget e.target with
    | none => some (.position p)
    | some z =>
      match (s.zone z).mode with
      | .auto | .fallback => some (.position (min p (s.zone z).cap))
      | _ => some (.position p)
  | other => other

/-- R5: a turn begins; its poll is being sent. -/
def State.beginTurn (s : State) (fromRoster : Bool) (t : Target) (payload : Option Drive) : State :=
  match s.answerer t with
  | none => s
  | some i =>
    let own := (s.station i).cfg.addr
    let turn : Turn :=
      { fromRoster := fromRoster, station := i,
        group := match t with
          | .station _ => none
          | .group g => some g,
        addr := match t, payload with
          | .group g, some _ => 112 + g
          | _, _ => own,
        answerAddr := own, payload := payload, window := s.flc.line.window,
        retries := if (s.station i).health = .lost then 0 else s.flc.line.retries, retriesMade := 0, phase := .sending }
    s.modFlc fun f => { f with turn := some turn, gap := false }

/-! ### The line arbiter (R1 to R3, R15, R16) -/

/-- R1: an entry that makes no turn in this round. -/
def State.passedOver (s : State) (e : RosterEntry) : Bool :=
  s.flc.round % e.divisor != e.phase || s.unpollable e.target

/-- R1, R3: the pass ends once nothing is left to visit; before the round timer's expiry this ends a run of overruns. -/
def State.settlePass (s : State) : State :=
  if s.flc.passEnded then s else
  match s.flc.passRest.dropWhile s.passedOver with
  | _ :: _ => s
  | [] =>
    let inTime := s.flc.roundTimer.isSome
    let s := s.modFlc fun f =>
      { f with passEnded := true, passRest := [], consecOverruns := if inTime then 0 else f.consecOverruns }
    if inTime then s.clearAlarm .roundOverrun .fieldLine else s

/-- R2: the four steps of a round's start. -/
def State.startRound (s : State) : State :=
  s.modFlc fun f =>
    let active := f.staged.getD f.active
    { f with
      active := active, staged := none, round := (f.round + 1) % 65536, roundTimer := some f.line.roundPeriod,
      passEnded := false, passRest := active, gap := false }

/-- The next roster turn of the pass. -/
def State.rosterTurn (s : State) : State :=
  match s.flc.passRest.dropWhile s.passedOver with
  | [] => s
  | e :: rest =>
    let payload := match e.kind with
      | .read => none
      | .drive => s.rosterPayload e.target
    (s.modFlc fun f => { f with passRest := rest }).beginTurn true e.target payload

/-- R15: an express entry is served. -/
def State.expressTurn (s : State) (e : ExpressEntry) (rest : List ExpressEntry) : State :=
  (s.modFlc fun f => { f with express := rest }).beginTurn false e.target (s.expressPayload e)

/-- R16: express entries served while the round waits for its successor; an entry without a target is discarded. -/
def State.idleExpress (s : State) : State :=
  match s.flc.express.dropWhile fun e => s.unpollable e.target with
  | [] => s.modFlc fun f => { f with express := [], gap := false }
  | e :: rest => s.expressTurn e rest

/-- R16: after a roster turn, the last of the pass among them, one express entry if there is one. A discarded entry counts as
served. -/
def State.gapExpress (s : State) : State :=
  match s.flc.express with
  | [] => s.modFlc fun f => { f with gap := false }
  | e :: rest =>
    if s.unpollable e.target then s.modFlc fun f => { f with express := rest, gap := false } else s.expressTurn e rest

/-- R2, R16: what follows on a free line once no express entry is owed to the last roster turn: a round whose timer has expired
gives way to its successor, and the next roster turn or an express entry outside the pass begins. -/
def State.nextTurn (s : State) : State :=
  if s.flc.turn.isSome then s else
  let s := if s.flc.passEnded && s.flc.roundTimer.isNone then s.startRound.settlePass else s
  if s.flc.passEnded then s.idleExpress else s.rosterTurn

/-- R16: the line arbiter, whenever the line is free. The express entry owed after a roster turn comes before a round that waits,
also after the last roster turn of a pass that overran. -/
def State.lineArbiter (s : State) : State :=
  if s.flc.turn.isSome then s else
  let s := s.settlePass
  (if s.flc.gap then s.gapExpress else s).nextTurn

/-- R2, R3: the round timer's expiry. -/
def State.roundExpiry (s : State) : State :=
  let ended := s.flc.passEnded
  let s := s.modFlc fun f => { f with roundTimer := none }
  if ended then s else
  let s := s.modFlc fun f =>
    { f with overruns := holdAdd 65535 f.overruns 1, consecOverruns := holdAdd 255 f.consecOverruns 1 }
  if 3 ≤ s.flc.consecOverruns then s.raiseAlarm .roundOverrun .fieldLine (some s.flc.consecOverruns) else s

/-! ### The turn on the line (R5 to R8) -/

/-- The turn closes: the line is free, and after a roster turn the arbiter may serve an express entry (R16). -/
def State.closeTurn (s : State) (t : Turn) : State :=
  s.modFlc fun f => { f with turn := none, gap := t.fromRoster }

/-- The turn whose answer window is open. -/
def State.openWindow (s : State) : Option Turn :=
  match s.flc.turn with
  | some t => if t.phase = .window then some t else none
  | none => none

/-- R5: the last character of a poll has left the line. -/
def State.pollSent (s : State) : State :=
  s.modFlc fun f => { f with turn := f.turn.map fun t => { t with phase := .window } }

/-- R5, R8: the answer window expires: the poll is retried, or the turn closes FAILED. -/
def State.windowExpiry (s : State) : State :=
  match s.openWindow with
  | none => s
  | some t =>
    if t.retriesMade < t.retries then
      s.modFlc fun f => { f with turn := some { t with retriesMade := t.retriesMade + 1, phase := .sending } }
    else (s.closeTurn t).turnFailed t.station

/-- R6, R7: a frame that is no answer: a format error in an open window, unsolicited outside one. -/
def State.badFieldFrame (s : State) : State :=
  match s.openWindow with
  | some t => s.formatError t.station
  | none => s.modFlc fun f => { f with unsolicited := holdAdd 65535 f.unsolicited 1 }

/-- R6, R182: the answer a body carries, from the address the turn waits for. -/
def validAnswer (t : Turn) (body : List Byte) : Option Answer :=
  match readAnswer body with
  | none => none
  | some a => if a.source = t.answerAddr then some a else none

/-- R6 to R8: a frame arrives on the field line. -/
def State.fieldFrame (s : State) (chars : List Byte) : State :=
  match readFieldFrame chars with
  | .passedOver => s
  | .rejected => s.badFieldFrame
  | .whole body =>
    match s.openWindow with
    | none => s.badFieldFrame
    | some t =>
      match validAnswer t body with
      | none => s.badFieldFrame
      | some a => (s.closeTurn t).turnGood t.station a

/-- R180: the field driver is enabled while a poll is being sent. -/
def State.fieldDriver (s : State) : Bool :=
  match s.flc.turn with
  | some t => t.phase == .sending
  | none => false

end Sys2Proof.Machine
end

