-- ==== Sys2Proof/Machine/Report.lean ====
section
/-! DEFINITION. What the part sends: the characters of a poll (Table 65), of an alarm record (Table 72), of each notice and of
each report (R179, in the order of the owning rule). Codings chapter 11 leaves open are in notes/assumptions/7.md. -/

namespace Sys2Proof.Machine

open Sys2Proof

/-! ### Figures and choices -/

/-- A two-byte figure; one that does not fit is a free value (notes/assumptions/9.md). -/
def fig (n : Nat) : List Byte := if n < 65536 then b16 n else b16 (Config.overwide16 n).toNat

/-- A four-byte figure. -/
def fig32 (n : Nat) : List Byte := if n < 4294967296 then b32 n else b32 (Config.overwide32 n).toNat

/-- A figure that may be absent. -/
def optFig (n : Option Nat) : List Byte := bOpt fig 0 n

/-- An uptime that may be absent. -/
def optTime (n : Option Nat) : List Byte := bOpt fig32 0 n

/-- A timer of which only its condition is reported: 0 running, 1 stopped. -/
def bTimer (t : Option Nat) : List Byte := b8 (if t.isSome then 0 else 1)

/-- A set of named members as one byte, bit 0 first. -/
def bSet (members : List Bool) : List Byte := b8 (members.foldr (fun b n => b.toNat + 2 * n) 0)

def Health.code : Health → Nat | .unseen => 0 | .live => 1 | .lost => 2
def Validity.code : Validity → Nat | .none => 0 | .good => 1 | .stale => 2 | .suspect => 3
def SuspectCause.code : SuspectCause → Nat | .range => 0 | .kind => 1
def Band.code : Band → Nat | .low => 0 | .mid => 1 | .high => 2 | .storm => 3
def ZoneMode.code : ZoneMode → Nat | .off => 0 | .waiting => 1 | .auto => 2 | .fallback => 3 | .hand => 4
def Causes.set (c : Causes) : List Byte := bSet [c.doInvalid, c.valveUnavailable]
def BlowerState.code : BlowerState → Nat
  | .unknown => 0 | .stopped => 1 | .starting => 2 | .running => 3 | .stopping => 4 | .tripped => 5 | .localMode => 6
  | .lockedOut => 7
def TripCause.code : TripCause → Nat | .fault => 0 | .startFail => 1 | .lost => 2
def ChannelState.code : ChannelState → Nat | .disabled => 0 | .running => 1 | .paused => 2 | .faulted => 3
def Duty.code : Duty → Nat | .first => 0 | .partner => 1
def StormState.code : StormState → Nat | .normal => 0 | .rising => 1 | .storm => 2 | .falling => 3
def RecordState.code : RecordState → Nat | .raisedUnack => 0 | .raisedAck => 1 | .clearedUnack => 2
def StartKind.code : StartKind → Nat | .powerOn => 0 | .resetPin => 1 | .restart => 2
def AlarmAction.code : AlarmAction → Nat | .raised => 0 | .cleared => 1 | .acknowledged => 2 | .evicted => 3
def Status.code : Status → Nat | .done => 0 | .busy => 1 | .refused => 2 | .noObject => 3 | .malformed => 4

/-- RUN or STOP as Table 65 numbers commands. -/
def runCode (run : Bool) : List Byte := b8 run.toNat

/-- Table 65, bytes 2 to 4. -/
def Drive.bytes : Drive → List Byte
  | .stop v => b8 0 ++ b16 v
  | .run v => b8 1 ++ b16 v
  | .position p => b8 2 ++ b16 p

/-! ### Polls (Table 65) -/

/-- The body of the poll of a turn; bit 1 of control is the retry flag. -/
def Turn.pollBody (t : Turn) : List Byte :=
  let retry := if 0 < t.retriesMade then 2 else 0
  match t.payload with
  | none => b8 t.addr ++ b8 retry
  | some d => b8 t.addr ++ b8 (1 + retry) ++ d.bytes

/-- The characters of the poll. -/
def Turn.poll (t : Turn) : List Byte := fieldFrame t.pollBody

/-! ### Alarm records and notices -/

/-- Table 72. -/
def AlarmView.bytes (v : AlarmView) : List Byte :=
  let r := v.record
  b8 (r.code.place + 1) ++ b8 r.source.kindIndex ++ b8 r.source.index ++ b8 r.cls.code
    ++ b8 (if v.removed then 3 else r.state.code) ++ b8 r.count
    ++ bSet [r.value.isSome, r.unack.isSome, v.pinned, v.escalated] ++ fig32 r.first ++ fig32 r.last
    ++ fig (r.value.getD 0) ++ fig32 (r.unack.getD 0)

/-- A NOTICE's kind byte and fields, the lost-flag byte apart (11.2, Table 62). -/
def Notice.kindCode : Notice → Nat
  | .alarmChange .. => 1 | .channelDone .. => 2 | .stormChange .. => 3 | .blowerChange .. => 4 | .zoneModeChange .. => 5
  | .startComplete .. => 6

/-- The fields of a notice, in the order of Table 62. -/
def Notice.fields : Notice → List Byte
  | .alarmChange action full view => b8 action.code ++ bFlag full ++ view.bytes
  | .channelDone channel cycles counted => b8 channel ++ fig cycles ++ fig32 counted
  | .stormChange old new force inForce last uptime =>
      b8 old.code ++ b8 new.code ++ b8 force.code ++ bFlag inForce ++ optFig last ++ fig32 uptime
  | .blowerChange b oldState oldCause newState newCause uptime =>
      b8 b ++ b8 oldState.code ++ bOpt (fun c => b8 (TripCause.code c)) .fault oldCause ++ b8 newState.code
        ++ bOpt (fun c => b8 (TripCause.code c)) .fault newCause ++ fig32 uptime
  | .zoneModeChange z old new causes uptime => b8 z ++ b8 old.code ++ b8 new.code ++ causes.set ++ fig32 uptime
  | .startComplete kind valid uptime => b8 kind.code ++ bFlag valid ++ fig32 uptime

/-- The payload of a NOTICE; a count of lost notices above 0 stands before the fields (R171). -/
def Notice.payload (n : Notice) (lost : Nat) : List Byte :=
  b8 n.kindCode ++ (if lost = 0 then b8 0 else b8 1 ++ fig lost) ++ n.fields

/-- The characters of the frame on the transmitter (Table 69, R173). -/
def TxFrame.bytes (plantAddr : Nat) : TxFrame → List Byte
  | .reply r => plantFrame r.dest (BitVec.ofNat 8 plantAddr) 2 r.tag (b8 r.code ++ b8 r.status.code ++ r.report)
  | .notice dest n lost => plantFrame dest (BitVec.ofNat 8 plantAddr) 3 0 (n.payload lost)
  | .reading dest p uptime =>
      plantFrame dest (BitVec.ofNat 8 plantAddr) 4 0 (b8 p.point ++ b8 p.validity.code ++ fig p.value ++ fig32 uptime)

/-! ### Reports -/

/-- R169. -/
def State.identifyReport (s : State) : List Byte :=
  let p := s.port
  Config.identity ++ fig p.plantAddr ++ fig32 (if p.fastLine then 115200 else 38400) ++ fig32 s.uptime
    ++ b8 p.startKind.code ++ bFlag p.imageValidAtStart ++ bFlag p.imageOk ++ bFlag p.save.isSome
    ++ bFlag s.pool.settled ++ fig p.checkErrors ++ fig p.unanswered ++ fig p.noticesLost ++ fig p.requests.length
    ++ fig p.replies.length ++ fig p.notices.length ++ fig p.forward.length

/-- R45, a station. -/
def State.mapReport (s : State) (i : Nat) : List Byte :=
  let x := s.station i
  bFlag x.cfg.configured ++ fig x.cfg.addr ++ b8 x.cfg.role.code ++ bFlag x.cfg.legacy ++ bFlag x.cfg.alarm
    ++ bSet (s.memberships i) ++ bFlag x.fault ++ bFlag x.localMode ++ bFlag x.held ++ b8 x.health.code ++ fig x.consec
    ++ optFig x.lastSeq

/-- R21. -/
def State.countersReport (s : State) (i : Nat) : List Byte :=
  let x := s.station i
  b8 x.health.code ++ fig x.consec ++ fig x.counters.turns ++ fig x.counters.failed ++ fig x.counters.gaps
    ++ fig x.counters.repeats ++ fig x.counters.formatErrors

/-- R45, a point. -/
def State.pointReport (s : State) (p : Nat) : List Byte :=
  let x := s.point p
  x.cfg.code ++ fig x.value ++ b8 x.validity.code ++ bOpt (fun c => b8 (SuspectCause.code c)) .range x.suspectCause
    ++ optTime x.lastTime ++ bTimer x.staleDeadline ++ bFlag x.fresh ++ optFig x.lastForwarded
    ++ optTime (x.lastTime.map (s.uptime - ·))

/-- R23. The entries of the active roster stand in the two-byte form that Table 70 gives a ROSTER_LOAD
(notes/assumptions/7.md). -/
def State.rosterReport (s : State) : List Byte :=
  let f := s.flc
  bList RosterEntry.code f.active ++ bFlag f.staged.isSome ++ fig f.round ++ fig f.overruns ++ fig f.consecOverruns
    ++ fig f.expressDrops ++ fig f.unsolicited ++ fig f.express.length

/-- R72. -/
def State.zoneReport (s : State) (z : Nat) : List Byte :=
  let x := s.zone z
  let l := s.lane (laneOf z)
  x.cfg.code ++ b8 x.mode.code ++ x.causes.set ++ fig x.desired ++ fig (s.driven z) ++ fig x.cap ++ fig (s.demand z)
    ++ optTime x.air.since ++ optTime x.doLow.since ++ bTimer x.trimDeadline ++ fig x.trimCount ++ fig x.skipCount
    ++ fig32 x.lastModeChange ++ fig (s.setpoint z) ++ bFlag l.inService ++ b8 l.ammoniaBand.code ++ bFlag l.ammoniaValid
    ++ b8 l.activeBand.code

/-- The place of a member of a list, counted from 0. -/
def placeOf (l : List Nat) (b : Nat) : Option Nat := l.findIdx? (· == b)

/-- Table 30, as BLOWER_READ reports it. -/
def State.blowerStateBytes (s : State) (b : Nat) : List Byte :=
  let x := s.blower b
  b8 x.state.code ++ bOpt (fun c => b8 (TripCause.code c)) .fault x.tripCause ++ runCode (s.blowerRun b) ++ fig x.speed
    ++ optTime x.runStart ++ optTime x.runEnd ++ bTimer x.rampDeadline ++ bTimer x.runDownDeadline ++ fig32 x.lastChange

/-- R84. -/
def State.blowerReport (s : State) (b : Nat) : List Byte :=
  let x := s.blower b
  x.cfg.code ++ bFlag x.lockout
    ++ (if x.cfg.configured then b8 1 ++ s.blowerStateBytes b else b8 0 ++ (s.blowerStateBytes b).map fun _ => 0)
    ++ bFlag (s.startable b) ++ optFig (placeOf s.pool.dutyOrder b) ++ optFig (placeOf s.pool.runList b)
    ++ fig32 s.pool.supply ++ fig s.minimumInForce ++ optTime s.pool.stageUpSince ++ optTime s.pool.stageDownSince
    ++ bFlag s.pool.settled

/-- R105. The policy in force is the one configured, from a POOL_WRITE on (notes/assumptions/34.md). -/
def State.grantsReport (s : State) : List Byte :=
  let q := s.pool
  ((List.range 24).flatMap fun z =>
    let x := s.zone z
    b8 x.mode.code ++ fig (s.demand z) ++ fig x.grant ++ fig x.cap ++ b8 x.cfg.priorityClass
      ++ b8 (x.cfg.release.code Release.code))
    ++ b8 (q.cfg.policy.code Policy.code) ++ fig32 q.figures.supply ++ fig32 q.figures.handClaims ++ fig32 q.figures.floors
    ++ fig32 q.figures.demand ++ fig32 q.figures.grants ++ fig32 (q.figures.supply - q.figures.grants) ++ bFlag q.airShort
    ++ fig q.passCount ++ optTime q.lastPass ++ optFig (s.secondsLeft q.allocDeadline)

/-- R124. The seconds left of a pause limit that has expired are absent (notes/assumptions/30.md). -/
def State.channelReport (s : State) (c : Nat) : List Byte :=
  let x := s.channel c
  let k := s.pair (c / 2)
  x.cfg.code ++ b8 x.state.code ++ fig x.target ++ fig x.remaining ++ fig x.cycles ++ fig32 x.counted ++ fig x.overshoot
    ++ optFig x.lastMeter ++ optTime x.pauseStart ++ fig32 x.accumulator ++ optTime x.lastInfluent ++ bFlag x.autoPending
    ++ bFlag k.joined ++ bOpt (fun d => b8 (Duty.code d)) .first (if s.paired c then some k.duty else none)
    ++ bOpt b8 0 (if s.paired c then some (s.channel (c + 1)).cfg.pump else none)
    ++ bList (fun st => bFlag (s.pumpAvailable st) ++ runCode (s.pumpRun st) ++ bFlag (s.pumpHeld st)) (s.pumps c)
    ++ optFig (if x.state = .paused then s.secondsLeft x.pauseDeadline else none)

/-- R134, a timer: its condition and remaining seconds. A stopped timer reports 0 seconds (notes/assumptions/7.md). -/
def StormTimer.bytes (now : Nat) : StormTimer → List Byte
  | .stopped => b8 0 ++ fig 0
  | .running e => b8 1 ++ fig (e - now)
  | .suspended left => b8 2 ++ fig left

/-- R134. With no influent point configured the validity reported is NONE (notes/assumptions/7.md). -/
def State.stormReport (s : State) : List Byte :=
  let m := s.storm
  m.cfg.code ++ b8 m.force.code ++ b8 m.state.code ++ m.entryTimer.bytes s.uptime ++ m.holdTimer.bytes s.uptime
    ++ bFlag m.holdExpired ++ m.exitTimer.bytes s.uptime ++ bFlag m.influentValid ++ optFig m.lastInfluent
    ++ fig32 m.lastChange ++ bFlag s.stormInForce
    ++ b8 (match m.cfg.influentPoint with
      | none => Validity.none.code
      | some p => (s.point p).validity.code)

/-- R145, one passage. -/
def State.passageBytes (s : State) (p : Passage) : List Byte :=
  b8 p.target.kind.code ++ b8 p.target.index ++ p.demand.bytes ++ b8 p.timeout.code ++ fig32 p.start ++ fig p.refreshes
    ++ optFig (s.secondsLeft p.deadline)
    ++ (match p.target.kind with
      | .zone => b8 (s.zone p.target.index).mode.code ++ (s.zone p.target.index).causes.set
      | .pump => runCode (s.pumpRun p.target.index) ++ bFlag (s.pumpAvailable p.target.index))

/-- R145. -/
def State.handReport (s : State) : List Byte := bList s.passageBytes s.hand

/-- R159. The present state of each line is a flag byte of its own, in the order HORN, BEACON, CALLOUT,
HEALTHY in which R160 names them (R179). -/
def State.alarmReport (s : State) (start : Nat) : List Byte :=
  let a := s.alarms
  fig a.records.length ++ bFlag a.full ++ bFlag a.silenced ++ fig a.escalation
    ++ bFlag a.lines.horn ++ bFlag a.lines.beacon ++ bFlag a.lines.callout ++ bFlag a.lines.healthy ++ bFlag s.pool.settled
    ++ bList (fun r => (s.view r).bytes) ((a.records.drop start).take 8)

end Sys2Proof.Machine
end

