-- ==== Sys2Proof/Machine/ReqMap.lean ====
section
/-! DEFINITION. The handling of the requests of three groups of Table 61: identification, map and points, field line. -/

namespace Sys2Proof.Machine

open Sys2Proof

/-- What the handling of a request gives: the state, and the reply's status and report. -/
structure Handled where
  state : State
  status : Status
  report : List Byte
  deriving DecidableEq, Repr

/-- Answered DONE, with no report. -/
def State.done (s : State) : Handled := ⟨s, .done, []⟩
def State.refused (s : State) : Handled := ⟨s, .refused, []⟩
def State.busy (s : State) : Handled := ⟨s, .busy, []⟩
def State.noObject (s : State) : Handled := ⟨s, .noObject, []⟩

/-- A read: DONE with its report, nothing changed. -/
def State.reported (s : State) (report : List Byte) : Handled := ⟨s, .done, report⟩

/-- A request that holds to its checks takes effect and is answered DONE, and is otherwise REFUSED and changes nothing. -/
def State.acceptIf (s : State) (ok : Bool) (effect : State) : Handled := if ok then effect.done else s.refused

/-- Within a range, ends included. -/
def within (low high n : Nat) : Bool := decide (low ≤ n) && decide (n ≤ high)

/-! ### Identification -/

/-- R169. -/
def handleIdentify (s : State) : Handled := s.reported s.identifyReport

/-! ### Map and points -/

/-- R25: no other configured station has the address. -/
def State.addrFree (s : State) (st addr : Nat) : Bool :=
  (List.range 48).all fun j => j == st || !((s.station j).cfg.configured && (s.station j).cfg.addr == addr)

/-- R25, R26. -/
def handleMapWrite (st addr : Nat) (role : Coded Role) (legacy alarm : Bool) (s : State) : Handled :=
  match role with
  | .unlisted _ => s.refused
  | .val r =>
    s.acceptIf (decide (st < 48) && within 1 111 addr && s.addrFree st addr)
      (s.rewriteStation st ⟨true, addr, r, legacy, alarm⟩)

/-- R45. -/
def handleMapRead (st : Nat) (s : State) : Handled := if st < 48 then s.reported (s.mapReport st) else s.refused

/-- R27. -/
def handleMapClear (st : Nat) (s : State) : Handled :=
  if 48 ≤ st then s.refused
  else if (s.station st).cfg.configured then (s.clearMap st).done else s.noObject

/-- The stations a valve binding drives: itself, or the group's members. -/
def State.boundStations (s : State) : Target → List Nat
  | .station i => [i]
  | .group g => (s.group g).members

/-- R29, R51: no configured zone but `z` drives one of the stations, directly or as a member of its group. -/
def State.notDriven (s : State) (z : Nat) (sts : List Nat) : Bool :=
  (List.range 24).all fun y =>
    y == z || !(s.zone y).cfg.configured || (s.boundStations (s.zone y).cfg.valve).all fun i => !sts.contains i

/-- R29: the zones bound to the group would share no member with another zone. -/
def State.groupFree (s : State) (g : Nat) (members : List Nat) : Bool :=
  (List.range 24).all fun z =>
    !((s.zone z).cfg.configured && (s.zone z).cfg.valve == .group g) || s.notDriven z members

/-- R29: the checks. -/
def State.groupOk (s : State) (g : Nat) (members : List Nat) (answering : Option Nat) : Bool :=
  decide (g < 8) && decide (members.length ≤ 8)
    && members.all (fun i => decide (i < 48) && (s.station i).cfg.configured) && decide members.Nodup
    && (match answering with
      | none => members.isEmpty
      | some a => members.contains a)
    && s.groupFree g members

/-- R29. -/
def handleGroupWrite (g : Nat) (members : List Nat) (answering : Option Nat) (s : State) : Handled :=
  s.acceptIf (s.groupOk g members answering) (s.rewriteGroup g members answering)

/-- R43: a bound source names a configured station, a channel 0..3, and is free. -/
def State.sourceOk (s : State) (p : Nat) : Option PointSource → Bool
  | none => true
  | some src =>
    decide (src.station < 48) && (s.station src.station).cfg.configured && decide (src.channel < 4)
      && (List.range 128).all fun q => q == p || (s.point q).cfg.source != some src

/-- R43: the checks. -/
def State.pointOk (s : State) (p : Nat) (c : PointCfg) : Bool :=
  decide (p < 128) && s.sourceOk p c.source && c.kind.listed && within 1 1000 c.numerator && within 1 1000 c.denominator
    && decide (-1000 ≤ c.offset) && decide (c.offset ≤ 1000) && decide (c.low ≤ c.high) && decide (c.high ≤ pointTop c)
    && within 2 600 c.staleLimit && c.forward.listed && decide (c.band ≤ 65535)

/-- R43. -/
def handlePointWrite (p : Nat) (c : PointCfg) (s : State) : Handled := s.acceptIf (s.pointOk p c) (s.rewritePoint p c)

/-- R45. -/
def handlePointRead (p : Nat) (s : State) : Handled := if p < 128 then s.reported (s.pointReport p) else s.refused

/-! ### Field line -/

/-- R4: one entry. -/
def entryOk (e : RosterEntry) : Bool :=
  (match e.target, e.kind with
   | .station i, _ => i < 48
   | .group g, .drive => g < 8
   | .group _, .read => false)
    && [1, 2, 4, 8].contains e.divisor && decide (e.phase < e.divisor)

/-- R4. -/
def handleRosterLoad (entries : List RosterEntry) (s : State) : Handled :=
  s.acceptIf (decide (entries.length ≤ 96) && entries.all entryOk) (s.modFlc fun f => { f with staged := some entries })

/-- R23. -/
def handleRosterRead (s : State) : Handled := s.reported s.rosterReport

/-- R22, Table 11. -/
def lineOk (l : LineSettings) : Bool :=
  within 2 50 l.window && decide (l.retries ≤ 3) && within 1 15 l.lostThreshold && within 2 100 l.roundPeriod

/-- R22. -/
def handleLineWrite (l : LineSettings) (s : State) : Handled := s.acceptIf (lineOk l) (s.modFlc fun f => { f with line := l })

/-- R13, R14. -/
def handleExpressRead (st : Nat) (s : State) : Handled :=
  if 48 ≤ st then s.refused else
  let e : ExpressEntry := ⟨.station st, none⟩
  if s.expressTaken e then (s.offerExpress e).done else (s.offerExpress e).busy

/-- R21. -/
def handleStationCounters (st : Nat) (reset : Bool) (s : State) : Handled :=
  if 48 ≤ st then s.refused else
  ⟨if reset then s.modStation st fun x => { x with counters := .zero } else s, .done, s.countersReport st⟩

end Sys2Proof.Machine
end

