-- ==== Sys2Proof/Machine/ReqPlant.lean ====
section
/-! DEFINITION. The handling of the requests of four groups of Table 61: trim, header, return, storm. -/

namespace Sys2Proof.Machine

open Sys2Proof

/-! ### Trim -/

/-- R47: the checks. -/
def State.laneOk (s : State) (l : Nat) (c : LaneCfg) : Bool :=
  decide (l < 6) && within 20 400 c.spLow && within 20 400 c.spMid && within 20 400 c.spHigh && within 20 400 c.spStorm
    && decide (c.thresholdA < c.thresholdB) && decide (c.thresholdB ≤ 1000) && decide (c.hysteresis ≤ 200)
    && within 60 900 c.startGrace && s.optPointIs c.ammoniaPoint .nh4

/-- R47, R48, R49: an accepted LANE_WRITE. -/
def State.rewriteLane (s : State) (l : Nat) (c : LaneCfg) : State :=
  let t := s.modLane l fun x => { x with cfg := c }
  let t := match c.ammoniaPoint with
    | none => t
    | some p => if t.pointGood p .nh4 then t.moveBand l (t.pointValue p) else t
  s.judgeLane l t

/-- R47. -/
def handleLaneWrite (l : Nat) (c : LaneCfg) (s : State) : Handled := s.acceptIf (s.laneOk l c) (s.rewriteLane l c)

/-- R66, R67. -/
def handleLaneService (l : Nat) (on : Bool) (s : State) : Handled :=
  if 6 ≤ l then s.refused
  else if (s.lane l).inService = on then s.done
  else if on then (s.laneOn l).done else (s.laneOff l).done

/-- R51: the ranges of Table 24. -/
def zoneRanges (c : ZoneCfg) : Bool :=
  decide (-200 ≤ c.offset) && decide (c.offset ≤ 200) && decide (c.deadband ≤ 50) && within 10 500 c.gain
    && within 5 200 c.maxStep && decide (c.maxPos ≤ 1000) && within c.minPos c.maxPos c.fallbackPos
    && within 10 10000 c.fullOpenAir && decide (c.mixingFloor ≤ c.fullOpenAir) && decide (c.priorityClass ≤ 3)
    && c.release.listed && within 5 600 c.trimPeriod && decide (c.doLowBand ≤ 200) && within 60 3600 c.doLowDelay

/-- R51: the valve binding names a configured VALVE station, or a group of VALVE stations with a member. -/
def State.bindingOk (s : State) (t : Target) : Bool :=
  let valve := fun i => (s.station i).cfg.configured && (s.station i).cfg.role == .valve
  match t with
  | .station i => decide (i < 48) && valve i
  | .group g => decide (g < 8) && !(s.group g).members.isEmpty && (s.group g).members.all valve

/-- R51: the checks. -/
def State.zoneOk (s : State) (z : Nat) (c : ZoneCfg) : Bool :=
  decide (z < 24) &&
    (!c.configured ||
      (zoneRanges c && s.pointIs c.doPoint .dissolvedOxygen && s.optPointIs c.feedback .position
        && ((List.range 24).all fun y =>
            y == z || !(s.zone y).cfg.configured
              || ((s.zone y).cfg.doPoint != c.doPoint && (s.zone y).cfg.valve != c.valve))
        && s.bindingOk c.valve && s.notDriven z (s.boundStations c.valve)))

/-- R51, R68. -/
def handleZoneWrite (z : Nat) (c : ZoneCfg) (s : State) : Handled := s.acceptIf (s.zoneOk z c) (s.rewriteZone z c)

/-- R72. -/
def handleZoneRead (z : Nat) (s : State) : Handled := if z < 24 then s.reported (s.zoneReport z) else s.refused

/-! ### Header -/

/-- R74: the ranges of Table 29. -/
def blowerRanges (c : BlowerCfg) : Bool :=
  within 100 20000 c.rated && within 300 900 c.turndown && within 10 600 c.rampTime && within 10 300 c.runDownTime
    && within 60 3600 c.minRun && within 60 3600 c.minStop

/-- R74: the checks of a configured record. -/
def State.blowerOk (s : State) (b : Nat) (c : BlowerCfg) : Bool :=
  !c.configured ||
    (blowerRanges c && decide (c.station < 48) && (s.station c.station).cfg.configured
      && (s.station c.station).cfg.role == .blower
      && ((List.range 6).all fun d => d == b || !((s.blower d).cfg.configured && (s.blower d).cfg.station == c.station))
      && s.pointIs c.runPoint .runstate)

/-- R74: the blower takes its configuration with the state of a start (R76). -/
def State.freshBlower (s : State) (b : Nat) (c : BlowerCfg) : State :=
  s.modBlower b fun x => Blower.start s.uptime x.lockout c

/-- R76: adoption, where it can be made now. Minimum running is judged either way, also of a blower newly configured
(notes/assumptions/16.md). -/
def State.adoptIfReady (s : State) (b : Nat) : State := if s.adoptable b then s.adopt b else s.header

/-- R74: a blower is no longer configured: it leaves both lists and its three trip alarms are cleared. The write counts as a change
of its state for minimum running, though it queues no notice (notes/assumptions/16.md). -/
def State.forgetBlower (s : State) (b : Nat) (c : BlowerCfg) : State :=
  let s := (s.freshBlower b c).modPool fun p =>
    { p with dutyOrder := p.dutyOrder.filter (· != b), runList := p.runList.filter (· != b) }
  (s.tripAlarms b none).header

/-- R74, R75: an accepted BLOWER_WRITE. A blower that is UNKNOWN already and is given another station or run-state point enters
UNKNOWN afresh: the entry is stamped, and as no state changes it queues no notice (R84, notes/assumptions/27.md). -/
def State.rewriteBlower (s : State) (b : Nat) (c : BlowerCfg) : State :=
  let old := s.blower b
  if !c.configured then (if old.cfg.configured then s.forgetBlower b c else s.modBlower b fun x => { x with cfg := c })
  else if !old.cfg.configured then
    ((s.freshBlower b c).modPool fun p => { p with dutyOrder := p.dutyOrder ++ [b] }).adoptIfReady b
  else if c.station ≠ old.cfg.station ∨ c.runPoint ≠ old.cfg.runPoint then
    if old.state = .unknown then
      let s := s.modBlower b fun x => { x with cfg := c, lastChange := s.uptime }
      if s.adoptable b then s.adopt b else s
    else ((s.modBlower b fun x => { x with cfg := c }).enterBlower b .unknown).adoptIfReady b
  else s.modBlower b fun x => { x with cfg := c }

/-- R74: the states in which a write is taken. -/
def Blower.writable (x : Blower) : Bool :=
  !x.cfg.configured || x.state == .unknown || x.state == .stopped || x.state == .tripped || x.state == .lockedOut

/-- R74. -/
def handleBlowerWrite (b : Nat) (c : BlowerCfg) (s : State) : Handled :=
  if 6 ≤ b then s.refused
  else if !(s.blower b).writable then s.busy
  else s.acceptIf (s.blowerOk b c) (s.rewriteBlower b c)

/-- R84. -/
def handleBlowerRead (b : Nat) (s : State) : Handled := if b < 6 then s.reported (s.blowerReport b) else s.refused

/-- R82: BLOWER_LOCKOUT ON of a configured blower. -/
def State.lockBlower (s : State) (b : Nat) : State :=
  let s := s.modBlower b fun x => { x with lockout := true }
  match (s.blower b).state with
  | .stopped => s.changeBlower b .lockedOut
  | .running | .starting => (s.stopBlower b).header
  | _ => s

/-- R82: BLOWER_LOCKOUT OFF of a configured blower. -/
def State.unlockBlower (s : State) (b : Nat) : State :=
  let s := s.modBlower b fun x => { x with lockout := false }
  match (s.blower b).state with
  | .lockedOut => s.changeBlower b .stopped
  | _ => s

/-- R82. -/
def handleBlowerLockout (b : Nat) (on : Bool) (s : State) : Handled :=
  if 6 ≤ b then s.refused
  else if !(s.blower b).cfg.configured then s.noObject
  else if on then (s.lockBlower b).done else (s.unlockBlower b).done

/-- R83. -/
def handleBlowerReset (b : Nat) (s : State) : Handled :=
  let x := s.blower b
  if 6 ≤ b then s.refused
  else if !x.cfg.configured then s.noObject
  else s.acceptIf
    (x.state == .tripped && (x.tripCause == some .fault || x.tripCause == some .startFail) && !s.reportsFault b)
    (s.changeBlower b x.restState)

/-- R87: the checks. -/
def State.poolOk (s : State) (c : PoolCfg) : Bool :=
  within 300 1000 c.upFraction && within 10 900 c.upDelay && within 300 1000 c.downFraction
    && decide (c.downFraction < c.upFraction) && within 60 1800 c.downDelay && decide (c.minNormal ≤ 6)
    && decide (c.minStorm ≤ 6) && decide (c.pressureHigh ≤ 1500) && decide (c.pressureLow < c.pressureHigh)
    && within 1 60 c.allocationPeriod && c.policy.listed && s.optPointIs c.pressurePoint .pressure

/-- R87: an accepted POOL_WRITE. -/
def State.rewritePool (s : State) (c : PoolCfg) : State :=
  let old := s.pool.cfg
  let s := s.modPool fun p => { p with cfg := c }
  let s :=
    if c.pressurePoint = old.pressurePoint ∧ c.pressureHigh = old.pressureHigh ∧ c.pressureLow = old.pressureLow then s
    else if c.pressurePoint.isNone then (if old.pressurePoint.isNone then s else s.dropPressure) else s.judgePressure
  s.judgeMinimum

/-- R87. -/
def handlePoolWrite (c : PoolCfg) (s : State) : Handled := s.acceptIf (s.poolOk c) (s.rewritePool c)

/-- R86: a duty order names each configured blower once and no other. -/
def State.orderOk (s : State) (order : List Nat) : Bool :=
  decide order.Nodup && order.all (fun b => decide (b < 6) && (s.blower b).cfg.configured)
    && (List.range 6).all fun b => !(s.blower b).cfg.configured || order.contains b

/-- R86. -/
def handleDutyOrder (order : List Nat) (s : State) : Handled :=
  s.acceptIf (s.orderOk order) (s.modPool fun p => { p with dutyOrder := order })

/-- R86: the head moves to the tail. -/
def rotate : List Nat → List Nat
  | [] => []
  | b :: rest => rest ++ [b]

/-- R86. -/
def handleDutyRotate (s : State) : Handled := (s.modPool fun p => { p with dutyOrder := rotate p.dutyOrder }).done

/-- R105. -/
def handleGrantsRead (s : State) : Handled := s.reported s.grantsReport

/-! ### Return -/

/-- R108: the ranges of Table 42, and the two rules between its fields. -/
def channelRanges (c : ChannelCfg) : Bool :=
  c.mode.listed && decide (c.minLevel ≤ 990) && within 1 60 c.pauseLimit && within 1 65535 c.target
    && within 1 3000 c.ratio && within 1 3000 c.stormRatio && (c.mode != .val .ratio || c.influentPoint.isSome)
    && !(c.mode == .val .batch && c.autoStart)

/-- R108: the checks of a configured record. -/
def State.channelOk (s : State) (i : Nat) (c : ChannelCfg) : Bool :=
  !c.configured ||
    (channelRanges c && decide (c.pump < 48) && (s.station c.pump).cfg.configured && (s.station c.pump).cfg.role == .pump
      && ((List.range 4).all fun j => j == i || !((s.channel j).cfg.configured && (s.channel j).cfg.pump == c.pump))
      && s.pointIs c.volumePoint .volume && s.optPointIs c.levelPoint .level && s.optPointIs c.influentPoint .inflow)

/-- R108: the record after the write. -/
def Channel.rewritten (x : Channel) (c : ChannelCfg) : Channel :=
  let moved := c.influentPoint ≠ x.cfg.influentPoint
  { x with
    cfg := c, autoPending := false, lastMeter := if c.volumePoint = x.cfg.volumePoint then x.lastMeter else none,
    accumulator := if moved then 0 else x.accumulator, lastInfluent := if moved then none else x.lastInfluent }

/-- R142: the pumps whose passages a CHANNEL_WRITE ends, as the channel stands before it: its own, and the partner pump of a
joined pair, in this order (notes/assumptions/30.md). -/
def State.formerPumps (s : State) (i : Nat) : List Nat :=
  (if (s.channel i).cfg.configured then [(s.channel i).cfg.pump] else [])
    ++ if s.paired i then [(s.channel (i + 1)).cfg.pump] else []

/-- R108: an accepted CHANNEL_WRITE; the passages on its former pumps end. -/
def State.rewriteChannel (s : State) (i : Nat) (c : ChannelCfg) : State :=
  (s.formerPumps i).foldl (fun s st => s.endPassage ⟨.pump, st⟩ false) (s.modChannel i (·.rewritten c))

/-- R108. -/
def handleChannelWrite (i : Nat) (c : ChannelCfg) (s : State) : Handled :=
  if 4 ≤ i then s.refused
  else if s.dormant i then s.refused
  else if (s.channel i).state ≠ .disabled then s.busy
  else s.acceptIf (s.channelOk i c) (s.rewriteChannel i c)

/-- R112. -/
def handleChannelStart (i : Nat) (s : State) : Handled :=
  if 4 ≤ i then s.refused
  else if s.dormant i then s.refused
  else if !(s.channel i).cfg.configured then s.noObject
  else if (s.channel i).state ≠ .disabled then s.busy
  else (s.withCommands fun s => s.startChannel i).done

/-- R113. Of a DISABLED channel it clears auto-start pending, as R123 says (notes/assumptions/30.md). -/
def handleChannelStop (i : Nat) (s : State) : Handled :=
  if 4 ≤ i then s.refused
  else if s.dormant i then s.refused
  else if !(s.channel i).cfg.configured then s.noObject
  else if (s.channel i).state = .disabled then (s.modChannel i fun x => { x with autoPending := false }).done
  else (s.withCommands fun s => s.disableChannel i).done

/-- R124. -/
def handleChannelRead (i : Nat) (s : State) : Handled :=
  if 4 ≤ i then s.refused else if s.dormant i then s.refused else s.reported (s.channelReport i)

/-- R121: a join. -/
def State.joinPair (s : State) (k : Nat) : State :=
  s.withCommands fun s =>
    let s := s.modPair k fun p => { p with joined := true }
    let s := s.modChannel (2 * k + 1) fun x => { x with autoPending := false }
    s.joinHandStop (s.channel (2 * k)).cfg.pump (s.channel (2 * k + 1)).cfg.pump

/-- R121: a parting; the upper channel's counts start afresh. -/
def State.partPair (s : State) (k : Nat) : State :=
  s.withCommands fun s =>
    let s := s.modPair k fun p => { p with joined := false }
    s.modChannel (2 * k + 1) fun x => Channel.start x.cfg

/-- R121, R123. BUSY is judged before the flag already held (notes/assumptions/30.md). -/
def handlePairSet (k : Nat) (join : Bool) (s : State) : Handled :=
  if 2 ≤ k then s.refused
  else if (s.channel (2 * k)).state ≠ .disabled ∨ (s.channel (2 * k + 1)).state ≠ .disabled then s.busy
  else if (s.pair k).joined = join then s.done
  else if join then
    s.acceptIf ((s.channel (2 * k)).cfg.configured && (s.channel (2 * k + 1)).cfg.configured) (s.joinPair k).judgeChannels
  else (s.partPair k).judgeChannels.done

/-- R122, R123. -/
def handleDutySwap (k : Nat) (s : State) : Handled :=
  let st := (s.channel (2 * k)).state
  if 2 ≤ k then s.refused
  else if !(s.pair k).joined then s.refused
  else if (st = .running ∨ st = .paused) ∧ ¬ s.otherAvailable (2 * k) then s.refused
  else (s.withCommands fun s => s.moveDuty (2 * k)).judgeChannels.done

/-! ### Storm -/

/-- R127: the checks. -/
def State.stormOk (s : State) (c : StormCfg) : Bool :=
  within 1 20000 c.entryThreshold && decide (c.exitThreshold ≤ 19999) && decide (c.exitThreshold < c.entryThreshold)
    && within 10 3600 c.entryConfirm && within 10 3600 c.exitConfirm && within 10 240 c.minimumHold
    && s.optPointIs c.influentPoint .inflow

/-- R127. -/
def handleStormWrite (c : StormCfg) (s : State) : Handled := s.acceptIf (s.stormOk c) (s.rewriteStorm c)

/-- R131. -/
def handleStormForce (f : Coded Force) (s : State) : Handled :=
  match f with
  | .unlisted _ => s.refused
  | .val f => if f = s.storm.force then s.done else (s.takeForce f).done

/-- R134. -/
def handleStormRead (s : State) : Handled := s.reported s.stormReport

end Sys2Proof.Machine
end

