-- ==== Sys2Proof/Machine/ReqHand.lean ====
section
/-! DEFINITION. The handling of the requests of three groups of Table 61: hand, alarms, part. -/

namespace Sys2Proof.Machine

open Sys2Proof

/-! ### Hand -/

/-- A target that is a zone or a station number. -/
def handTargetOf (kind : Coded HandKind) (index : Nat) : Option HandTarget :=
  match kind with
  | .unlisted _ => none
  | .val k => if (⟨k, index⟩ : HandTarget).wf then some ⟨k, index⟩ else none

/-- Table 53, Form: a position for a zone, RUN or STOP for a pump, whose value bytes are ignored (notes/assumptions/7.md). -/
def handDemand (t : HandTarget) (command : Coded Command) (value : Nat) : Option Drive :=
  match t.kind, command with
  | .zone, .val .position => if value ≤ 1000 then some (.position value) else none
  | .pump, .val .run => some (.run 0)
  | .pump, .val .stop => some (.stop 0)
  | _, _ => none

/-- Table 53, zone and pump target. -/
def State.holdable (s : State) (t : HandTarget) : Bool :=
  match t.kind with
  | .zone => (s.zone t.index).cfg.configured && (s.lane (laneOf t.index)).inService
  | .pump => s.ownedPump t.index

/-- R138: the pair interlock stands in the way of a demand. -/
def State.interlocked (s : State) (t : HandTarget) (demand : Drive) : Bool :=
  match t.kind, demand with
  | .pump, .run _ =>
    match s.mateOfPump t.index with
    | none => false
    | some mate => s.pumpCommandedRun mate
  | _, _ => false

/-- R137, Table 53: the checks after Form, in their order, and the effect (R139). -/
def State.handDrive (s : State) (t : HandTarget) (demand : Drive) (timeout : TimeoutCode) : Handled :=
  if !s.holdable t then s.refused
  else if s.handTargetHealth t = .lost then s.refused
  else if s.interlocked t demand then s.refused
  else if (s.passage t).isNone ∧ 8 ≤ s.hand.length then s.busy
  else (s.holdTarget t demand timeout).done

/-- R137 to R139. -/
def handleHandDrive (kind : Coded HandKind) (index : Nat) (command : Coded Command) (value : Nat)
    (timeout : Coded TimeoutCode) (s : State) : Handled :=
  match handTargetOf kind index, timeout with
  | some t, .val timeout =>
    match handDemand t command value with
    | some demand => s.handDrive t demand timeout
    | none => s.refused
  | _, _ => s.refused

/-- R141. -/
def handleHandRelease (kind : Coded HandKind) (index : Nat) (s : State) : Handled :=
  match handTargetOf kind index with
  | none => s.refused
  | some t => if (s.passage t).isSome then (s.endPassage t false).done else s.noObject

/-- R145. -/
def handleHandRead (s : State) : Handled := s.reported s.handReport

/-! ### Alarms -/

/-- R159. -/
def handleAlarmList (start : Nat) (s : State) : Handled :=
  if 63 < start then s.refused else s.reported (s.alarmReport start)

/-- R154. -/
def handleAlarmAck (code : Coded AlarmCode) (kind index : Nat) (s : State) : Handled :=
  match code, Source.ofBytes kind index with
  | .val c, some src =>
    if !src.validFor c then s.refused
    else if (s.record c src).isNone then s.noObject
    else (s.ackAlarm c src).done
  | _, _ => s.refused

/-- R155. -/
def handleAlarmAckClass (cls : Coded AlarmClass) (s : State) : Handled :=
  match cls with
  | .unlisted _ => s.refused
  | .val k =>
    let rs := s.alarms.records.filter fun r => r.cls == k && r.state != .raisedAck
    if rs.isEmpty then s.noObject else (rs.foldl (fun s r => s.ackAlarm r.code r.source) s).done

/-- R162. -/
def handleSilence (s : State) : Handled := (s.modAlarms fun a => { a with silenced := true }).done

/-- The classes of a list of which every one is listed. -/
def listedClasses : List (Coded AlarmClass) → Option (List AlarmClass)
  | [] => some []
  | .val c :: rest => (listedClasses rest).map (c :: ·)
  | .unlisted _ :: _ => none

/-- R160. -/
def handleClassMapWrite (lines : LineMap) (classes : List (Coded AlarmClass)) (s : State) : Handled :=
  match listedClasses classes with
  | none => s.refused
  | some cs => (s.modAlarms fun a => { a with lineMap := lines, codeClasses := cs }).done

/-- R163. -/
def handleEscalationWrite (minutes : Nat) (s : State) : Handled :=
  s.acceptIf (within 1 120 minutes) (s.modAlarms fun a => { a with escalation := minutes })

/-! ### Part -/

/-- R174, R175: the configuration as it stands. -/
def State.settings (s : State) : Settings :=
  { stations := s.stations.map fun (x : Station) => x.cfg, groups := s.groups,
    points := s.points.map fun (x : Point) => x.cfg, roster := s.flc.active, line := s.flc.line,
    lanes := s.lanes.map fun (x : Lane) => (x.inService, x.cfg), zones := s.zones.map fun (x : Zone) => x.cfg,
    blowers := s.blowers.map fun (x : Blower) => (x.lockout, x.cfg), pool := s.pool.cfg, dutyOrder := s.pool.dutyOrder,
    channels := s.channels.map fun (x : Channel) => x.cfg, pairs := s.pairs, storm := s.storm.cfg,
    force := s.storm.force, lineMap := s.alarms.lineMap, codeClasses := s.alarms.codeClasses,
    escalation := s.alarms.escalation }

/-- R175: a save begins; its reply is formed at its completion. -/
def State.beginSave (s : State) (h : Hdr) : State :=
  s.modPort fun p => { p with save := some ⟨s.settings, h⟩, imageOk := false }

/-- R175: a SAVE that begins a save has no reply yet. -/
def handleSave (h : Hdr) (s : State) : State × Option (Status × List Byte) :=
  if s.port.save.isSome then (s, some (.busy, [])) else (s.beginSave h, none)

/-- R177. -/
def handleRestart (s : State) : Handled :=
  if s.port.save.isSome then s.busy else (s.modPort fun p => { p with restartTaken := true }).done

/-- R168: a request that cannot be read. -/
def handleMalformed (s : State) : Handled := ⟨s, .malformed, []⟩

/-- A request with a flag or presence byte that is neither 0 nor 1 (notes/assumptions/8.md). -/
def handleUnreadable (s : State) : Handled := s.refused

end Sys2Proof.Machine
end

