-- ==== Sys2Proof/Machine/Port.lean ====
section
/-! DEFINITION. The plant port (chapter 10): requests received, queued, taken and answered, the transmit arbiter, and the end
of every handling. -/

namespace Sys2Proof.Machine

open Sys2Proof

/-! ### The transmitter -/

/-- R171 to R173: where the transmitter is free, the oldest reply, else the oldest notice, with the notices-lost count, else
the oldest pending point begins. -/
def State.transmit (s : State) : State :=
  if s.port.tx.isSome then s else
  s.modPort fun p =>
    match p.replies, p.notices, p.forward with
    | r :: rest, _, _ => { p with tx := some (.reply r), replies := rest }
    | [], n :: rest, _ => { p with tx := some (.notice p.address n p.noticesLost), notices := rest, noticesLost := 0 }
    | [], [], x :: rest => { p with tx := some (.reading p.address x s.uptime), forward := rest }
    | [], [], [] => p

/-- The end of a handling: the line arbiter, the annunciator lines, the transmit arbiter (R16, R161, R173). An idle transmitter takes
its frame here and not inside the handling (notes/assumptions/12.md). -/
def State.finish (s : State) : State := s.lineArbiter.updateLines.transmit

/-! ### Requests -/

/-- The handling of a request, by its own rule; SAVE alone may leave its reply for later. -/
def handle (h : Hdr) (r : Req) (s : State) : State × Option (Status × List Byte) :=
  let now := fun (x : Handled) => (x.state, some (x.status, x.report))
  match r with
  | .malformed _ => now (handleMalformed s)
  | .unreadableValue _ => now (handleUnreadable s)
  | .identify => now (handleIdentify s)
  | .mapWrite st addr role legacy alarm => now (handleMapWrite st addr role legacy alarm s)
  | .mapRead st => now (handleMapRead st s)
  | .mapClear st => now (handleMapClear st s)
  | .groupWrite g members answering => now (handleGroupWrite g members answering s)
  | .pointWrite p cfg => now (handlePointWrite p cfg s)
  | .pointRead p => now (handlePointRead p s)
  | .rosterLoad entries => now (handleRosterLoad entries s)
  | .rosterRead => now (handleRosterRead s)
  | .lineWrite line => now (handleLineWrite line s)
  | .expressRead st => now (handleExpressRead st s)
  | .stationCounters st reset => now (handleStationCounters st reset s)
  | .laneWrite l cfg => now (handleLaneWrite l cfg s)
  | .laneService l on => now (handleLaneService l on s)
  | .zoneWrite z cfg => now (handleZoneWrite z cfg s)
  | .zoneRead z => now (handleZoneRead z s)
  | .blowerWrite b cfg => now (handleBlowerWrite b cfg s)
  | .blowerRead b => now (handleBlowerRead b s)
  | .blowerLockout b on => now (handleBlowerLockout b on s)
  | .blowerReset b => now (handleBlowerReset b s)
  | .poolWrite cfg => now (handlePoolWrite cfg s)
  | .dutyOrder order => now (handleDutyOrder order s)
  | .dutyRotate => now (handleDutyRotate s)
  | .grantsRead => now (handleGrantsRead s)
  | .channelWrite c cfg => now (handleChannelWrite c cfg s)
  | .channelStart c => now (handleChannelStart c s)
  | .channelStop c => now (handleChannelStop c s)
  | .channelRead c => now (handleChannelRead c s)
  | .pairSet k join => now (handlePairSet k join s)
  | .dutySwap k => now (handleDutySwap k s)
  | .stormWrite cfg => now (handleStormWrite cfg s)
  | .stormForce f => now (handleStormForce f s)
  | .stormRead => now (handleStormRead s)
  | .handDrive kind index command value timeout => now (handleHandDrive kind index command value timeout s)
  | .handRelease kind index => now (handleHandRelease kind index s)
  | .handRead => now (handleHandRead s)
  | .alarmList start => now (handleAlarmList start s)
  | .alarmAck code kind index => now (handleAlarmAck code kind index s)
  | .alarmAckClass cls => now (handleAlarmAckClass cls s)
  | .silence => now (handleSilence s)
  | .classMapWrite lines classes => now (handleClassMapWrite lines classes s)
  | .escalationWrite minutes => now (handleEscalationWrite minutes s)
  | .save => handleSave h s
  | .restart => now (handleRestart s)

/-- R168: a reply of any other status than DONE carries no report. -/
def replyTo (r : Request) (status : Status) (report : List Byte) : Reply :=
  { dest := r.hdr.src, tag := r.hdr.tag, code := r.body.code, status := status,
    report := if status = .done then report else [] }

/-- R167: a reply joins the list. -/
def State.addReply (s : State) (r : Reply) : State := s.modPort fun p => { p with replies := p.replies ++ [r] }

/-- R166, R167, R173: a taken request is handled whole, the line and the annunciator follow, its reply joins the list and
the transmit arbiter judges. The source of a taken request is where notices and readings go. -/
def State.take (s : State) (r : Request) : State :=
  let s := s.modPort fun p => { p with address := r.hdr.src }
  match handle r.hdr r.body s with
  | (s, none) => s.lineArbiter.updateLines.transmit
  | (s, some (status, report)) => (s.lineArbiter.updateLines.addReply (replyTo r status report)).transmit

/-- R166, R177: may the port take a request? -/
def State.mayTake (s : State) : Bool := !s.port.restartTaken && decide (s.port.replies.length < 7)

/-- R166: requests are taken from the head one after another while the conditions hold. -/
def State.serve : Nat → State → State
  | 0, s => s
  | n + 1, s =>
    match s.port.requests with
    | [] => s
    | r :: rest => if s.mayTake then serve n ((s.modPort fun p => { p with requests := rest }).take r) else s

/-- R166, R167: a request is offered to the request queue: added, or answered BUSY at once, or discarded and counted. -/
def State.offerRequest (s : State) (r : Request) : State :=
  if s.port.requests.length < 4 then s.modPort fun p => { p with requests := p.requests ++ [r] }
  else if s.port.replies.length < 7 then s.addReply (replyTo r .busy [])
  else s.modPort fun p => { p with unanswered := holdAdd 65535 p.unanswered 1 }

/-- The queue is served as far as it can be; no handling adds to it. -/
def State.serveAll (s : State) : State := s.serve s.port.requests.length

/-- A REQUEST addressed to the part arrives (R165 to R167). -/
def State.receiveRequest (s : State) (r : Request) : State := (s.offerRequest r).serveAll.transmit

/-- R165: a check error. -/
def State.checkError (s : State) : State := s.modPort fun p => { p with checkErrors := holdAdd 65535 p.checkErrors 1 }

/-- R165: a frame arrives on the plant port. -/
def State.plantFrameIn (s : State) (chars : List Byte) : State :=
  match readPlantFrame chars with
  | .passedOver => s
  | .rejected => s.checkError
  | .whole f =>
    if f.dest.toNat ≠ s.port.plantAddr ∨ f.kind ≠ 1#8 then s
    else s.receiveRequest ⟨⟨f.source, f.tag⟩, readRequest f.payload⟩

/-- R174, R175: the write of a save completes. -/
def State.saveCompletes (s : State) (ok : Bool) : State :=
  match s.port.save with
  | none => s
  | some save =>
    let s := s.modPort fun p => { p with image := save.snapshot, imageOk := ok, save := none }
    let s := s.setAlarm .settingsInvalid .works (!ok)
    let status := if ok then Status.done else .refused
    (s.lineArbiter.updateLines.addReply (replyTo ⟨save.hdr, .save⟩ status [])).transmit

end Sys2Proof.Machine
end

