-- ==== Sys2Proof/Machine/Start.lean ====
section
/-! DEFINITION. Start-up and RESTART (10.7; R24, R46, R73, R93, R106, R125, R135, R146, R164, R176 to R178). -/

namespace Sys2Proof.Machine

open Sys2Proof

/-- Table 27: the zones after start, in zone order. -/
def startZones (now : Nat) (img : Settings) : List Zone :=
  (List.range 24).map fun z => Zone.start now (img.lanes.getD (laneOf z) (false, .blank)).1 (img.zones.getD z .blank)

/-- R123, Table 45: the channels after start. -/
def startChannels (img : Settings) : List Channel :=
  (List.range 4).map fun c =>
    let cfg := img.channels.getD c .blank
    let dormant := c % 2 == 1 && (img.pairs.getD (c / 2) ⟨false, .first⟩).joined
    { Channel.start cfg with autoPending := cfg.configured && !dormant && cfg.autoStart }

/-- Table 63: the port after start. -/
def Port.started (p : Port) (kind : StartKind) : Port :=
  { p with
    startKind := kind, imageValidAtStart := p.imageOk, save := none, requests := [], replies := [], notices := [],
    noticesLost := 0, forward := [], checkErrors := 0, unanswered := 0, address := 0, tx := none, restartTaken := false }

/-- R176 steps 2 and 3: every table is loaded, every block takes its start state. -/
def State.load (s : State) (kind : StartKind) : State :=
  let img := if s.port.imageOk then s.port.image else .blank
  { uptime := s.uptime, stations := img.stations.map Station.start, groups := img.groups,
    points := img.points.map Point.start, flc := Flc.start img.roster img.line,
    lanes := img.lanes.map fun p => Lane.start s.uptime p.1 p.2, zones := startZones s.uptime img,
    blowers := img.blowers.map fun p => Blower.start s.uptime p.1 p.2, pool := Pool.start img.pool img.dutyOrder,
    channels := startChannels img, pairs := img.pairs, storm := Storm.start s.uptime img.storm img.force, hand := [],
    alarms := { s.alarms with
      silenced := false, lineMap := img.lineMap, codeClasses := img.codeClasses, escalation := img.escalation,
      lines := ⟨false, false, false, false⟩ },
    port := s.port.started kind, pending := s.pending }

/-- R46: an unbound point's records are cleared. -/
def State.startPoint (p : Nat) (s : State) : State :=
  if (s.point p).cfg.source.isSome then s
  else ((s.clearAlarm .pointStale (.point p)).clearAlarm .pointSuspect (.point p)).clearAlarm .pointKindMismatch (.point p)

/-- R49, R73: a lane's active band, and LANE_AMMONIA_INVALID. -/
def State.startLane (l : Nat) (s : State) : State :=
  let s := s.modLane l fun x => { x with activeBand := s.activeBandNow l }
  s.setAlarm .laneAmmoniaInvalid (.lane l) (s.lane l).ammoniaFailed

/-- R73: the records of a zone that is OFF are cleared. -/
def State.startZone (z : Nat) (s : State) : State :=
  if (s.zone z).mode ≠ .off then s
  else (((s.clearAlarm .zoneDoInvalid (.zone z)).clearAlarm .zoneValveUnavailable (.zone z)).clearAlarm .doLow
    (.zone z)).clearAlarm .airLimited (.zone z)

/-- R135: STORM_ACTIVE and INFLUENT_INVALID. -/
def State.startStorm (s : State) : State :=
  (s.setAlarm .stormActive .works s.stormInForce).setAlarm .influentInvalid .works s.storm.cfg.influentPoint.isSome

/-- R125: every channel is DISABLED, so its two alarms are cleared, in the model's order (notes/assumptions/35.md). -/
def State.startChannelAlarms (c : Nat) (s : State) : State :=
  (s.clearAlarm .channelNoPump (.channel c)).clearAlarm .channelPausedLong (.channel c)

/-- R76, Table 33: a blower whose station is not configured is TRIPPED with cause LOST at once; no notice is queued. -/
def State.startBlower (b : Nat) (s : State) : State :=
  let x := s.blower b
  if x.cfg.configured && !(s.station x.cfg.station).cfg.configured then
    (s.modBlower b fun x => { x with state := .tripped, tripCause := some .lost }).tripAlarms b (some .lost)
  else s

/-- R176: the start, from the image check on. SETTINGS_INVALID is judged first, the blocks follow, the pool may settle, and
traffic begins with round 0 and a free transmitter. The order of the blocks' alarm actions is the model's (notes/assumptions/35.md). -/
def State.startUp (s : State) (kind : StartKind) : State :=
  let s := s.load kind
  let s := s.setAlarm .settingsInvalid .works (!s.port.imageValidAtStart)
  let s := s.each 128 State.startPoint
  let s := s.each 6 State.startLane
  let s := s.each 24 State.startZone
  let s := s.startStorm
  let s := s.each 4 State.startChannelAlarms
  let s := s.each 6 State.startBlower
  s.header.finish

/-- Power-on and the reset pin: the uptime clears, the list is empty, the straps are sampled (R176, R178, Table 58). A save
cut short has left the image invalid (R175). -/
def State.coldStart (s : State) (kind : StartKind) (straps : BitVec 3) (fast : Bool) : State :=
  State.startUp
    { s with
      uptime := 0,
      alarms := { s.alarms with records := [], full := false },
      port := { s.port with plantAddr := 48 + straps.toNat, fastLine := fast } } kind

/-- Table 58, RESTART: a record in RAISED_UNACK begins a fresh wait. -/
def AlarmRecord.restarted (r : AlarmRecord) (now : Nat) : AlarmRecord :=
  if r.state = .raisedUnack then { r with unack := some now } else r

/-- R177: RESTART takes effect. -/
def State.warmStart (s : State) : State :=
  State.startUp
    (s.modAlarms fun a => { a with records := a.records.map fun (r : AlarmRecord) => r.restarted s.uptime }) .restart

/-- R177: is the frame the DONE of a RESTART? -/
def TxFrame.restartDone : TxFrame → Bool
  | .reply r => r.code == 44 && r.status == .done
  | _ => false

/-- R173, R177: a frame ends on the plant transmitter. -/
def State.frameSent (s : State) : State :=
  match s.port.tx with
  | none => s
  | some f => if f.restartDone then s.warmStart else (s.modPort fun p => { p with tx := none }).transmit.serveAll

end Sys2Proof.Machine
end

