-- ==== Sys2Proof/Machine/Clock.lean ====
section
/-! DEFINITION. One second of the uptime clock (3.2): what `step` does on an empty queue. The expiries of the timers counted in
seconds that have come due join the queue, in the order of the command table (notes/assumptions/3.md). -/

namespace Sys2Proof.Machine

open Sys2Proof

/-- The uptime a second later; what follows 2³²−1 is a free value (notes/assumptions/4.md). -/
def nextUptime (now : Nat) : Nat := if now + 1 < 4294967296 then now + 1 else Config.uptimeAfterLast.toNat

/-- The indexes below `n` that satisfy `p`, as commands. -/
def dueOf (n : Nat) (p : Nat → Bool) (c : Nat → Instr) : List Instr := ((List.range n).filter p).map c

/-- The command, if the condition holds. -/
def dueIf (p : Bool) (c : Instr) : List Instr := if p then [c] else []

/-- R163: does the record's escalation fall due at this second? -/
def State.escalates (s : State) (r : AlarmRecord) : Bool :=
  r.state == .raisedUnack && r.unack.map (· + s.alarms.escalation * 60) == some s.uptime

/-- The expiries due at the present uptime. Those of one row stand in index order, two passages in the order of the hand table
(notes/assumptions/3.md). -/
def State.dueExpiries (s : State) : List Instr :=
  dueOf 128 (fun p => s.due (s.point p).staleDeadline) .staleTimerExpiry
    ++ dueOf 24 (fun z => s.due (s.zone z).trimDeadline) .trimTimerExpiry
    ++ dueOf 6 (fun l => s.due (s.lane l).graceDeadline) .startGraceExpiry
    ++ dueOf 6 (fun b => (s.blower b).state == .starting
        && (s.blower b).runStart.map (· + (s.blower b).cfg.rampTime) == some s.uptime) .rampTimeElapsed
    ++ dueOf 6 (fun b => s.due (s.blower b).rampDeadline) .rampTimerExpiry
    ++ dueOf 6 (fun b => s.due (s.blower b).runDownDeadline) .runDownEnd
    ++ dueIf (s.due s.pool.allocDeadline) .allocationTimerExpiry
    ++ dueOf 4 (fun c => s.due (s.channel c).pauseDeadline) .pauseLimitExpiry
    ++ dueIf (s.storm.entryTimer.due s.uptime) .entryConfirmExpiry
    ++ dueIf (s.storm.holdTimer.due s.uptime) .holdTimerExpiry
    ++ dueIf (s.storm.exitTimer.due s.uptime) .exitConfirmExpiry
    ++ (s.hand.filter fun (p : Passage) => s.due p.deadline).map (fun (p : Passage) => Instr.deadlineExpiry p.target)
    ++ (s.alarms.records.filter s.escalates).map fun (r : AlarmRecord) => Instr.escalationExpiry r.code r.source

/-- A second passes with no command waiting. -/
def State.tick (s : State) : State :=
  let s := { s with uptime := nextUptime s.uptime }
  { s with pending := s.dueExpiries }

end Sys2Proof.Machine
end

