-- ==== Sys2Proof/Machine/Events.lean ====
section
/-! DEFINITION. The meaning of each event of the command table: a pin, a link, a timer. An expiry acts where its timer is
running and due; a frame end or a window end acts where there is one. Otherwise the event has no effect
(notes/assumptions/1.md, 25.md). -/

namespace Sys2Proof.Machine

open Sys2Proof

/-- What every meaning answers. -/
abbrev Out := Host.Outcome State Fault Refusal

/-- An event that acts while `holds`, and is otherwise without effect. -/
def State.onlyIf (s : State) (holds : Bool) (effect : State) : Out := .next (if holds then effect.finish else s)

/-- R176: power is applied. -/
def execPowerOn (straps : BitVec 3) (fast : Bool) (s : State) : Out := .next (s.coldStart .powerOn straps fast)

/-- R176: the reset pin. -/
def execResetPin (straps : BitVec 3) (fast : Bool) (s : State) : Out := .next (s.coldStart .resetPin straps fast)

/-- R175: the save's write completes. -/
def execSaveWriteComplete (readsBackValid : Bool) (s : State) : Out := .next (s.saveCompletes readsBackValid)

/-- R165: characters arrive on the plant port. -/
def execPlantFrameReceived (chars : List Byte) (s : State) : Out := .next (s.plantFrameIn chars)

/-- R173: a frame ends on the plant transmitter. -/
def execPlantFrameSent (s : State) : Out := .next s.frameSent

/-- R180: an idle inside a partly received frame rejects it, on either link. -/
def execFramingIdleTimeout (link : Link) (s : State) : Out :=
  .next (match link with
    | .field => s.badFieldFrame
    | .plant => s.checkError)

/-- R5: the last character of a poll leaves the line. -/
def execPollSent (s : State) : Out := .next s.pollSent

/-- R6 to R8: characters arrive on the field line. -/
def execFieldFrameReceived (chars : List Byte) (s : State) : Out := .next (s.fieldFrame chars).finish

/-- R5, R8: an answer window expires. -/
def execAnswerWindowExpiry (s : State) : Out := s.onlyIf s.openWindow.isSome s.windowExpiry

/-- R2, R3: the round timer expires. -/
def execRoundTimerExpiry (s : State) : Out := s.onlyIf s.flc.roundTimer.isSome s.roundExpiry

/-- R38: a point's stale timer expires. -/
def execStaleTimerExpiry (p : Nat) (s : State) : Out := s.onlyIf (s.due (s.point p).staleDeadline) (s.staleExpiry p)

/-- R57: a zone's trim timer expires. -/
def execTrimTimerExpiry (z : Nat) (s : State) : Out := s.onlyIf (s.due (s.zone z).trimDeadline) (s.trimExpiry z)

/-- R65: a lane's start grace expires. -/
def execStartGraceExpiry (l : Nat) (s : State) : Out := s.onlyIf (s.due (s.lane l).graceDeadline) (s.graceExpiry l)

/-- R78: a starting blower's ramp time has elapsed. -/
def execRampTimeElapsed (b : Nat) (s : State) : Out :=
  s.onlyIf ((s.blower b).state == .starting && s.ramped b) (s.judgeBlower b)

/-- R78: a starting blower's ramp timer expires. -/
def execRampTimerExpiry (b : Nat) (s : State) : Out :=
  s.onlyIf ((s.blower b).state == .starting && s.due (s.blower b).rampDeadline) (s.startFails b)

/-- R82: a stopping blower's run-down ends. -/
def execRunDownEnd (b : Nat) (s : State) : Out :=
  s.onlyIf ((s.blower b).state == .stopping && s.due (s.blower b).runDownDeadline) (s.runDownEnds b)

/-- R94: the allocation timer expires. -/
def execAllocationTimerExpiry (s : State) : Out := s.onlyIf (s.due s.pool.allocDeadline) s.allocationExpiry

/-- R118: a paused channel's pause limit expires. -/
def execPauseLimitExpiry (c : Nat) (s : State) : Out :=
  s.onlyIf ((s.channel c).state == .paused && s.due (s.channel c).pauseDeadline) (s.pauseExpiry c)

/-- R129: the entry confirm timer expires. -/
def execEntryConfirmExpiry (s : State) : Out := s.onlyIf (s.storm.entryTimer.due s.uptime) s.entryExpires

/-- R129: the hold timer expires. -/
def execHoldTimerExpiry (s : State) : Out := s.onlyIf (s.storm.holdTimer.due s.uptime) s.holdExpires

/-- R129: the exit confirm timer expires. -/
def execExitConfirmExpiry (s : State) : Out := s.onlyIf (s.storm.exitTimer.due s.uptime) s.exitExpires

/-- The deadline of a target's passage has come (R140). -/
def State.passageDue (s : State) (t : HandTarget) : Bool :=
  match s.passage t with
  | none => false
  | some p => s.due p.deadline

/-- R140: a passage's deadline expires. -/
def execDeadlineExpiry (t : HandTarget) (s : State) : Out := s.onlyIf (s.passageDue t) (s.endPassage t false)

/-- The record of the code and source is escalated (R163). -/
def State.recordEscalated (s : State) (code : AlarmCode) (src : Source) : Bool :=
  match s.record code src with
  | none => false
  | some r => s.escalated r

/-- R163: a record's escalation expires; the lines follow (R161). -/
def execEscalationExpiry (code : AlarmCode) (src : Source) (s : State) : Out := s.onlyIf (s.recordEscalated code src) s

end Sys2Proof.Machine
end

