-- ==== Sys2Proof/Machine/Requests.lean ====
section
/-! DEFINITION. The meaning of each request of the command table: the REQUEST that carries these arguments arrives, addressed
to the part (notes/assumptions/2.md). It joins the request queue and is taken when the port can take it (R166). What it
does when it is taken is its own handling, `handle` in Machine/Port.lean. -/

namespace Sys2Proof.Machine

open Sys2Proof

/-- R168: MALFORMED_REQUEST a request that cannot be read. -/
def execMalformedRequest (h : Hdr) (code : Byte) (s : State) : Out :=
  .next (s.receiveRequest ⟨h, .malformed code⟩)

/-- R169: IDENTIFY reports the part. -/
def execIdentify (h : Hdr) (s : State) : Out :=
  .next (s.receiveRequest ⟨h, .identify⟩)

/-- R25, R26: MAP_WRITE configures a station. -/
def execMapWrite (h : Hdr) (station addr : Nat) (role : Coded Role) (legacy alarm : Bool) (s : State) : Out :=
  .next (s.receiveRequest ⟨h, .mapWrite station addr role legacy alarm⟩)

/-- R45: MAP_READ reports a station. -/
def execMapRead (h : Hdr) (station : Nat) (s : State) : Out :=
  .next (s.receiveRequest ⟨h, .mapRead station⟩)

/-- R27: MAP_CLEAR removes a station from the map. -/
def execMapClear (h : Hdr) (station : Nat) (s : State) : Out :=
  .next (s.receiveRequest ⟨h, .mapClear station⟩)

/-- R29: GROUP_WRITE replaces a group. -/
def execGroupWrite (h : Hdr) (group : Nat) (members : List Nat) (answering : Option Nat) (s : State) : Out :=
  .next (s.receiveRequest ⟨h, .groupWrite group members answering⟩)

/-- R43: POINT_WRITE replaces a point's configuration. -/
def execPointWrite (h : Hdr) (point : Nat) (cfg : PointCfg) (s : State) : Out :=
  .next (s.receiveRequest ⟨h, .pointWrite point cfg⟩)

/-- R45: POINT_READ reports a point. -/
def execPointRead (h : Hdr) (point : Nat) (s : State) : Out :=
  .next (s.receiveRequest ⟨h, .pointRead point⟩)

/-- R4: ROSTER_LOAD stages a roster. -/
def execRosterLoad (h : Hdr) (entries : List RosterEntry) (s : State) : Out :=
  .next (s.receiveRequest ⟨h, .rosterLoad entries⟩)

/-- R23: ROSTER_READ reports the roster and the line counts. -/
def execRosterRead (h : Hdr) (s : State) : Out :=
  .next (s.receiveRequest ⟨h, .rosterRead⟩)

/-- R22: LINE_WRITE sets the line settings. -/
def execLineWrite (h : Hdr) (line : LineSettings) (s : State) : Out :=
  .next (s.receiveRequest ⟨h, .lineWrite line⟩)

/-- R13, R14: EXPRESS_READ offers an express READ. -/
def execExpressRead (h : Hdr) (station : Nat) (s : State) : Out :=
  .next (s.receiveRequest ⟨h, .expressRead station⟩)

/-- R21: STATION_COUNTERS reports and optionally clears the counters. -/
def execStationCounters (h : Hdr) (station : Nat) (reset : Bool) (s : State) : Out :=
  .next (s.receiveRequest ⟨h, .stationCounters station reset⟩)

/-- R47: LANE_WRITE replaces a lane's configuration. -/
def execLaneWrite (h : Hdr) (lane : Nat) (cfg : LaneCfg) (s : State) : Out :=
  .next (s.receiveRequest ⟨h, .laneWrite lane cfg⟩)

/-- R66: LANE_SERVICE_OFF takes a lane out of service. -/
def execLaneServiceOff (h : Hdr) (lane : Nat) (s : State) : Out :=
  .next (s.receiveRequest ⟨h, .laneService lane false⟩)

/-- R67: LANE_SERVICE_ON returns a lane to service. -/
def execLaneServiceOn (h : Hdr) (lane : Nat) (s : State) : Out :=
  .next (s.receiveRequest ⟨h, .laneService lane true⟩)

/-- R51, R68: ZONE_WRITE replaces a zone's configuration. -/
def execZoneWrite (h : Hdr) (zone : Nat) (cfg : ZoneCfg) (s : State) : Out :=
  .next (s.receiveRequest ⟨h, .zoneWrite zone cfg⟩)

/-- R72: ZONE_READ reports a zone. -/
def execZoneRead (h : Hdr) (zone : Nat) (s : State) : Out :=
  .next (s.receiveRequest ⟨h, .zoneRead zone⟩)

/-- R74: BLOWER_WRITE replaces a blower's configuration. -/
def execBlowerWrite (h : Hdr) (blower : Nat) (cfg : BlowerCfg) (s : State) : Out :=
  .next (s.receiveRequest ⟨h, .blowerWrite blower cfg⟩)

/-- R84: BLOWER_READ reports a blower and the pool. -/
def execBlowerRead (h : Hdr) (blower : Nat) (s : State) : Out :=
  .next (s.receiveRequest ⟨h, .blowerRead blower⟩)

/-- R82: BLOWER_LOCKOUT_ON locks a blower out. -/
def execBlowerLockoutOn (h : Hdr) (blower : Nat) (s : State) : Out :=
  .next (s.receiveRequest ⟨h, .blowerLockout blower true⟩)

/-- R82: BLOWER_LOCKOUT_OFF ends a lockout. -/
def execBlowerLockoutOff (h : Hdr) (blower : Nat) (s : State) : Out :=
  .next (s.receiveRequest ⟨h, .blowerLockout blower false⟩)

/-- R83: BLOWER_RESET resets a tripped blower. -/
def execBlowerReset (h : Hdr) (blower : Nat) (s : State) : Out :=
  .next (s.receiveRequest ⟨h, .blowerReset blower⟩)

/-- R87: POOL_WRITE replaces the pool configuration. -/
def execPoolWrite (h : Hdr) (cfg : PoolCfg) (s : State) : Out :=
  .next (s.receiveRequest ⟨h, .poolWrite cfg⟩)

/-- R86: DUTY_ORDER replaces the duty order. -/
def execDutyOrder (h : Hdr) (order : List Nat) (s : State) : Out :=
  .next (s.receiveRequest ⟨h, .dutyOrder order⟩)

/-- R86: DUTY_ROTATE moves the head of the duty order to its tail. -/
def execDutyRotate (h : Hdr) (s : State) : Out :=
  .next (s.receiveRequest ⟨h, .dutyRotate⟩)

/-- R105: GRANTS_READ reports the allocation. -/
def execGrantsRead (h : Hdr) (s : State) : Out :=
  .next (s.receiveRequest ⟨h, .grantsRead⟩)

/-- R108: CHANNEL_WRITE replaces a channel's configuration. -/
def execChannelWrite (h : Hdr) (channel : Nat) (cfg : ChannelCfg) (s : State) : Out :=
  .next (s.receiveRequest ⟨h, .channelWrite channel cfg⟩)

/-- R112: CHANNEL_START starts a channel. -/
def execChannelStart (h : Hdr) (channel : Nat) (s : State) : Out :=
  .next (s.receiveRequest ⟨h, .channelStart channel⟩)

/-- R113: CHANNEL_STOP stops a channel. -/
def execChannelStop (h : Hdr) (channel : Nat) (s : State) : Out :=
  .next (s.receiveRequest ⟨h, .channelStop channel⟩)

/-- R124: CHANNEL_READ reports a channel. -/
def execChannelRead (h : Hdr) (channel : Nat) (s : State) : Out :=
  .next (s.receiveRequest ⟨h, .channelRead channel⟩)

/-- R121: PAIR_SET joins or parts a pair. -/
def execPairSet (h : Hdr) (pair : Nat) (join : Bool) (s : State) : Out :=
  .next (s.receiveRequest ⟨h, .pairSet pair join⟩)

/-- R122: DUTY_SWAP moves a pair's duty. -/
def execDutySwap (h : Hdr) (pair : Nat) (s : State) : Out :=
  .next (s.receiveRequest ⟨h, .dutySwap pair⟩)

/-- R127: STORM_WRITE replaces the storm configuration. -/
def execStormWrite (h : Hdr) (cfg : StormCfg) (s : State) : Out :=
  .next (s.receiveRequest ⟨h, .stormWrite cfg⟩)

/-- R131: STORM_FORCE sets the force. -/
def execStormForce (h : Hdr) (force : Coded Force) (s : State) : Out :=
  .next (s.receiveRequest ⟨h, .stormForce force⟩)

/-- R134: STORM_READ reports the storm monitor. -/
def execStormRead (h : Hdr) (s : State) : Out :=
  .next (s.receiveRequest ⟨h, .stormRead⟩)

/-- R137 to R139: HAND_DRIVE creates or refreshes a hand passage. -/
def execHandDrive (h : Hdr) (kind : Coded HandKind) (index : Nat) (command : Coded Command) (value : Nat)
    (timeout : Coded TimeoutCode) (s : State) : Out :=
  .next (s.receiveRequest ⟨h, .handDrive kind index command value timeout⟩)

/-- R141: HAND_RELEASE ends a hand passage. -/
def execHandRelease (h : Hdr) (kind : Coded HandKind) (index : Nat) (s : State) : Out :=
  .next (s.receiveRequest ⟨h, .handRelease kind index⟩)

/-- R145: HAND_READ reports the hand passage table. -/
def execHandRead (h : Hdr) (s : State) : Out :=
  .next (s.receiveRequest ⟨h, .handRead⟩)

/-- R159: ALARM_LIST reports records of the alarm list. -/
def execAlarmList (h : Hdr) (start : Nat) (s : State) : Out :=
  .next (s.receiveRequest ⟨h, .alarmList start⟩)

/-- R154: ALARM_ACK acknowledges a record. -/
def execAlarmAck (h : Hdr) (code : Coded AlarmCode) (sourceKind sourceIndex : Nat) (s : State) : Out :=
  .next (s.receiveRequest ⟨h, .alarmAck code sourceKind sourceIndex⟩)

/-- R155: ALARM_ACK_CLASS acknowledges every record of a class. -/
def execAlarmAckClass (h : Hdr) (cls : Coded AlarmClass) (s : State) : Out :=
  .next (s.receiveRequest ⟨h, .alarmAckClass cls⟩)

/-- R162: SILENCE silences the horn. -/
def execSilence (h : Hdr) (s : State) : Out :=
  .next (s.receiveRequest ⟨h, .silence⟩)

/-- R160: CLASS_MAP_WRITE replaces the class map. -/
def execClassMapWrite (h : Hdr) (lines : LineMap) (classes : List (Coded AlarmClass)) (s : State) : Out :=
  .next (s.receiveRequest ⟨h, .classMapWrite lines classes⟩)

/-- R163: ESCALATION_WRITE sets the escalation time. -/
def execEscalationWrite (h : Hdr) (minutes : Nat) (s : State) : Out :=
  .next (s.receiveRequest ⟨h, .escalationWrite minutes⟩)

/-- R175: SAVE begins a save. -/
def execSave (h : Hdr) (s : State) : Out :=
  .next (s.receiveRequest ⟨h, .save⟩)

/-- R177: RESTART takes a restart. -/
def execRestart (h : Hdr) (s : State) : Out :=
  .next (s.receiveRequest ⟨h, .restart⟩)

end Sys2Proof.Machine
end

