-- ==== Sys2Proof/Machine/Dispatch.lean ====
section
/-! DEFINITION. One arm per command: each calls its meaning. -/

namespace Sys2Proof.Machine

open Sys2Proof

def exec (i : Instr) (s : State) : Host.Outcome State Fault Refusal :=
  match i with
  | .powerOn straps fast => Sys2Proof.Machine.execPowerOn straps fast s
  | .resetPin straps fast => Sys2Proof.Machine.execResetPin straps fast s
  | .saveWriteComplete readsBackValid => Sys2Proof.Machine.execSaveWriteComplete readsBackValid s
  | .plantFrameReceived chars => Sys2Proof.Machine.execPlantFrameReceived chars s
  | .plantFrameSent => Sys2Proof.Machine.execPlantFrameSent s
  | .framingIdleTimeout link => Sys2Proof.Machine.execFramingIdleTimeout link s
  | .pollSent => Sys2Proof.Machine.execPollSent s
  | .fieldFrameReceived chars => Sys2Proof.Machine.execFieldFrameReceived chars s
  | .answerWindowExpiry => Sys2Proof.Machine.execAnswerWindowExpiry s
  | .roundTimerExpiry => Sys2Proof.Machine.execRoundTimerExpiry s
  | .staleTimerExpiry point => Sys2Proof.Machine.execStaleTimerExpiry point s
  | .trimTimerExpiry zone => Sys2Proof.Machine.execTrimTimerExpiry zone s
  | .startGraceExpiry lane => Sys2Proof.Machine.execStartGraceExpiry lane s
  | .rampTimeElapsed blower => Sys2Proof.Machine.execRampTimeElapsed blower s
  | .rampTimerExpiry blower => Sys2Proof.Machine.execRampTimerExpiry blower s
  | .runDownEnd blower => Sys2Proof.Machine.execRunDownEnd blower s
  | .allocationTimerExpiry => Sys2Proof.Machine.execAllocationTimerExpiry s
  | .pauseLimitExpiry channel => Sys2Proof.Machine.execPauseLimitExpiry channel s
  | .entryConfirmExpiry => Sys2Proof.Machine.execEntryConfirmExpiry s
  | .holdTimerExpiry => Sys2Proof.Machine.execHoldTimerExpiry s
  | .exitConfirmExpiry => Sys2Proof.Machine.execExitConfirmExpiry s
  | .deadlineExpiry target => Sys2Proof.Machine.execDeadlineExpiry target s
  | .escalationExpiry code source => Sys2Proof.Machine.execEscalationExpiry code source s
  | .malformedRequest h code => Sys2Proof.Machine.execMalformedRequest h code s
  | .identify h => Sys2Proof.Machine.execIdentify h s
  | .mapWrite h station addr role legacy alarm => Sys2Proof.Machine.execMapWrite h station addr role legacy alarm s
  | .mapRead h station => Sys2Proof.Machine.execMapRead h station s
  | .mapClear h station => Sys2Proof.Machine.execMapClear h station s
  | .groupWrite h group members answering => Sys2Proof.Machine.execGroupWrite h group members answering s
  | .pointWrite h point cfg => Sys2Proof.Machine.execPointWrite h point cfg s
  | .pointRead h point => Sys2Proof.Machine.execPointRead h point s
  | .rosterLoad h entries => Sys2Proof.Machine.execRosterLoad h entries s
  | .rosterRead h => Sys2Proof.Machine.execRosterRead h s
  | .lineWrite h line => Sys2Proof.Machine.execLineWrite h line s
  | .expressRead h station => Sys2Proof.Machine.execExpressRead h station s
  | .stationCounters h station reset => Sys2Proof.Machine.execStationCounters h station reset s
  | .laneWrite h lane cfg => Sys2Proof.Machine.execLaneWrite h lane cfg s
  | .laneServiceOff h lane => Sys2Proof.Machine.execLaneServiceOff h lane s
  | .laneServiceOn h lane => Sys2Proof.Machine.execLaneServiceOn h lane s
  | .zoneWrite h zone cfg => Sys2Proof.Machine.execZoneWrite h zone cfg s
  | .zoneRead h zone => Sys2Proof.Machine.execZoneRead h zone s
  | .blowerWrite h blower cfg => Sys2Proof.Machine.execBlowerWrite h blower cfg s
  | .blowerRead h blower => Sys2Proof.Machine.execBlowerRead h blower s
  | .blowerLockoutOn h blower => Sys2Proof.Machine.execBlowerLockoutOn h blower s
  | .blowerLockoutOff h blower => Sys2Proof.Machine.execBlowerLockoutOff h blower s
  | .blowerReset h blower => Sys2Proof.Machine.execBlowerReset h blower s
  | .poolWrite h cfg => Sys2Proof.Machine.execPoolWrite h cfg s
  | .dutyOrder h order => Sys2Proof.Machine.execDutyOrder h order s
  | .dutyRotate h => Sys2Proof.Machine.execDutyRotate h s
  | .grantsRead h => Sys2Proof.Machine.execGrantsRead h s
  | .channelWrite h channel cfg => Sys2Proof.Machine.execChannelWrite h channel cfg s
  | .channelStart h channel => Sys2Proof.Machine.execChannelStart h channel s
  | .channelStop h channel => Sys2Proof.Machine.execChannelStop h channel s
  | .channelRead h channel => Sys2Proof.Machine.execChannelRead h channel s
  | .pairSet h pair join => Sys2Proof.Machine.execPairSet h pair join s
  | .dutySwap h pair => Sys2Proof.Machine.execDutySwap h pair s
  | .stormWrite h cfg => Sys2Proof.Machine.execStormWrite h cfg s
  | .stormForce h force => Sys2Proof.Machine.execStormForce h force s
  | .stormRead h => Sys2Proof.Machine.execStormRead h s
  | .handDrive h kind index command value timeout => Sys2Proof.Machine.execHandDrive h kind index command value timeout s
  | .handRelease h kind index => Sys2Proof.Machine.execHandRelease h kind index s
  | .handRead h => Sys2Proof.Machine.execHandRead h s
  | .alarmList h start => Sys2Proof.Machine.execAlarmList h start s
  | .alarmAck h code sourceKind sourceIndex => Sys2Proof.Machine.execAlarmAck h code sourceKind sourceIndex s
  | .alarmAckClass h cls => Sys2Proof.Machine.execAlarmAckClass h cls s
  | .silence h => Sys2Proof.Machine.execSilence h s
  | .classMapWrite h lines classes => Sys2Proof.Machine.execClassMapWrite h lines classes s
  | .escalationWrite h minutes => Sys2Proof.Machine.execEscalationWrite h minutes s
  | .save h => Sys2Proof.Machine.execSave h s
  | .restart h => Sys2Proof.Machine.execRestart h s

end Sys2Proof.Machine
end

