-- ==== Sys2Proof/WellFormed.lean ====
section
/-! DEFINITION. Which commands are well formed: every operand fits the bytes chapter 11 gives it (R179, Tables 69 and 70),
every event names something the part has. A request out of the range its own rule sets is still well formed: the rule
answers it (R168). The meanings hold for every command. Well-formedness says which commands a link or a timer can make. -/

namespace Sys2Proof

/-- Fits one byte. -/
def fits8 (n : Nat) : Bool := n < 256

/-- Fits two bytes. -/
def fits16 (n : Nat) : Bool := n < 65536

/-- Fits two bytes as a signed figure. -/
def fitsS16 (n : Int) : Bool := -32768 ≤ n && n ≤ 32767

/-- A named choice that one byte can carry, where the list has `count` members: an unlisted code lies past the list. -/
def Coded.wf {α : Type} (count : Nat) : Coded α → Bool
  | .val _ => true
  | .unlisted code => count ≤ code && fits8 code

/-- An absent field, or one that fits. -/
def optWf {α : Type} (p : α → Bool) : Option α → Bool
  | none => true
  | some a => p a

/-- A target that the one byte of Table 70 can carry: 0..47 a station, 48 and above a group. -/
def Target.wf : Target → Bool
  | .station i => i < 48
  | .group g => g < 208

/-- A roster entry that Table 70 can carry. -/
def RosterEntry.wf (e : RosterEntry) : Bool :=
  e.target.wf && (e.divisor == 1 || e.divisor == 2 || e.divisor == 4 || e.divisor == 8) && decide (e.phase < 8)

def PointCfg.wf (c : PointCfg) : Bool :=
  optWf (fun p : PointSource => fits8 p.station && fits8 p.channel) c.source && c.kind.wf 9 && fits16 c.numerator
    && fits16 c.denominator && fitsS16 c.offset && fits16 c.low && fits16 c.high && fits16 c.staleLimit
    && c.forward.wf 3 && fits16 c.band

def LaneCfg.wf (c : LaneCfg) : Bool :=
  optWf fits8 c.ammoniaPoint && fits16 c.spLow && fits16 c.spMid && fits16 c.spHigh && fits16 c.spStorm
    && fits16 c.thresholdA && fits16 c.thresholdB && fits16 c.hysteresis && fits16 c.startGrace

def ZoneCfg.wf (c : ZoneCfg) : Bool :=
  fits8 c.doPoint && c.valve.wf && optWf fits8 c.feedback && fitsS16 c.offset && fits16 c.deadband && fits16 c.gain
    && fits16 c.maxStep && fits16 c.minPos && fits16 c.maxPos && fits16 c.fallbackPos && fits16 c.fullOpenAir
    && fits16 c.mixingFloor && fits8 c.priorityClass && c.release.wf 2 && fits16 c.trimPeriod && fits16 c.doLowBand
    && fits16 c.doLowDelay

def BlowerCfg.wf (c : BlowerCfg) : Bool :=
  fits8 c.station && fits8 c.runPoint && fits16 c.rated && fits16 c.turndown && fits16 c.rampTime
    && fits16 c.runDownTime && fits16 c.minRun && fits16 c.minStop

def PoolCfg.wf (c : PoolCfg) : Bool :=
  fits16 c.upFraction && fits16 c.upDelay && fits16 c.downFraction && fits16 c.downDelay && fits16 c.minNormal
    && fits16 c.minStorm && optWf fits8 c.pressurePoint && fits16 c.pressureHigh && fits16 c.pressureLow
    && fits16 c.allocationPeriod && c.policy.wf 2

def ChannelCfg.wf (c : ChannelCfg) : Bool :=
  c.mode.wf 3 && fits8 c.pump && fits8 c.volumePoint && optWf fits8 c.levelPoint && fits16 c.minLevel
    && fits16 c.pauseLimit && optWf fits8 c.influentPoint && fits16 c.target && fits16 c.ratio && fits16 c.stormRatio

def StormCfg.wf (c : StormCfg) : Bool :=
  optWf fits8 c.influentPoint && fits16 c.entryThreshold && fits16 c.exitThreshold && fits16 c.entryConfirm
    && fits16 c.exitConfirm && fits16 c.minimumHold

/-- The codes of 10.2 run from 1 to 44 (chapter 11.2). -/
def knownCode (code : Byte) : Bool := 1 ≤ code.toNat && code.toNat ≤ 44

/-- The requests with a flag or presence byte, by code: only of these can a value be unreadable (notes/assumptions/8.md). -/
def flaggedCode (code : Byte) : Bool :=
  [2, 5, 6, 12, 13, 14, 15, 17, 19, 21, 25, 29, 31].contains code.toNat

/-- Can the payload of a REQUEST carry this request? -/
def Req.wf : Req → Bool
  | .malformed _ => true
  | .unreadableValue code => flaggedCode code
  | .mapWrite station addr role _ _ => fits8 station && fits16 addr && role.wf 4
  | .groupWrite group members answering =>
      fits8 group && decide (members.length ≤ 235) && members.all fits8 && optWf fits8 answering
  | .pointWrite point cfg => fits8 point && cfg.wf
  | .rosterLoad entries => decide (entries.length ≤ 119) && entries.all RosterEntry.wf
  | .lineWrite line => fits16 line.window && fits16 line.retries && fits16 line.lostThreshold && fits16 line.roundPeriod
  | .laneWrite lane cfg => fits8 lane && cfg.wf
  | .zoneWrite zone cfg => fits8 zone && cfg.wf
  | .blowerWrite blower cfg => fits8 blower && cfg.wf
  | .poolWrite cfg => cfg.wf
  | .dutyOrder order => decide (order.length ≤ 238) && order.all fits8
  | .channelWrite channel cfg => fits8 channel && cfg.wf
  | .stormWrite cfg => cfg.wf
  | .stormForce force => force.wf 3
  | .handDrive kind index command value timeout =>
      kind.wf 2 && fits8 index && command.wf 3 && fits16 value && timeout.wf 4
  | .handRelease kind index => kind.wf 2 && fits8 index
  | .alarmList start => fits16 start
  | .alarmAck code kind index => code.wf 23 && fits8 kind && fits8 index
  | .alarmAckClass cls => cls.wf 4
  | .classMapWrite _ classes => decide (classes.length = 23) && classes.all (Coded.wf 4)
  | .escalationWrite minutes => fits16 minutes
  | .mapRead i | .mapClear i | .pointRead i | .expressRead i | .zoneRead i | .blowerRead i | .blowerReset i
  | .channelStart i | .channelStop i | .channelRead i | .dutySwap i => fits8 i
  | .stationCounters i _ | .laneService i _ | .blowerLockout i _ | .pairSet i _ => fits8 i
  | .identify | .rosterRead | .dutyRotate | .grantsRead | .stormRead | .handRead | .silence | .save | .restart => true

/-- A frame as the framing of R180 can deliver it: at least its envelope, at most the longest frame of its link. A longer
frame never becomes whole: it is rejected while it is being received. -/
def frameWf (shortest longest : Nat) (chars : List Byte) : Bool :=
  decide (shortest ≤ chars.length) && decide (chars.length ≤ longest)

/-- Well-formed commands. -/
def Instr.wf : Instr → Bool
  | .powerOn _ _ | .resetPin _ _ | .saveWriteComplete _ | .plantFrameSent | .framingIdleTimeout _ | .pollSent
  | .answerWindowExpiry | .roundTimerExpiry | .allocationTimerExpiry | .entryConfirmExpiry | .holdTimerExpiry
  | .exitConfirmExpiry => true
  | .plantFrameReceived chars => frameWf 8 248 chars
  | .fieldFrameReceived chars => frameWf 4 44 chars
  | .staleTimerExpiry p => p < 128
  | .trimTimerExpiry z => z < 24
  | .startGraceExpiry l => l < 6
  | .rampTimeElapsed b | .rampTimerExpiry b | .runDownEnd b => b < 6
  | .pauseLimitExpiry c => c < 4
  | .deadlineExpiry t => t.wf
  | .escalationExpiry code src => src.validFor code
  | .malformedRequest _ _ => true
  | .identify _ | .rosterRead _ | .dutyRotate _ | .grantsRead _ | .stormRead _ | .handRead _ | .silence _ | .save _
  | .restart _ => true
  | .mapWrite _ station addr role l a => (Req.mapWrite station addr role l a).wf
  | .groupWrite _ g m a => (Req.groupWrite g m a).wf
  | .pointWrite _ p c => (Req.pointWrite p c).wf
  | .rosterLoad _ es => (Req.rosterLoad es).wf
  | .lineWrite _ l => (Req.lineWrite l).wf
  | .laneWrite _ l c => (Req.laneWrite l c).wf
  | .zoneWrite _ z c => (Req.zoneWrite z c).wf
  | .blowerWrite _ b c => (Req.blowerWrite b c).wf
  | .poolWrite _ c => (Req.poolWrite c).wf
  | .dutyOrder _ o => (Req.dutyOrder o).wf
  | .channelWrite _ i c => (Req.channelWrite i c).wf
  | .stormWrite _ c => (Req.stormWrite c).wf
  | .stormForce _ f => (Req.stormForce f).wf
  | .handDrive _ k i c v t => (Req.handDrive k i c v t).wf
  | .handRelease _ k i => (Req.handRelease k i).wf
  | .alarmList _ i => (Req.alarmList i).wf
  | .alarmAck _ c k i => (Req.alarmAck c k i).wf
  | .alarmAckClass _ c => (Req.alarmAckClass c).wf
  | .classMapWrite _ l c => (Req.classMapWrite l c).wf
  | .escalationWrite _ m => (Req.escalationWrite m).wf
  | .mapRead _ i | .mapClear _ i | .pointRead _ i | .expressRead _ i | .zoneRead _ i | .blowerRead _ i
  | .blowerReset _ i | .channelStart _ i | .channelStop _ i | .channelRead _ i | .dutySwap _ i
  | .laneServiceOff _ i | .laneServiceOn _ i | .blowerLockoutOn _ i | .blowerLockoutOff _ i => fits8 i
  | .stationCounters _ i _ | .pairSet _ i _ => fits8 i

end Sys2Proof
end

