-- ==== Sys2Proof/Safety.lean ====
section
/-! DEFINITION. What stays true of the part (`Safe`), what its configuration is, and the vocabulary the statements are written
in: which request a command stands for, when the plant port takes it at once, and what answering it adds. -/

namespace Sys2Proof

/-- The request a command stands for, with its header; none for an event. -/
def Instr.request : Instr → Option Request
  | .malformedRequest h code => some ⟨h, .malformed code⟩
  | .identify h => some ⟨h, .identify⟩
  | .mapWrite h st addr role legacy alarm => some ⟨h, .mapWrite st addr role legacy alarm⟩
  | .mapRead h st => some ⟨h, .mapRead st⟩
  | .mapClear h st => some ⟨h, .mapClear st⟩
  | .groupWrite h g members answering => some ⟨h, .groupWrite g members answering⟩
  | .pointWrite h p cfg => some ⟨h, .pointWrite p cfg⟩
  | .pointRead h p => some ⟨h, .pointRead p⟩
  | .rosterLoad h entries => some ⟨h, .rosterLoad entries⟩
  | .rosterRead h => some ⟨h, .rosterRead⟩
  | .lineWrite h line => some ⟨h, .lineWrite line⟩
  | .expressRead h st => some ⟨h, .expressRead st⟩
  | .stationCounters h st reset => some ⟨h, .stationCounters st reset⟩
  | .laneWrite h l cfg => some ⟨h, .laneWrite l cfg⟩
  | .laneServiceOff h l => some ⟨h, .laneService l false⟩
  | .laneServiceOn h l => some ⟨h, .laneService l true⟩
  | .zoneWrite h z cfg => some ⟨h, .zoneWrite z cfg⟩
  | .zoneRead h z => some ⟨h, .zoneRead z⟩
  | .blowerWrite h b cfg => some ⟨h, .blowerWrite b cfg⟩
  | .blowerRead h b => some ⟨h, .blowerRead b⟩
  | .blowerLockoutOn h b => some ⟨h, .blowerLockout b true⟩
  | .blowerLockoutOff h b => some ⟨h, .blowerLockout b false⟩
  | .blowerReset h b => some ⟨h, .blowerReset b⟩
  | .poolWrite h cfg => some ⟨h, .poolWrite cfg⟩
  | .dutyOrder h order => some ⟨h, .dutyOrder order⟩
  | .dutyRotate h => some ⟨h, .dutyRotate⟩
  | .grantsRead h => some ⟨h, .grantsRead⟩
  | .channelWrite h c cfg => some ⟨h, .channelWrite c cfg⟩
  | .channelStart h c => some ⟨h, .channelStart c⟩
  | .channelStop h c => some ⟨h, .channelStop c⟩
  | .channelRead h c => some ⟨h, .channelRead c⟩
  | .pairSet h k join => some ⟨h, .pairSet k join⟩
  | .dutySwap h k => some ⟨h, .dutySwap k⟩
  | .stormWrite h cfg => some ⟨h, .stormWrite cfg⟩
  | .stormForce h force => some ⟨h, .stormForce force⟩
  | .stormRead h => some ⟨h, .stormRead⟩
  | .handDrive h kind index command value timeout => some ⟨h, .handDrive kind index command value timeout⟩
  | .handRelease h kind index => some ⟨h, .handRelease kind index⟩
  | .handRead h => some ⟨h, .handRead⟩
  | .alarmList h start => some ⟨h, .alarmList start⟩
  | .alarmAck h code kind index => some ⟨h, .alarmAck code kind index⟩
  | .alarmAckClass h cls => some ⟨h, .alarmAckClass cls⟩
  | .silence h => some ⟨h, .silence⟩
  | .classMapWrite h lines classes => some ⟨h, .classMapWrite lines classes⟩
  | .escalationWrite h minutes => some ⟨h, .escalationWrite minutes⟩
  | .save h => some ⟨h, .save⟩
  | .restart h => some ⟨h, .restart⟩
  | .powerOn .. | .resetPin .. | .saveWriteComplete _ | .plantFrameReceived _ | .plantFrameSent | .framingIdleTimeout _
  | .pollSent | .fieldFrameReceived _ | .answerWindowExpiry | .roundTimerExpiry | .staleTimerExpiry _
  | .trimTimerExpiry _ | .startGraceExpiry _ | .rampTimeElapsed _ | .rampTimerExpiry _ | .runDownEnd _
  | .allocationTimerExpiry | .pauseLimitExpiry _ | .entryConfirmExpiry | .holdTimerExpiry | .exitConfirmExpiry
  | .deadlineExpiry _ | .escalationExpiry _ _ => none

/-- An event that neither starts the part, ends a save, nor moves a plant frame: an event of the field line or of a timer. -/
def Instr.isPlantEvent : Instr → Bool
  | .framingIdleTimeout _ | .pollSent | .fieldFrameReceived _ | .answerWindowExpiry | .roundTimerExpiry
  | .staleTimerExpiry _ | .trimTimerExpiry _ | .startGraceExpiry _ | .rampTimeElapsed _ | .rampTimerExpiry _
  | .runDownEnd _ | .allocationTimerExpiry | .pauseLimitExpiry _ | .entryConfirmExpiry | .holdTimerExpiry
  | .exitConfirmExpiry | .deadlineExpiry _ | .escalationExpiry _ _ => true
  | _ => false

end Sys2Proof

namespace Sys2Proof.Machine

open Sys2Proof

/-! ### Configuration -/

/-- The configuration of R174 less what the blocks move by themselves: the active roster (R2) and the duty selections
(R119). -/
def State.config (s : State) : Settings :=
  { s.settings with roster := [], pairs := s.pairs.map fun (p : Pair) => ⟨p.joined, .first⟩ }

/-- The banks have the sizes of 00_scope.md. -/
def Settings.sized (c : Settings) : Prop :=
  c.stations.length = 48 ∧ c.groups.length = 8 ∧ c.points.length = 128 ∧ c.lanes.length = 6 ∧ c.zones.length = 24
    ∧ c.blowers.length = 6 ∧ c.channels.length = 4 ∧ c.pairs.length = 2

/-! ### The invariant -/

/-- R147, R148: the alarm list. -/
structure Alarms.Bounded (a : Alarms) : Prop where
  atMost64 : a.records.length ≤ 64
  oneEach : a.records.Pairwise fun x y => x.is y.code y.source = false
  counts : ∀ r ∈ a.records, 1 ≤ r.count ∧ r.count ≤ 255

/-- The queues every block offers to, and the hand passage table: R13, R136, R170, R172. -/
structure State.QueuesHold (s : State) : Prop where
  notices : s.port.notices.length ≤ 32
  express : s.flc.express.length ≤ 8
  expressOnce : s.flc.express.Pairwise fun a b => a.same b = false
  forward : s.port.forward.length ≤ 16
  forwardOnce : (s.port.forward.map PendingPoint.point).Nodup
  alarms : s.alarms.Bounded

/-- R136: at most eight passages, no two with one target. -/
structure State.HandHolds (s : State) : Prop where
  passages : s.hand.length ≤ 8
  oneEach : (s.hand.map Passage.target).Nodup

/-- R166, R167: the request queue, and the reply list with the place a save's reply needs. -/
structure Port.Holds (p : Port) : Prop where
  requests : p.requests.length ≤ 4
  replies : p.replies.length ≤ 8
  saveFinds : p.save.isSome → p.replies.length ≤ 7

/-- R108, R121: no two configured channels name one pump station, and the upper channel of a joined pair is configured. -/
structure Settings.PumpsApart (c : Settings) : Prop where
  own : ∀ i < 4, ∀ j < 4, i ≠ j → (c.channels.getD i .blank).configured = true →
    (c.channels.getD j .blank).configured = true → (c.channels.getD i .blank).pump ≠ (c.channels.getD j .blank).pump
  joined : ∀ k < 2, (c.pairs.getD k ⟨false, .first⟩).joined = true →
    (c.channels.getD (2 * k + 1) .blank).configured = true

/-- R110, R138: at most one of the two pumps of a paired channel is commanded RUN, hand passages included. -/
def State.OnePumpRuns (s : State) : Prop :=
  ∀ k < 2, (s.pair k).joined = true → (s.channel (2 * k)).cfg.configured = true →
    ¬ (s.pumpCommandedRun (s.channel (2 * k)).cfg.pump = true ∧ s.pumpCommandedRun (s.channel (2 * k + 1)).cfg.pump = true)

/-- R77: at most one blower is in STARTING. -/
def State.OneStarts (s : State) : Prop :=
  ∀ a < 6, ∀ b < 6, (s.blower a).starting = true → (s.blower b).starting = true → a = b

/-- R108: a configured channel has a target to load. -/
def Settings.TargetsHold (c : Settings) : Prop :=
  ∀ i < 4, (c.channels.getD i .blank).configured = true → 1 ≤ (c.channels.getD i .blank).target

/-- R115: with `sum` the targets of the cycles completed since the last START, counted is that sum, plus the current target less
remaining, plus the overshoot of a BATCH end, modulo 2³²; and remaining does not exceed the target. -/
def Channel.Metered (x : Channel) (sum : Nat) : Prop :=
  (x.counted + x.remaining) % 4294967296 = (sum + x.target + x.overshoot) % 4294967296 ∧ x.remaining ≤ x.target

/-- R111, R115: what the figures of a channel say of one another between its START and its next DISABLED. In its first cycle no target
is completed. A BATCH has no second one. In CYCLE mode every cycle has the configured target, so the completed targets are known as
long as the count of cycles has not reached the value it holds at. -/
structure Channel.Counts (x : Channel) : Prop where
  within : x.remaining ≤ x.target
  started : x.state ≠ .disabled → x.overshoot = 0 ∧ 1 ≤ x.remaining ∧ 1 ≤ x.cfg.target
  first : x.state ≠ .disabled → x.cycles = 0 → x.Metered 0
  batch : x.state ≠ .disabled → x.cfg.mode = .val .batch → x.cycles = 0 ∧ x.target = x.cfg.target
  cycle : x.state ≠ .disabled → x.cfg.mode = .val .cycle →
    x.target = x.cfg.target ∧ (x.cycles < 65535 → x.Metered (x.cycles * x.target))

/-- What every command and every second keeps. -/
structure Safe (s : State) : Prop where
  banks : s.settings.sized
  image : s.port.image.sized
  snapshot : ∀ x, s.port.save = some x → x.snapshot.sized
  queues : s.QueuesHold
  hand : s.HandHolds
  port : s.port.Holds
  pumps : s.settings.PumpsApart
  imagePumps : s.port.image.PumpsApart
  snapshotPumps : ∀ x, s.port.save = some x → x.snapshot.PumpsApart
  onePumpRuns : s.OnePumpRuns
  oneStarts : s.OneStarts
  targets : s.settings.TargetsHold
  imageTargets : s.port.image.TargetsHold
  snapshotTargets : ∀ x, s.port.save = some x → x.snapshot.TargetsHold
  counts : ∀ c < 4, (s.channel c).Counts

/-! ### Grants -/

/-- The sum of the grants of the 24 zones (R102). -/
def State.grantSum (s : State) : Nat := ((List.range 24).map fun z => (s.zone z).grant).sum

/-- R102, R94: the two laws of the grants. Together they lie within the supply figure, and a zone that is OFF or WAITING is granted
no more than its mixing floor, in OFF nothing. Before the pool settles no grant stands, the supply figure is not yet shared and no
pass is due. -/
structure State.GrantsHold (s : State) : Prop where
  within : s.grantSum ≤ s.pool.supply
  off : ∀ z < 24, (s.zone z).mode = .off → (s.zone z).grant = 0
  waiting : ∀ z < 24, (s.zone z).mode = .waiting → (s.zone z).grant ≤ (s.zone z).cfg.mixingFloor
  unsettled : s.pool.settled = false → s.grantSum = 0 ∧ s.pool.allocDeadline = none

/-! ### Starts -/

/-- The configuration that a start loads from an image (R176), as `State.config` shows it. -/
def Settings.active (c : Settings) : Settings :=
  { c with roster := [], pairs := c.pairs.map fun (p : Pair) => ⟨p.joined, .first⟩ }

/-- The blower's record in an image, with its lockout flag. -/
def Settings.blowerIn (img : Settings) (b : Nat) : Bool × BlowerCfg := img.blowers.getD b (false, .blank)

/-- R76, Table 33: the blower is configured and its station is not, so a start leaves it TRIPPED with cause LOST. -/
def Settings.tripsAtStart (img : Settings) (b : Nat) : Bool :=
  (img.blowerIn b).2.configured && !(img.stations.getD (img.blowerIn b).2.station .blank).configured

/-- R93: no configured blower is UNKNOWN after the start, so the pool settles at it. -/
def Settings.settlesAtStart (img : Settings) : Bool :=
  (List.range 6).all fun b => !(img.blowerIn b).2.configured || img.tripsAtStart b

/-- R63, Table 27: the zone is WAITING after a start. -/
def Settings.waitsAtStart (img : Settings) (z : Nat) : Bool :=
  (img.zones.getD z .blank).configured && (img.lanes.getD (z / 4) (false, .blank)).1

/-- R97: the mixing floors that a first pass at the start finds asked for. -/
def Settings.floorsAtStart (img : Settings) : Nat :=
  ((List.range 24).map fun z => if img.waitsAtStart z then (img.zones.getD z .blank).mixingFloor else 0).sum

/-- R1: the roster entry makes a turn in round 0. -/
def Settings.visitsAtStart (img : Settings) (e : RosterEntry) : Bool :=
  let pollable := fun i : Nat => (img.stations.getD i .blank).configured
  e.phase == 0 && match e.target with
    | .station i => pollable i
    | .group g => let x := img.groups.getD g .blank
      !x.members.isEmpty && x.answering.any pollable

/-- The alarms a start raises, with the value each carries: R49, R73, R76, R93, R98, R135, R176. -/
def Settings.raisesAtStart (img : Settings) (valid : Bool) (code : AlarmCode) (src : Source) : Option (Option Nat) :=
  let raised := fun (holds : Bool) (value : Option Nat) => if holds then some value else none
  match code, src with
  | .settingsInvalid, .works => raised (!valid) none
  | .laneAmmoniaInvalid, .lane l =>
    let x := img.lanes.getD l (false, .blank)
    raised (decide (l < 6) && x.1 && x.2.ammoniaPoint.isSome) none
  | .stormActive, .works => raised (img.force == .on) none
  | .influentInvalid, .works => raised img.storm.influentPoint.isSome none
  | .blowerLost, .blower b => raised (decide (b < 6) && img.tripsAtStart b) none
  | .airShort, .header => raised (img.settlesAtStart && decide (0 < img.floorsAtStart)) (some img.floorsAtStart)
  | _, _ => none

/-- The alarms a start clears, where it does not raise them: R3, R46, R73, R83, R98, R125, R135, R176. -/
def Settings.clearsAtStart (img : Settings) (code : AlarmCode) (src : Source) : Bool :=
  match code, src with
  | .settingsInvalid, .works | .stormActive, .works | .influentInvalid, .works => true
  | .laneAmmoniaInvalid, .lane l => decide (l < 6)
  | .blowerFault, .blower b | .blowerStartFail, .blower b => decide (b < 6) && img.tripsAtStart b
  | .airShort, .header => img.settlesAtStart
  | .pointStale, .point p | .pointSuspect, .point p | .pointKindMismatch, .point p =>
    decide (p < 128) && (img.points.getD p .blank).source.isNone
  | .zoneDoInvalid, .zone z | .zoneValveUnavailable, .zone z | .doLow, .zone z | .airLimited, .zone z =>
    decide (z < 24) && !img.waitsAtStart z
  | .channelNoPump, .channel c | .channelPausedLong, .channel c => decide (c < 4)
  | .roundOverrun, .fieldLine => img.roster.all fun e => !img.visitsAtStart e
  | _, _ => false

/-- The blocks after a start from an image: R24 (Table 12), R63 and R73 (Table 27), R76 and R93 (Table 33), R106 (Table 37), R123
and R125 (Table 45), R135 (Table 50). The pool settles at the start where no configured blower is UNKNOWN; its first pass then has
run, with a supply figure of 0. -/
structure State.StartedFrom (t : State) (img : Settings) : Prop where
  line : t.flc.line = img.line ∧ t.flc.roundTimer = some img.line.roundPeriod ∧ t.flc.round = 0 ∧ t.flc.staged = none
    ∧ t.flc.overruns = 0 ∧ t.flc.consecOverruns = 0 ∧ t.flc.express = [] ∧ t.flc.expressDrops = 0 ∧ t.flc.unsolicited = 0
  lanes : ∀ l < 6, let x := img.lanes.getD l (false, .blank)
    t.lane l =
      { inService := x.1, cfg := x.2, ammoniaBand := .high, ammoniaValid := false,
        activeBand := if x.2.stormFollow && img.force == .on then .storm
          else if x.2.ammoniaPoint.isNone then .mid else .high,
        graceDeadline := if x.1 then some (t.uptime + x.2.startGrace) else none, graceExpired := false }
  zones : ∀ z < 24, t.zone z =
    { cfg := img.zones.getD z .blank, mode := if img.waitsAtStart z then .waiting else .off, modeBeforeHand := .off,
      causes := ⟨false, false⟩, desired := 0, cap := 0, grant := 0, air := ⟨none, false⟩, doLow := ⟨none, false⟩,
      trimDeadline := none, trimCount := 0, skipCount := 0, lastModeChange := t.uptime }
  blowers : ∀ b < 6, t.blower b =
    { cfg := (img.blowerIn b).2, lockout := (img.blowerIn b).1, state := if img.tripsAtStart b then .tripped else .unknown,
      tripCause := if img.tripsAtStart b then some .lost else none, speed := 0, runStart := none, runEnd := none,
      rampDeadline := none, runDownDeadline := none, lastChange := t.uptime }
  pool : let settled := img.settlesAtStart
    t.pool =
      { cfg := img.pool, dutyOrder := img.dutyOrder, runList := [], supply := 0, stageUpSince := none, stageDownSince := none,
        settled := settled, firstPassDone := settled, pressureHigh := false, pressureLow := false,
        allocDeadline := if settled then some (t.uptime + img.pool.allocationPeriod) else none,
        passCount := if settled then 1 else 0, lastPass := if settled then some t.uptime else none,
        airShort := settled && decide (0 < img.floorsAtStart),
        figures := ⟨0, 0, if settled then img.floorsAtStart else 0, 0, 0⟩ }
  channels : ∀ c < 4, let cfg := img.channels.getD c .blank
    t.channel c =
      { cfg := cfg, state := .disabled, target := 0, remaining := 0, cycles := 0, counted := 0, overshoot := 0, lastMeter := none,
        pauseStart := none, pauseDeadline := none, accumulator := 0, lastInfluent := none,
        autoPending := cfg.configured && cfg.autoStart && !(c % 2 == 1 && (img.pairs.getD (c / 2) ⟨false, .first⟩).joined) }
  storm : t.storm =
    { cfg := img.storm, force := img.force, state := if img.force = .on then .storm else .normal, entryTimer := .stopped,
      holdTimer := .stopped, exitTimer := .stopped, holdExpired := false, influentValid := false, lastInfluent := none,
      lastChange := t.uptime }

/-- R164: the alarm list after a start is the one it had, `kept`, with the raises and clears of the start made on it. -/
def State.alarmsStartedFrom (t : State) (img : Settings) (valid : Bool) (kept : List AlarmRecord) : Prop :=
  let before := t.modAlarms fun a => { a with records := kept }
  t.alarms.silenced = false ∧ t.alarms.escalation = img.escalation ∧ t.alarms.lineMap = img.lineMap
    ∧ t.alarms.codeClasses = img.codeClasses
    ∧ ∀ code src, t.record code src = match img.raisesAtStart valid code src with
      | some value => (before.raiseAlarm code src value).record code src
      | none => (if img.clearsAtStart code src then before.clearAlarm code src else before).record code src

/-! ### Requests -/

/-- The port takes a request the moment it arrives: none waits, no RESTART has been taken, fewer than 7 replies stand
(R166). -/
def State.ready (s : State) : Prop := s.port.requests = [] ∧ s.port.restartTaken = false ∧ s.port.replies.length < 7

/-- The state a request's handling starts from: notices and readings now go to its source (R173). -/
def State.addressed (s : State) (h : Hdr) : State := s.modPort fun p => { p with address := h.src }

/-- The state after a handling that leaves `u` and is answered at once: the line arbiter, the annunciator, the reply, the
transmit arbiter (R16, R161, R167, R173). -/
def State.answered (u : State) (h : Hdr) (code : Nat) (status : Status) (report : List Byte) : State :=
  (u.lineArbiter.updateLines.addReply ⟨h.src, h.tag, code, status, report⟩).transmit

/-- R167, R173: between `s` and `t` the reply `r` has been formed. The transmitter of `s`, where it was free, carries the oldest
reply, and the others stand in the list of `t` in the order they were formed. -/
def State.replied (s t : State) (r : Reply) : Prop :=
  if s.port.tx.isSome then t.port.tx = s.port.tx ∧ t.port.replies = s.port.replies ++ [r]
  else t.port.tx = (s.port.replies ++ [r]).head?.map TxFrame.reply ∧ t.port.replies = (s.port.replies ++ [r]).tail

/-- The reply a request of header `h` and code `code` gets, with no report. -/
def bareReply (h : Hdr) (code : Nat) (status : Status) : Reply := ⟨h.src, h.tag, code, status, []⟩

end Sys2Proof.Machine
end

