-- ==== Sys2Proof/Certificates/Slice0/Obligations.lean ====
section
/-! DEFINITION. The statements for the provers. A request is stated for a port that takes it the moment it arrives
(`State.ready`, R166). What its handling leaves is then answered: `State.answered` is the line arbiter, the annunciator, the
reply and the transmit arbiter, and `AnswersKeepTheBlocks` says what that leaves alone. -/

section

open Sys2Proof Sys2Proof.Machine

/-! ### The block, its queue and its invariant -/

/-- A step takes the command at the front of the queue and runs it. -/
def Obligations.StepRunsTheFrontCommand : Prop :=
  ∀ (c : Instr) (rest : List Instr) (s : State), step { s with pending := c :: rest } = exec c { s with pending := rest }



/-- Every step keeps the part safe: the banks keep their sizes, the alarm list at most 64 records with no two of one code and
source (R147), the express queue at most 8 entries with no two of one target and kind (R13), the notice queue at most 32
(R170), the forward queue at most 16 with no point twice (R172), the hand table at most 8 with no two of one target (R136),
the request queue at most 4, the reply list at most 8 (R166, R167). No two configured channels name one pump, and a joined pair's
upper channel is configured (R108, R121). At most one blower is STARTING (R77), and at most one pump of a paired channel is
commanded RUN, by its channel or by hand (R110, R138). A configured channel has a target of at least 1 (R108), remaining lies within the
target, and between a START and the next DISABLED the figures obey the law of R115: counted is the sum of the completed targets plus the
target less remaining, where the completed targets are those the mode gives (none in a first cycle or a BATCH, the configured target
times the cycles in CYCLE; what a RATIO channel completes later is said reading by reading in ChannelsStartAndStop). -/
def Obligations.StepKeepsTheBounds : Prop :=
  ∀ s t : State, Safe s → step s = .next t → Safe t

/-- R102: the grants of the 24 zones together never exceed the supply figure, and a zone that is OFF or WAITING holds a grant no
larger than its mixing floor, in OFF none, step after step. Before the pool settles no grant stands and no pass is due (R94). -/
def Obligations.StepKeepsTheGrantsWithinTheSupply : Prop :=
  ∀ s t : State, s.GrantsHold → step s = .next t → t.GrantsHold


/-- No command stops the part, and none touches the queue of waiting commands. An event of the field line or of a timer changes no
configuration, no part of the settings image, and neither the request queue nor a save in progress (R174, R175). -/
def Obligations.CommandsAnswerNextAndEventsKeepTheConfiguration : Prop :=
  ∀ (c : Instr) (s : State), ∃ t, exec c s = .next t ∧ t.pending = s.pending ∧ (c.isPlantEvent = true → t.config = s.config
    ∧ t.uptime = s.uptime ∧ t.port.image = s.port.image ∧ t.port.imageOk = s.port.imageOk ∧ t.port.save = s.port.save
    ∧ t.port.requests = s.port.requests ∧ t.port.plantAddr = s.port.plantAddr)

/-- R166, R167: what answering a handled request leaves alone, and where its reply stands. The line arbiter may begin a turn and
may clear ROUND_OVERRUN (R3); every block is as its handling left it. The alarm list is as it was left, or as it was left with
ROUND_OVERRUN cleared. -/
def Obligations.AnswersKeepTheBlocks : Prop :=
  ∀ (u : State) (h : Hdr) (code : Nat) (status : Status) (report : List Byte),
    let t := u.answered h code status report
    u.replied t ⟨h.src, h.tag, code, status, report⟩ ∧ t.stations = u.stations ∧ t.groups = u.groups
      ∧ t.points = u.points ∧ t.lanes = u.lanes ∧ t.zones = u.zones ∧ t.blowers = u.blowers ∧ t.pool = u.pool
      ∧ t.channels = u.channels ∧ t.pairs = u.pairs ∧ t.storm = u.storm ∧ t.hand = u.hand ∧ t.uptime = u.uptime
      ∧ t.config = u.config ∧ t.flc.overruns = u.flc.overruns ∧ t.flc.expressDrops = u.flc.expressDrops
      ∧ (∀ r ∈ u.alarms.records, r.code ≠ .roundOverrun → r ∈ t.alarms.records)
      ∧ (∀ r ∈ t.alarms.records, r.code ≠ .roundOverrun → r ∈ u.alarms.records)
      ∧ (let cleared := (u.clearAlarm .roundOverrun .fieldLine).alarms
        t.alarms.records = u.alarms.records ∧ t.alarms.full = u.alarms.full
          ∨ t.alarms.records = cleared.records ∧ t.alarms.full = cleared.full)
      ∧ t.alarms.silenced = u.alarms.silenced ∧ t.alarms.lineMap = u.alarms.lineMap
      ∧ t.alarms.codeClasses = u.alarms.codeClasses ∧ t.alarms.escalation = u.alarms.escalation
      ∧ t.alarms.lines = u.lineArbiter.linesNow

/-- R161 to R163: the four annunciator lines take their values from the list as it stands. They are off until start-up is
complete, which is when the pool settles. A command that finds them as the list gives them leaves them so. -/
def Obligations.LinesFollowTheAlarmList : Prop :=
  (∀ (c : Instr) (s t : State), s.alarms.lines = s.linesNow → exec c s = .next t → t.alarms.lines = t.linesNow)
  ∧ ∀ u : State, let t := u.updateLines
    t.alarms.records = u.alarms.records
      ∧ (t.alarms.lines.horn = true ↔ u.pool.settled = true ∧ u.alarms.silenced = false
        ∧ ∃ r ∈ u.alarms.records, r.state = .raisedUnack ∧ (linesOf u.alarms.lineMap r.cls).horn = true)
      ∧ (t.alarms.lines.beacon = true ↔ u.pool.settled = true
        ∧ ∃ r ∈ u.alarms.records, r.state ≠ .clearedUnack ∧ (linesOf u.alarms.lineMap r.cls).beacon = true)
      ∧ (t.alarms.lines.callout = true ↔ u.pool.settled = true
        ∧ ∃ r ∈ u.alarms.records, r.state = .raisedUnack ∧ (∃ d ∈ r.unack, d + u.alarms.escalation * 60 ≤ u.uptime)
          ∧ (linesOf u.alarms.lineMap r.cls).callout = true)
      ∧ (t.alarms.lines.healthy = true ↔ u.pool.settled = true
        ∧ ∀ r ∈ u.alarms.records, r.state ≠ .clearedUnack → (linesOf u.alarms.lineMap r.cls).healthy = false)

/-- R168: a request is answered DONE, or changes nothing before it is answered, but for the drop an EXPRESS_READ counts (R14).
SAVE, which may be answered later, is stated by itself. -/
def Obligations.RequestsAreDoneOrChangeNothing : Prop :=
  ∀ (c : Instr) (q : Request) (s : State), c.request = some q → q.body ≠ .save → s.ready →
    ∃ u status report, exec c s = .next (u.answered q.hdr q.body.code status report)
      ∧ (status = .done ∨ report = [] ∧ (u = s.addressed q.hdr
        ∨ status = .busy ∧ (∃ st, q.body = .expressRead st)
          ∧ u = (s.addressed q.hdr).modFlc fun f => { f with expressDrops := min 65535 (f.expressDrops + 1) }))

/-! ### Start, save, restart, the plant port -/

/-- R174, R176, R178: power-on and the reset pin. The uptime is cleared, the straps are sampled, every table is loaded from the
image, the roster and the duty selections among them, or from the blank image where the retained one is invalid (its fields are the
model's choice, notes/assumptions/6.md). The request queue and the reply list are empty, no save is in progress, the check error
count is 0 and the retained image stays. Every block takes its start state: zones WAITING or OFF and the lanes' bands and grace (R63,
R73), blowers UNKNOWN or TRIPPED LOST and the pool, settled only where no blower is UNKNOWN (R93, R106), channels DISABLED with
auto-start pending (R123, R125), the storm monitor (R135), the field line (R24). The alarm list holds what the start raises and nothing
else (R164). -/
def Obligations.PowerOnLoadsTheImage : Prop :=
  ∀ (s : State) (straps : BitVec 3) (fast reset : Bool),
    let c := if reset then Instr.resetPin straps fast else .powerOn straps fast
    let img := if s.port.imageOk then s.port.image else .blank
    img.sized → ∃ t, exec c s = .next t ∧ t.uptime = 0 ∧ t.config = img.active ∧ t.flc.active = img.roster
      ∧ t.flc.staged = none ∧ t.pairs = img.pairs ∧ t.hand = []
      ∧ t.stations = img.stations.map Station.start ∧ t.points = img.points.map Point.start ∧ t.flc.round = 0
      ∧ t.port.requests = [] ∧ t.port.replies = [] ∧ t.port.save = none ∧ t.port.checkErrors = 0
      ∧ t.port.plantAddr = 48 + straps.toNat ∧ t.port.fastLine = fast ∧ t.port.image = s.port.image
      ∧ t.port.imageOk = s.port.imageOk ∧ t.port.startKind = (if reset then .resetPin else .powerOn)
      ∧ t.StartedFrom img ∧ t.alarmsStartedFrom img s.port.imageOk [] ∧ t.alarms.full = false

/-- R173, R174, R176, R177: the end of the DONE of a RESTART. The uptime goes on, every table is loaded afresh from the image, the
roster and the duty selections among them, or from the blank image where the retained one is invalid (notes/assumptions/6.md), and
the requests and replies held are discarded. Every block takes its start state, as at power-on. The alarm records are kept, each in
RAISED_UNACK with a fresh wait (R164), and the start's raises and clears are made on them; this is said for a list with room for the 16
records that a start can raise. -/
def Obligations.RestartTakesEffectWhenItsReplyIsSent : Prop :=
  ∀ (s : State) (r : Reply),
    let img := if s.port.imageOk then s.port.image else .blank
    s.port.tx = some (.reply r) → r.code = 44 → r.status = .done → img.sized →
    ∃ t, exec .plantFrameSent s = .next t ∧ t.uptime = s.uptime ∧ t.config = img.active ∧ t.flc.active = img.roster
      ∧ t.flc.staged = none ∧ t.pairs = img.pairs ∧ t.hand = []
      ∧ t.stations = img.stations.map Station.start ∧ t.points = img.points.map Point.start ∧ t.flc.round = 0
      ∧ t.port.requests = [] ∧ t.port.replies = [] ∧ t.port.save = none ∧ t.port.restartTaken = false
      ∧ t.port.plantAddr = s.port.plantAddr ∧ t.port.startKind = .restart ∧ t.StartedFrom img
      ∧ (let kept := s.alarms.records.map fun x =>
          if x.state = .raisedUnack then { x with unack := some s.uptime } else x
        kept.length ≤ 48 → t.alarmsStartedFrom img s.port.imageOk kept ∧ (t.alarms.full = true → s.alarms.full = true))

/-- R171 to R173: at the end of any other frame the oldest reply is sent, else the oldest notice with the count of notices lost,
which returns to 0, else the oldest pending point with the present uptime, else nothing. Notices and readings go to the source of
the latest request taken. R166: the requests that wait are then taken up, from the head and one after another, while no RESTART has
been taken and fewer than 7 replies stand. A request is taken up as one that arrives at a ready port is. -/
def Obligations.TransmitArbiterChoosesTheNextFrame : Prop :=
  (∀ (s : State) (f : TxFrame), s.port.tx = some f → f.restartDone = false →
    let begun : State := { s with port :=
      match s.port.replies, s.port.notices, s.port.forward with
      | r :: rest, _, _ => { s.port with tx := some (.reply r), replies := rest }
      | [], n :: rest, _ =>
          { s.port with tx := some (.notice s.port.address n s.port.noticesLost), notices := rest, noticesLost := 0 }
      | [], [], x :: rest => { s.port with tx := some (.reading s.port.address x s.uptime), forward := rest }
      | [], [], [] => { s.port with tx := none } }
    (s.port.requests = [] → exec .plantFrameSent s = .next begun) ∧ exec .plantFrameSent s = .next begun.serveAll)
  ∧ (∀ s : State,
    (s.port.requests = [] ∨ s.port.restartTaken = true ∨ 7 ≤ s.port.replies.length → s.serveAll = s)
    ∧ ∀ q rest, s.port.requests = q :: rest → s.port.restartTaken = false → s.port.replies.length < 7 →
      s.serveAll = (({ s with port := { s.port with requests := rest } } : State).take q).serveAll)
  ∧ ∀ (c : Instr) (q : Request) (s : State), c.request = some q → s.ready → exec c s = .next (s.take q)


/-- Every request row is the arrival of the frame that carries it: the characters of Table 69 around its payload do what the row
does (R165, R179, R181; a row stands for such a frame, notes/assumptions/2.md). -/
def Obligations.RequestRowsAreTheirFrames : Prop :=
  ∀ (c : Instr) (q : Request) (p : List Byte) (s : State), c.request = some q → c.wf = true → q.body.payload = some p →
    s.port.plantAddr < 256 →
    exec (.plantFrameReceived (plantFrame (BitVec.ofNat 8 s.port.plantAddr) q.hdr.src 1#8 q.hdr.tag p)) s = exec c s




/-- R175: a SAVE taken with no save in progress snapshots the configuration, makes the image invalid and forms no reply. -/
def Obligations.SaveSnapshotsTheConfiguration : Prop :=
  ∀ (s : State) (h : Hdr), s.ready → s.port.save = none →
    ∃ t, exec (.save h) s = .next t ∧ t.port.save = some ⟨s.settings, h⟩ ∧ t.port.imageOk = false
      ∧ t.port.image = s.port.image ∧ t.config = s.config ∧ t.stations = s.stations ∧ t.points = s.points
      ∧ t.zones = s.zones ∧ t.lanes = s.lanes ∧ t.blowers = s.blowers ∧ t.pool = s.pool ∧ t.channels = s.channels
      ∧ t.pairs = s.pairs ∧ t.storm = s.storm ∧ t.hand = s.hand ∧ t.groups = s.groups ∧ t.uptime = s.uptime
      ∧ (s.port.tx.isSome → t.port.tx = s.port.tx ∧ t.port.replies = s.port.replies)
      ∧ (s.port.tx = none → t.port.replies = s.port.replies.tail
        ∧ ∀ r, t.port.tx = some (.reply r) → s.port.replies.head? = some r)


/-- R166, R167: a request that finds the queue full is answered BUSY at once while fewer than 7 replies stand, and is otherwise
discarded and counted. One that finds room while the port can take nothing joins the tail. -/
def Obligations.RequestsThatWait : Prop :=
  ∀ (c : Instr) (q : Request) (s : State), c.request = some q → s.port.tx.isSome →
    (4 ≤ s.port.requests.length → 7 ≤ s.port.replies.length →
      exec c s = .next { s with port := { s.port with unanswered := min 65535 (s.port.unanswered + 1) } })
    ∧ (4 ≤ s.port.requests.length → s.port.replies.length < 7 → s.port.restartTaken = true →
      exec c s = .next { s with port :=
        { s.port with replies := s.port.replies ++ [bareReply q.hdr q.body.code .busy] } })
    ∧ (s.port.requests.length < 4 → (s.port.restartTaken = true ∨ 7 ≤ s.port.replies.length) →
      exec c s = .next { s with port := { s.port with requests := s.port.requests ++ [q] } })

/-- The eleven reads answer DONE with their report and change nothing: R169, R45, R23, R72, R84, R105, R124, R134, R145, R159. Where
the spec leaves a field of a report open, its coding (notes/assumptions/7.md), the name that IDENTIFY reports and the whole sending of
a GRANTS_READ report longer than a payload (notes/assumptions/9.md), the policy that GRANTS_READ reports
(notes/assumptions/34.md) and the seconds of an expired pause limit (notes/assumptions/30.md) are the model's choice. -/
def Obligations.ReadsReportAndChangeNothing : Prop :=
  ∀ (s : State) (h : Hdr), s.ready →
    let a := s.addressed h
    exec (.identify h) s = .next (a.answered h 1 .done s.identifyReport)
    ∧ (∀ i < 48, exec (.mapRead h i) s = .next (a.answered h 3 .done (s.mapReport i)))
    ∧ (∀ p < 128, exec (.pointRead h p) s = .next (a.answered h 7 .done (s.pointReport p)))
    ∧ exec (.rosterRead h) s = .next (a.answered h 9 .done s.rosterReport)
    ∧ (∀ z < 24, exec (.zoneRead h z) s = .next (a.answered h 16 .done (s.zoneReport z)))
    ∧ (∀ b < 6, exec (.blowerRead h b) s = .next (a.answered h 18 .done (s.blowerReport b)))
    ∧ exec (.grantsRead h) s = .next (a.answered h 24 .done s.grantsReport)
    ∧ (∀ c < 4, (c % 2 = 0 ∨ (s.pair (c / 2)).joined = false) →
      exec (.channelRead h c) s = .next (a.answered h 28 .done (s.channelReport c)))
    ∧ exec (.stormRead h) s = .next (a.answered h 33 .done s.stormReport)
    ∧ exec (.handRead h) s = .next (a.answered h 36 .done s.handReport)
    ∧ (∀ i ≤ 63, exec (.alarmList h i) s = .next (a.answered h 37 .done (s.alarmReport i)))


/-! ### Stations, groups, points, the field line's tables -/

/-- R25, R26, R44: an accepted MAP_WRITE. A station that was not configured, or whose address, role or legacy flag changes, starts
afresh, UNSEEN with its counters at 0, and the points bound to it go to NONE. A change of the alarm flag alone, or of
nothing, keeps health, counters and points. Then all that such a write does: a station newly configured is judged by its owners; the
alarm flag raises and clears STATION_LOST and STATION_LOCAL by the present state (R44); and at a start afresh both are cleared, a turn
open to the station closes VOID (R9), its flags count as cleared (R30), and the events of its points follow. The order of these events
is the model's (notes/assumptions/10.md), and so is that a poll still being sent is cut (notes/assumptions/31.md). -/
def Obligations.MapWriteConfiguresTheStation : Prop :=
  ∀ (s : State) (h : Hdr) (st addr : Nat) (role : Role) (legacy alarm : Bool), s.ready → st < 48 → 1 ≤ addr → addr ≤ 111 →
    (∀ j < 48, j ≠ st → (s.station j).cfg.configured = true → (s.station j).cfg.addr ≠ addr) →
    let old := (s.station st).cfg
    let cfg : StationCfg := ⟨true, addr, role, legacy, alarm⟩
    let same := old.configured = true ∧ old.addr = addr ∧ old.role = role ∧ old.legacy = legacy
    ∃ t, exec (.mapWrite h st addr (.val role) legacy alarm) s = .next t ∧ s.replied t (bareReply h 2 .done)
      ∧ t.stations = s.stations.modify st (fun x => if same then { x with cfg := cfg } else Station.start cfg)
      ∧ t.config = { s.config with stations := s.config.stations.modify st fun _ => cfg }
      ∧ t.groups = s.groups
      ∧ (old.configured = true → ¬ same → ∀ p < 128, ∀ src, (s.point p).cfg.source = some src → src.station = st →
        t.point p = (s.point p).toNone)
      ∧ (same → t.points = s.points ∧ t.zones = s.zones ∧ t.blowers = s.blowers ∧ t.channels = s.channels)
      ∧ (let a := s.addressed h
        let x := s.station st
        let answers := fun u : State => t = u.answered h 2 .done []
        let clears := fun u : State => (u.clearAlarm .stationLost (.station st)).clearAlarm .stationLocal (.station st)
        let fresh := a.modStation st fun _ => Station.start cfg
        let written := a.modStation st fun x => { x with cfg := cfg }
        (old.configured = false → answers fresh.rejudgeZones.judgeChannels)
        ∧ (same → alarm = old.alarm → answers written)
        ∧ (same → alarm = false → old.alarm = true → answers (clears written))
        ∧ (same → alarm = true → old.alarm = false →
          let told := if x.health = .lost then written.raiseAlarm .stationLost (.station st) (some x.consec) else written
          answers (if x.localMode then told.raiseAlarm .stationLocal (.station st) none else told))
        ∧ (old.configured = true → ¬ same → ∃ points : List Nat, points.Nodup
          ∧ (∀ p, p ∈ points ↔ p < 128 ∧ ∃ src ∈ (s.point p).cfg.source, src.station = st)
          ∧ (let noned := points.foldl (fun u p => (((u.modPoint p Point.toNone).clearAlarm .pointStale (.point p)).clearAlarm
              .pointSuspect (.point p)).clearAlarm .pointKindMismatch (.point p)) fresh
            let free := (clears noned).modFlc fun f => match f.turn with
              | some t => if t.station = st then { f with turn := none, gap := t.fromRoster } else f
              | none => f
            let waits := fun x : Blower => x.state = .unknown ∨ x.state = .tripped ∧ x.tripCause = some .lost
            let faults := if x.fault then free.rejudgeZones.eachBlowerOn st fun b v =>
              if waits (v.blower b) then v else v.judgeBlower b else free.rejudgeZones
            let flags := if x.localMode then faults.eachBlowerOn st State.blowerLocalClear else faults
            answers ((points.filter fun p => (s.point p).validity ≠ .none).foldl (fun u p => u.notifyPoint p false)
              flags.judgeChannels))))


/-- R27: a MAP_CLEAR of a configured station. Its entry starts afresh unconfigured, every point bound to it becomes unbound and
goes to NONE keeping its other configuration, it leaves every group, and a turn open to it closes VOID (R9), cut where its poll is
still being sent (notes/assumptions/31.md). The stored address, role and flags stay (notes/assumptions/15.md). Of a station that is not
configured: NO_OBJECT. The alarms of its points and its own two are cleared; the passages on targets that now read LOST end, and the
owners take up the loss: the consumers of its points, the zones, its blowers, the channels (R27, R28, R142). The order is the model's
(notes/assumptions/10.md). -/
def Obligations.MapClearRemovesTheStation : Prop :=
  ∀ (s : State) (h : Hdr) (st : Nat), s.ready → st < 48 →
    ((s.station st).cfg.configured = false →
      exec (.mapClear h st) s = .next ((s.addressed h).answered h 4 .noObject []))
    ∧ ((s.station st).cfg.configured = true →
      ∃ t, exec (.mapClear h st) s = .next t ∧ s.replied t (bareReply h 4 .done)
        ∧ t.stations = s.stations.modify st (fun x => Station.start { x.cfg with configured := false })
        ∧ t.groups = s.groups.map (fun g =>
          ⟨g.members.filter (· ≠ st), if g.answering = some st then none else g.answering⟩)
        ∧ (∀ p < 128, ∀ src, (s.point p).cfg.source = some src → src.station = st →
          t.point p = { (s.point p).toNone with cfg := { (s.point p).cfg with source := none } })
        ∧ (∀ p, (∀ src, (s.point p).cfg.source = some src → src.station ≠ st) → (t.point p).cfg = (s.point p).cfg)
        ∧ (∀ u, t.flc.turn = some u → u.station ≠ st)
        ∧ t.config.zones = s.config.zones ∧ t.config.blowers = s.config.blowers
        ∧ t.config.channels = s.config.channels ∧ t.config.lanes = s.config.lanes)
    ∧ ((s.station st).cfg.configured = true →
      let bound := (List.range 128).filter fun p => (s.point p).cfg.source.any fun src => src.station == st
      let held := bound.filter fun p => (s.point p).validity ≠ .none
      let emptied := (s.addressed h).modStation st fun x => Station.start { x.cfg with configured := false }
      let unbound := bound.foldl (fun u p => (((u.modPoint p fun x =>
        { x.toNone with cfg := { x.cfg with source := none } }).clearAlarm .pointStale (.point p)).clearAlarm .pointSuspect
          (.point p)).clearAlarm .pointKindMismatch (.point p)) emptied
      let left : State := { unbound with groups := s.groups.map fun g =>
        ⟨g.members.filter (· ≠ st), if g.answering = some st then none else g.answering⟩ }
      let cleared := (left.clearAlarm .stationLost (.station st)).clearAlarm .stationLocal (.station st)
      let voided := match s.flc.turn with
        | none => cleared
        | some u => if u.station = st then cleared.modFlc fun f => { f with turn := none, gap := u.fromRoster } else cleared
      let told := held.foldl (fun u p => u.notifyPoint p false) voided.endLostPassages
      exec (.mapClear h st) s
        = .next (((told.rejudgeZones.eachBlowerOn st State.blowerLost).judgeChannels).answered h 4 .done []))

/-- R29: a GROUP_WRITE that holds to the four checks replaces the group's members and answering member and changes no station and
no point's configuration. The passages on zones that now read LOST end (R28, R142), in the order of the hand table, and then every zone
judges its causes (R53), in the model's order (notes/assumptions/10.md). -/
def Obligations.GroupWriteReplacesTheGroup : Prop :=
  (∀ (s : State) (h : Hdr) (g : Nat) (members : List Nat) (answering : Option Nat), s.ready → g < 8 → members.length ≤ 8 →
    (∀ i ∈ members, i < 48 ∧ (s.station i).cfg.configured = true) → members.Nodup →
    (answering = none ↔ members = []) → (∀ a ∈ answering, a ∈ members) →
    (∀ z < 24, (s.zone z).cfg.configured = true → (s.zone z).cfg.valve = .group g →
      ∀ y < 24, y ≠ z → (s.zone y).cfg.configured = true → ∀ i ∈ s.boundStations (s.zone y).cfg.valve, i ∉ members) →
    ∃ t, exec (.groupWrite h g members answering) s = .next t ∧ s.replied t (bareReply h 5 .done)
      ∧ t.groups = s.groups.set g ⟨members, answering⟩ ∧ t.stations = s.stations
      ∧ t.config = { s.config with groups := s.groups.set g ⟨members, answering⟩ }
      ∧ t = ((({ s.addressed h with groups := s.groups.set g ⟨members, answering⟩ } : State).endLostPassages).rejudgeZones).answered
        h 5 .done [])
  ∧ (∀ s : State, s.endLostPassages = (s.hand.map Passage.target).foldl (fun u target =>
      let health := match target.kind with
        | .zone => u.targetHealth (u.zone target.index).cfg.valve
        | .pump => u.readsHealth target.index
      if health = .lost then u.endPassage target true else u) s)
  ∧ ∀ s : State, s.rejudgeZones = (List.range 24).foldl (fun u z => u.rejudgeZone z) s


/-- R43: an accepted POINT_WRITE. A change of source, kind or override takes the point to NONE. Otherwise a point whose age has
reached the new stale limit becomes STALE, a GOOD point outside the new plausibility becomes SUSPECT, and a running stale timer is
rerun from the last accepted reading. A change of forward mode or band makes the last value forwarded absent. Then the alarms and
events of such a write: those of a move to NONE (R37), of the alarm flag (R44), which is judged before the new figures (the model's
choice, notes/assumptions/29.md, as is that a flag changed with a move to NONE raises nothing), of STALE (R38) and of SUSPECT (R37), each change of validity taken up by the point's consumers
(R41). -/
def Obligations.PointWriteRejudgesThePoint : Prop :=
  ∀ (s : State) (h : Hdr) (p : Nat) (c : PointCfg), s.ready → p < 128 → s.pointOk p c = true →
    let x := s.point p
    let keep := c.source = x.cfg.source ∧ c.kind = x.cfg.kind ∧ c.numerator = x.cfg.numerator
      ∧ c.denominator = x.cfg.denominator ∧ c.offset = x.cfg.offset
    let last := if c.forward = x.cfg.forward ∧ c.band = x.cfg.band then x.lastForwarded else none
    let rerun := if x.staleDeadline.isSome then x.lastTime.map (· + c.staleLimit) else none
    let aged := (x.validity = .good ∨ x.validity = .suspect) ∧ ∃ d ∈ x.lastTime, d + c.staleLimit ≤ s.uptime
    let outside := x.validity = .good ∧ (x.value < c.low ∨ c.high < x.value)
    ∃ t, exec (.pointWrite h p c) s = .next t ∧ s.replied t (bareReply h 6 .done) ∧ t.stations = s.stations
      ∧ t.config = { s.config with points := s.config.points.modify p fun _ => c }
      ∧ (p < s.points.length →
        (¬ keep → t.point p = ⟨c, 0, .none, none, none, none, false, none⟩)
        ∧ (keep → aged → t.point p = { x with
          cfg := c, lastForwarded := last, validity := .stale, suspectCause := none, fresh := false, staleDeadline := none })
        ∧ (keep → ¬ aged → outside → t.point p = { x with
          cfg := c, lastForwarded := last, validity := .suspect, suspectCause := some .range, fresh := false,
          staleDeadline := rerun })
        ∧ (keep → ¬ aged → ¬ outside → t.point p = { x with cfg := c, lastForwarded := last, staleDeadline := rerun }))
      ∧ (p < s.points.length →
        let answers := fun u : State => t = u.answered h 6 .done []
        let written := (s.addressed h).modPoint p fun y => { y with cfg := c, lastForwarded := last }
        let noned := (((written.modPoint p Point.toNone).clearAlarm .pointStale (.point p)).clearAlarm .pointSuspect
          (.point p)).clearAlarm .pointKindMismatch (.point p)
        let flagged :=
          if c.alarm = x.cfg.alarm then written
          else if c.alarm = false then (written.clearAlarm .pointStale (.point p)).clearAlarm .pointSuspect (.point p)
          else if x.validity = .stale then written.raiseAlarm .pointStale (.point p) (some x.value)
          else if x.validity = .suspect ∧ x.suspectCause = some .range then
            written.raiseAlarm .pointSuspect (.point p) (some x.value)
          else written
        let staled := (flagged.modPoint p fun y => { y with
          validity := .stale, suspectCause := none, fresh := false, staleDeadline := none }).clearAlarm .pointSuspect (.point p)
        let reran := flagged.modPoint p fun y => { y with staleDeadline := rerun }
        let ranged := (reran.modPoint p fun y => { y with
          validity := .suspect, suspectCause := some .range, fresh := false }).clearAlarm .pointStale (.point p)
        (¬ keep → answers (if x.validity = .none then noned else noned.notifyPoint p false))
        ∧ (keep → aged → answers
          ((if c.alarm then staled.raiseAlarm .pointStale (.point p) (some x.value) else staled).notifyPoint p false))
        ∧ (keep → ¬ aged → outside → answers
          ((if c.alarm then ranged.raiseAlarm .pointSuspect (.point p) (some x.value) else ranged).notifyPoint p false))
        ∧ (keep → ¬ aged → ¬ outside → answers reran))


/-- R4: a ROSTER_LOAD that holds to the checks becomes the staged roster, replaces the one present and leaves the active roster and
what a SAVE would save. One that fails a check is REFUSED and changes neither. -/
def Obligations.RosterLoadStagesTheRoster : Prop :=
  ∀ (s : State) (h : Hdr) (entries : List RosterEntry), s.ready →
    let ok := entries.length ≤ 96 ∧ ∀ e ∈ entries,
      (match e.target with
        | .station i => i < 48
        | .group g => g < 8 ∧ e.kind ≠ .read)
      ∧ (e.divisor = 1 ∨ e.divisor = 2 ∨ e.divisor = 4 ∨ e.divisor = 8) ∧ e.phase < e.divisor
    let u := (s.addressed h).modFlc fun f => { f with staged := some entries }
    (ok → exec (.rosterLoad h entries) s = .next (u.answered h 8 .done []) ∧ u.flc.active = s.flc.active
      ∧ u.settings = s.settings)
    ∧ (¬ ok → exec (.rosterLoad h entries) s = .next ((s.addressed h).answered h 8 .refused []))

/-- R22: a LINE_WRITE in range sets the four settings; one with a field out of range is REFUSED and changes none. -/
def Obligations.LineWriteSetsTheLine : Prop :=
  ∀ (s : State) (h : Hdr) (l : LineSettings), s.ready →
    let ok := 2 ≤ l.window ∧ l.window ≤ 50 ∧ l.retries ≤ 3 ∧ 1 ≤ l.lostThreshold ∧ l.lostThreshold ≤ 15
      ∧ 2 ≤ l.roundPeriod ∧ l.roundPeriod ≤ 100
    (ok → exec (.lineWrite h l) s
      = .next (((s.addressed h).modFlc fun f => { f with line := l }).answered h 10 .done []))
    ∧ (¬ ok → exec (.lineWrite h l) s = .next ((s.addressed h).answered h 10 .refused []))

/-- R13, R14: an EXPRESS_READ coalesces with a queued READ of its station, is added at the tail, or is dropped, counted and
answered BUSY. -/
def Obligations.ExpressReadQueuesAPoll : Prop :=
  ∀ (s : State) (h : Hdr) (st : Nat), s.ready → st < 48 →
    let e : ExpressEntry := ⟨.station st, none⟩
    let a := s.addressed h
    (e ∈ s.flc.express → exec (.expressRead h st) s = .next (a.answered h 11 .done []))
    ∧ (e ∉ s.flc.express → s.flc.express.length < 8 → exec (.expressRead h st) s
      = .next ((a.modFlc fun f => { f with express := f.express ++ [e] }).answered h 11 .done []))
    ∧ (e ∉ s.flc.express → 8 ≤ s.flc.express.length → exec (.expressRead h st) s
      = .next ((a.modFlc fun f => { f with expressDrops := min 65535 (f.expressDrops + 1) }).answered h 11 .busy []))

/-- R21: STATION_COUNTERS reports health, consecutive failed turns and the five counters; with the clear option they return to 0
once reported, and health and the count of failed turns stay. -/
def Obligations.StationCountersReportsAndClears : Prop :=
  ∀ (s : State) (h : Hdr) (st : Nat), s.ready → st < 48 →
    exec (.stationCounters h st false) s = .next ((s.addressed h).answered h 12 .done (s.countersReport st))
    ∧ exec (.stationCounters h st true) s
      = .next (((s.addressed h).modStation st fun x => { x with counters := ⟨0, 0, 0, 0, 0⟩ }).answered h 12 .done
          (s.countersReport st))

/-! ### Lanes and zones -/

/-- R47 to R50: an accepted LANE_WRITE replaces the configuration but for the in-service flag. The ammonia band moves by the present
value where the ammonia point is GOOD, and is kept otherwise; ammonia valid and the active band follow at once. Then how a lane judges
its ammonia point and its band, at a write as at every other event: LANE_AMMONIA_INVALID at the edges of its condition (the model's
reading of R49, notes/assumptions/19.md), and the air-limited and DO-low judgements of each zone whose setpoint has changed (R50). -/
def Obligations.LaneWriteRejudgesTheLane : Prop :=
  (∀ (s : State) (h : Hdr) (l : Nat) (c : LaneCfg), s.ready → l < 6 → s.laneOk l c = true → l < s.lanes.length →
    let good := ∃ p ∈ c.ammoniaPoint, s.pointGood p .nh4 = true
    ∃ t, exec (.laneWrite h l c) s = .next t ∧ s.replied t (bareReply h 13 .done)
      ∧ t.config = { s.config with lanes := s.config.lanes.modify l fun x => (x.1, c) }
      ∧ t.points = s.points ∧ t.stations = s.stations
      ∧ (t.lane l).cfg = c ∧ (t.lane l).inService = (s.lane l).inService
      ∧ (t.lane l).graceDeadline = (s.lane l).graceDeadline ∧ ((t.lane l).ammoniaValid = true ↔ good)
      ∧ (∀ p ∈ c.ammoniaPoint, s.pointGood p .nh4 = true →
        (t.lane l).ammoniaBand = bandAfter c (s.lane l).ammoniaBand (s.point p).value)
      ∧ (¬ good → (t.lane l).ammoniaBand = (s.lane l).ammoniaBand)
      ∧ (c.stormFollow = true → s.stormInForce = true → (t.lane l).activeBand = .storm)
      ∧ (¬ (c.stormFollow = true ∧ s.stormInForce = true) → c.ammoniaPoint = none → (t.lane l).activeBand = .mid)
      ∧ (¬ (c.stormFollow = true ∧ s.stormInForce = true) → c.ammoniaPoint ≠ none → ¬ good → (t.lane l).activeBand = .high)
      ∧ (¬ (c.stormFollow = true ∧ s.stormInForce = true) → good → (t.lane l).activeBand = (t.lane l).ammoniaBand)
      ∧ (let a := s.addressed h
        let written := a.modLane l fun x => { x with cfg := c }
        let moved := match c.ammoniaPoint with
          | some p => if s.pointGood p .nh4 then
              written.modLane l fun x => { x with ammoniaBand := bandAfter c x.ammoniaBand (s.point p).value } else written
          | none => written
        t = (a.judgeLane l moved).answered h 13 .done []))
  ∧ ∀ (before s : State) (l : Nat), l < s.lanes.length →
    let x := before.lane l
    let y := s.lane l
    let good := s.optPointGood y.cfg.ammoniaPoint .nh4
    let failed := x.inService && x.cfg.ammoniaPoint.isSome && !x.ammoniaValid
    let fails := y.inService && y.cfg.ammoniaPoint.isSome && !good
    let judged := s.modLane l fun y => { y with ammoniaValid := good, activeBand := s.activeBandNow l }
    let told := if fails && !failed then judged.raiseAlarm .laneAmmoniaInvalid (.lane l) none
      else if failed && !fails then judged.clearAlarm .laneAmmoniaInvalid (.lane l) else judged
    before.judgeLane l s = [0, 1, 2, 3].foldl (fun u i => let z := l * 4 + i
      if before.setpoint z = u.setpoint z then u else (u.judgeAir z).judgeDoLow z) told


/-- R66, R67: LANE_SERVICE. Already so: DONE, nothing changes. OFF takes each zone of the lane to OFF with grant, cap and desired
position 0 and ends its passage. ON takes each configured zone to AUTO at its fallback position, or to FALLBACK with the causes that
hold. The zones are taken in zone order, at OFF each with its alarms cleared and, where it is configured, with one express DRIVE of
position 0 to its valve binding; then the lane judges LANE_AMMONIA_INVALID (R49, as LaneWriteRejudgesTheLane says). The order of the
four clears of a zone is the model's (notes/assumptions/32.md). -/
def Obligations.LaneServiceMovesItsZones : Prop :=
  (∀ (s : State) (h : Hdr) (l : Nat), s.ready → l < 6 → l < s.lanes.length → s.zones.length = 24 →
    let a := s.addressed h
    ((s.lane l).inService = false → exec (.laneServiceOff h l) s = .next (a.answered h 14 .done []))
    ∧ ((s.lane l).inService = true → exec (.laneServiceOn h l) s = .next (a.answered h 14 .done []))
    ∧ ((s.lane l).inService = true → ∃ t, exec (.laneServiceOff h l) s = .next t ∧ s.replied t (bareReply h 14 .done)
      ∧ t.config = { s.config with lanes := s.config.lanes.modify l fun x => (false, x.2) }
      ∧ t.hand = s.hand.filter (fun p => ∀ i < 4, p.target ≠ ⟨.zone, l * 4 + i⟩)
      ∧ t.points = s.points ∧ t.stations = s.stations
      ∧ ∀ i < 4, let z := l * 4 + i
        (t.zone z).mode = .off ∧ ((s.zone z).mode ≠ .off → (t.zone z).desired = 0 ∧ (t.zone z).grant = 0
          ∧ (t.zone z).cap = 0 ∧ (t.zone z).causes = .none ∧ (t.zone z).trimDeadline = none))
    ∧ ((s.lane l).inService = false → ∃ t, exec (.laneServiceOn h l) s = .next t ∧ s.replied t (bareReply h 14 .done)
      ∧ t.config = { s.config with lanes := s.config.lanes.modify l fun x => (true, x.2) }
      ∧ t.hand = s.hand ∧ t.points = s.points ∧ t.stations = s.stations
      ∧ ∀ i < 4, let z := l * 4 + i
        (s.zone z).cfg.configured = true →
          (t.zone z).causes = s.causesNow z
          ∧ (t.zone z).mode = (if (s.causesNow z).isEmpty then .auto else .fallback)
          ∧ ((s.causesNow z).isEmpty = true → (t.zone z).desired = (s.zone z).cfg.fallbackPos
            ∧ (t.zone z).trimDeadline = some (s.uptime + (s.zone z).cfg.trimPeriod)))
    ∧ (let off := [0, 1, 2, 3].foldl (fun u i => let z := l * 4 + i
        let gone := ({ u with hand := u.hand.filter fun p => p.target ≠ ⟨.zone, z⟩ } : State).enterOff z
        if (gone.zone z).cfg.configured then gone.offerDrive (gone.zone z).cfg.valve (.position 0) else gone)
        (a.modLane l fun x => { x with inService := false })
      let on := [0, 1, 2, 3].foldl (fun u i => let z := l * 4 + i
        if (u.zone z).cfg.configured then u.leaveOff z else u) (a.modLane l fun x => { x with inService := true })
      ((s.lane l).inService = true → exec (.laneServiceOff h l) s = .next ((a.judgeLane l off).answered h 14 .done []))
      ∧ ((s.lane l).inService = false → exec (.laneServiceOn h l) s = .next ((a.judgeLane l on).answered h 14 .done []))))
  ∧ ∀ (s : State) (z : Nat),
    let x := s.zone z
    let entered := (s.modZone z fun y => { y with
      desired := 0, cap := 0, grant := 0, trimDeadline := none, mode := .off, causes := ⟨false, false⟩,
      lastModeChange := s.uptime }).offerNotice (.zoneModeChange z x.mode .off ⟨false, false⟩ s.uptime)
    let cleared := (entered.clearAlarm .zoneDoInvalid (.zone z)).clearAlarm .zoneValveUnavailable (.zone z)
    let risen := (cleared.modZone z fun y => { y with doLow := ⟨none, false⟩ }).clearAlarm .doLow (.zone z)
    (x.mode = .off → s.enterOff z = s)
    ∧ (x.mode ≠ .off →
      s.enterOff z = (risen.modZone z fun y => { y with air := ⟨none, false⟩ }).clearAlarm .airLimited (.zone z))

/-- R68: an accepted ZONE_WRITE replaces the configuration and ends the zone's passage. A zone that is not configured, or whose lane
is out of service, is in OFF after it. One that was AUTO, FALLBACK or HAND from either, is in AUTO where no cause holds under the new
configuration and in FALLBACK otherwise, and its trim timer restarts. One that was OFF is taken out of it as R67 gives it. One that was
WAITING leaves it where its conditions are met (R64) or its lane's start grace is over (R65), and else waits on at desired position 0,
granted no more than its new floor. Then the whole next state: the two spells end with their alarms (step 2), the desired position is
kept, limited, or set as R55 gives it, the cause alarms follow the set, DO_INVALID newly alone offers its express DRIVE, and the grant
and cap of a WAITING zone follow its new floor (step 5). The model's choices: the judgements of a changed setpoint come last and the
alarm actions stand in this order (notes/assumptions/32.md), and a zone that was held is judged against the set and the position it held
(notes/assumptions/24.md). -/
def Obligations.ZoneWriteRewritesTheZone : Prop :=
  ∀ (s : State) (h : Hdr) (z : Nat) (c : ZoneCfg), s.ready → s.zoneOk z c = true → z < s.zones.length →
    let old := s.zone z
    let mode := if old.mode = .hand then old.modeBeforeHand else old.mode
    ∃ t, exec (.zoneWrite h z c) s = .next t ∧ s.replied t (bareReply h 15 .done)
      ∧ t.config = { s.config with zones := s.config.zones.modify z fun _ => c }
      ∧ t.hand = s.hand.filter (fun p => p.target ≠ ⟨.zone, z⟩) ∧ t.points = s.points ∧ t.stations = s.stations
      ∧ t.lanes = s.lanes ∧ t.blowers = s.blowers ∧ t.pool = s.pool ∧ t.channels = s.channels ∧ t.storm = s.storm
      ∧ (c.configured = false ∨ (s.lane (z / 4)).inService = false →
        (t.zone z).mode = .off ∧ (old.mode ≠ .off → (t.zone z).grant = 0 ∧ (t.zone z).cap = 0))
      ∧ (c.configured = true → (s.lane (z / 4)).inService = true → (mode = .auto ∨ mode = .fallback) →
        (t.zone z).mode = (if (t.causesNow z).isEmpty then .auto else .fallback)
          ∧ ((t.causesNow z).isEmpty = false → (t.zone z).causes = t.causesNow z) ∧ (t.zone z).trimDeadline = some (s.uptime + c.trimPeriod))
      ∧ (c.configured = true → (s.lane (z / 4)).inService = true → (mode = .off ∨ mode = .waiting) →
        let ready := (t.causesNow z).isEmpty = true ∧ (mode = .off ∨ s.pool.firstPassDone = true ∨ (s.lane (z / 4)).graceExpired = true)
        let waits := mode = .waiting ∧ ¬ ready ∧ (s.lane (z / 4)).graceExpired = false
        (ready → (t.zone z).mode = .auto ∧ (t.zone z).causes = .none
          ∧ (t.zone z).trimDeadline = some (s.uptime + c.trimPeriod)
          ∧ (t.zone z).desired = if mode = .off then c.fallbackPos else t.startPosition z)
        ∧ (¬ ready → ¬ waits → (t.zone z).mode = .fallback ∧ (t.zone z).causes = t.causesNow z
          ∧ (t.zone z).trimDeadline = some (s.uptime + c.trimPeriod)
          ∧ (t.zone z).desired = if (t.causesNow z).valveUnavailable then t.trackedPosition z 0 else c.fallbackPos)
        ∧ (waits → (t.zone z).mode = .waiting ∧ (t.zone z).desired = 0 ∧ (t.zone z).trimDeadline = none
          ∧ (t.zone z).grant = min old.grant c.mixingFloor
          ∧ (t.zone z).causes = if old.mode = .hand then .none else old.causes))
      ∧ (let written := ({ s.addressed h with hand := s.hand.filter fun p => p.target ≠ ⟨.zone, z⟩ } : State).modZone z fun x =>
          { x with cfg := c }
        let calm := fun u : State => (((u.modZone z fun x => { x with doLow := ⟨none, false⟩ }).clearAlarm .doLow
          (.zone z)).modZone z fun x => { x with air := ⟨none, false⟩ }).clearAlarm .airLimited (.zone z)
        let calmed := calm written
        let causes := calmed.causesNow z
        let alone := causes = ⟨true, false⟩
        let limited := max c.minPos (min c.maxPos old.desired)
        let told := fun (all : Bool) (now : Causes) (u : State) =>
          let judged := fun (u : State) (code : AlarmCode) (was is : Bool) =>
            if is then (if all || !was then u.raiseAlarm code (.zone z) none else u) else u.clearAlarm code (.zone z)
          judged (judged u .zoneDoInvalid old.causes.doInvalid now.doInvalid) .zoneValveUnavailable old.causes.valveUnavailable
            now.valveUnavailable
        let moded := fun (m : ZoneMode) (now : Causes) (u : State) => if old.mode = m then u.modZone z fun x => { x with causes := now }
          else (u.modZone z fun x => { x with mode := m, causes := now, lastModeChange := s.uptime }).offerNotice
            (.zoneModeChange z old.mode m now s.uptime)
        let placed := fun (d : Nat) (u : State) => u.modZone z fun x => { x with desired := d }
        let driven := fun u : State => u.offerDrive c.valve (.position c.fallbackPos)
        let auto := fun d : Nat =>
          let u := told false ⟨false, false⟩ (moded .auto ⟨false, false⟩
            ((placed d calmed).modZone z fun x => { x with trimDeadline := some (s.uptime + c.trimPeriod) }))
          if d = old.desired then u else u.judgeAir z
        let fallback :=
          let u := moded .fallback causes
            (placed (if causes.valveUnavailable then calmed.trackedPosition z 0 else c.fallbackPos) calmed)
          let joined := if old.mode = .hand ∧ causes.doInvalid = true ∧ old.causes.doInvalid = false then
            (u.modZone z fun x => { x with doLow := ⟨none, false⟩ }).clearAlarm .doLow (.zone z) else u
          let u := told true causes joined
          if alone then driven u else u
        let off := if old.mode = .off then calmed else calm (told false ⟨false, false⟩ (moded .off ⟨false, false⟩
          (calmed.modZone z fun x => { x with desired := 0, cap := 0, grant := 0, trimDeadline := none })))
        let trimming :=
          if causes = ⟨false, false⟩ then (if old.mode = .auto then placed limited calmed else auto limited)
          else
            let newly := alone ∧ old.causes ≠ ⟨true, false⟩
            let d := if causes.valveUnavailable && !old.causes.valveUnavailable then
                calmed.trackedPosition z (min old.desired old.cap)
              else if newly then c.fallbackPos else limited
            let u := told (old.mode ≠ .fallback) causes (moded .fallback causes (placed d calmed))
            if newly then driven u else u
        let waiting :=
          if causes = ⟨false, false⟩ ∧ s.pool.firstPassDone = true then auto (calmed.startPosition z)
          else if (s.lane (z / 4)).graceExpired = true then
            (if causes = ⟨false, false⟩ then auto (calmed.startPosition z) else fallback)
          else
            let u := calmed.modZone z fun x => { x with desired := 0, trimDeadline := none }
            if old.mode = .hand then told false ⟨false, false⟩ (moded .waiting ⟨false, false⟩ u) else u
        let derived := if c.configured = false ∨ (s.lane (z / 4)).inService = false then off
          else match mode with
            | .waiting => waiting
            | .off => if causes = ⟨false, false⟩ then auto c.fallbackPos else fallback
            | _ => trimming
        let timed := if (derived.zone z).mode = .auto ∨ (derived.zone z).mode = .fallback then
          derived.modZone z fun x => { x with trimDeadline := some (s.uptime + c.trimPeriod) } else derived
        let x := timed.zone z
        let lowered := if x.mode = .waiting ∧ c.mixingFloor < x.grant then timed.modZone z fun x =>
          { x with grant := c.mixingFloor, cap := min 1000 (c.mixingFloor * 1000 / c.fullOpenAir) } else timed
        let judged := if s.setpoint z = lowered.setpoint z then
            (if old.desired = (lowered.zone z).desired then lowered else lowered.judgeAir z)
          else (lowered.judgeAir z).judgeDoLow z
        t = judged.answered h 15 .done [])

/-! ### Blowers, pool -/

/-- R75, R83, R84, R86: a blower enters a state. The record, the run list, whose tail it joins, the notice, and the three trip alarms: the others are
cleared, then the cause's is raised. Then what takes a configured blower from state to state: adoption (R76), the end of STARTING
(R78), trips (R79), its station's loss (R80) and LOCAL (R81), each taken up by the Header Unit; where its supply figure is unchanged,
a run-state reading in LOCAL is not (R89). The model's choices here: the clears stand in the order FAULT, START_FAIL, LOST, and the ramp
timer stops at every entry to a state other than STARTING (notes/assumptions/28.md); a LOCAL blower whose run-state begins to read
RUNNING takes speed demand 1000 (notes/assumptions/23.md); and a blower TRIPPED with cause LOST enters LOCAL at the change of the
flag, its run start and run end kept (notes/assumptions/33.md). -/
def Obligations.BlowersEnterStates : Prop :=
  (∀ (s : State) (b : Nat) (st : BlowerState) (cause : Option TripCause), b < s.blowers.length →
    let t := s.enterBlower b st cause
    let x := s.blower b
    let y := t.blower b
    y.state = st ∧ y.tripCause = cause ∧ y.lastChange = s.uptime ∧ y.cfg = x.cfg ∧ y.lockout = x.lockout
      ∧ (st = .starting → y.runStart = some s.uptime ∧ y.speed = x.cfg.turndown
        ∧ y.rampDeadline = some (s.uptime + 2 * x.cfg.rampTime))
      ∧ (st ≠ .starting → y.runStart = x.runStart ∧ y.rampDeadline = none)
      ∧ (st = .stopping → y.runDownDeadline = some (s.uptime + x.cfg.runDownTime))
      ∧ (st ≠ .stopping → y.runDownDeadline = none)
      ∧ (let ended := (x.state = .starting ∨ x.state = .running ∨ x.state = .stopping)
          ∧ (st = .stopped ∨ st = .tripped ∨ st = .lockedOut)
        (ended → y.runEnd = some s.uptime) ∧ (¬ ended → y.runEnd = x.runEnd))
      ∧ (st = .stopped ∨ st = .tripped ∨ st = .lockedOut ∨ st = .stopping ∨ st = .unknown → y.speed = 0)
      ∧ (st = .running → y.speed = if x.state = .starting ∨ x.state = .localMode then x.speed else 1000)
      ∧ (∀ d, d ≠ b → t.blower d = s.blower d)
      ∧ (st = .starting ∨ st = .running → t.pool.runList = if b ∈ s.pool.runList then s.pool.runList else s.pool.runList ++ [b])
      ∧ (st ≠ .starting → st ≠ .running → t.pool.runList = s.pool.runList.filter (· ≠ b))
      ∧ t.zones = s.zones ∧ t.flc = s.flc ∧ t.points = s.points ∧ t.stations = s.stations
      ∧ t.alarms.lines = s.alarms.lines
      ∧ (s.port.notices.length < 32 → s.port.notices ++ [.blowerChange b x.state x.tripCause st cause s.uptime]
        <+: t.port.notices)
      ∧ (let entered := ((s.modBlower b fun _ => y).modPool fun p => { p with runList := t.pool.runList }).offerNotice
            (.blowerChange b x.state x.tripCause st cause s.uptime)
        let clearUnless := fun (u : State) (c : TripCause) (code : AlarmCode) =>
          if cause = some c then u else u.clearAlarm code (.blower b)
        let cleared := clearUnless (clearUnless (clearUnless entered .fault .blowerFault) .startFail .blowerStartFail)
          .lost .blowerLost
        t = match cause with
          | none => cleared
          | some .fault => cleared.raiseAlarm .blowerFault (.blower b) none
          | some .startFail => cleared.raiseAlarm .blowerStartFail (.blower b) none
          | some .lost => cleared.raiseAlarm .blowerLost (.blower b) none))
  ∧ ∀ (s : State) (b : Nat), (s.blower b).cfg.configured = true →
    let x := s.blower b
    let station := x.cfg.station
    let afresh := s.modBlower b fun y => { y with runStart := none, runEnd := none }
    let rest : BlowerState := if x.lockout then .lockedOut else .stopped
    let running := (afresh.enterBlower b .running).header
    let took := if x.lockout && (running.blower b).state == .running then
        ((running.enterBlower b .stopping).offerDrive (.station station) (.stop 0)).header else running
    let tripped := s.enterBlower b .tripped (some .fault)
    let waits := x.state = .unknown ∨ x.state = .tripped ∧ x.tripCause = some .lost
    let adopts := waits ∧ s.readsHealth station = .live
      ∧ (s.readsLocal station || s.reportsFault b || s.readsRunning b || s.readsStopped b) = true
    (adopts → s.judgeBlower b =
      if s.readsLocal station then (afresh.enterBlower b .localMode).header
      else if s.reportsFault b then (afresh.enterBlower b .tripped (some .fault)).header
      else if s.readsRunning b then took else (afresh.enterBlower b rest).header)
    ∧ (waits → ¬ adopts → s.judgeBlower b = s)
    ∧ (x.state = .starting → s.reportsFault b = false → s.judgeBlower b =
      if s.lasted x.runStart x.cfg.rampTime && s.readsRunning b then (s.enterBlower b .running).header else s)
    ∧ (x.state = .starting → s.reportsFault b = true →
      s.judgeBlower b = (tripped.offerDrive (.station station) (.stop 0)).header)
    ∧ (x.state = .running → s.judgeBlower b =
      if s.reportsFault b || s.readsStopped b && !s.readsLocal station then
        (tripped.offerDrive (.station station) (.stop 0)).header else s)
    ∧ (x.state = .stopping ∨ x.state = .tripped ∧ x.tripCause = some .startFail →
      s.judgeBlower b = if s.reportsFault b then tripped.header else s)
    ∧ (x.state = .stopped ∨ x.state = .lockedOut ∨ x.state = .tripped ∧ x.tripCause = some .fault → s.judgeBlower b = s)
    ∧ (x.state = .localMode →
      let u := s.modBlower b fun y =>
        { y with speed := if s.readsRunning b then (if y.speed = 0 then 1000 else y.speed) else 0 }
      s.judgeBlower b = if u.supplyNow = u.pool.supply then u else u.header)
    ∧ (x.state ≠ .unknown → x.state ≠ .localMode → s.blowerLocalSet b = (s.enterBlower b .localMode).header)
    ∧ (x.state = .unknown ∨ x.state = .localMode → s.blowerLocalSet b = s)
    ∧ (x.state = .localMode → s.blowerLocalClear b =
      if s.reportsFault b then (afresh.enterBlower b .tripped (some .fault)).header
      else if s.readsRunning b then took else (afresh.enterBlower b rest).header)
    ∧ (x.state ≠ .localMode → s.blowerLocalClear b = s)
    ∧ (x.state = .starting ∨ x.state = .running ∨ x.state = .localMode ∨ x.state = .unknown →
      s.blowerLost b = (s.enterBlower b .tripped (some .lost)).header)
    ∧ (x.state = .stopping ∨ x.state = .stopped ∨ x.state = .tripped ∨ x.state = .lockedOut → s.blowerLost b = s)

/-- R74: an accepted BLOWER_WRITE. The configuration is replaced and the lockout flag kept; a blower newly configured joins the tail
of the duty order, one no longer configured leaves it. Where neither the configured flag, the station nor the run-state point
changes, the state is kept. A blower newly configured is UNKNOWN with run start and run end absent, and one whose station or run-state
point changes enters UNKNOWN, with its time of last state change set (R75); either adopts at once where it can (R76). With the
configured flag cleared the blower leaves both lists and its three trip alarms are cleared, in the model's order
(notes/assumptions/28.md); that minimum running is judged at it is the model's choice (notes/assumptions/16.md), and so is that a
blower that was UNKNOWN already queues no notice and has minimum running not judged (notes/assumptions/27.md). -/
def Obligations.BlowerWriteRewritesTheBlower : Prop :=
  ∀ (s : State) (h : Hdr) (b : Nat) (c : BlowerCfg), s.ready → b < 6 → (s.blower b).writable = true → s.blowerOk b c = true →
    let old := (s.blower b).cfg
    ∃ t, exec (.blowerWrite h b c) s = .next t ∧ s.replied t (bareReply h 17 .done) ∧ t.stations = s.stations
      ∧ t.points = s.points ∧ t.channels = s.channels ∧ t.hand = s.hand
      ∧ t.config = { s.config with
        blowers := s.config.blowers.modify b fun x => (x.1, c),
        dutyOrder := if c.configured && !old.configured then s.pool.dutyOrder ++ [b]
          else if !c.configured && old.configured then s.pool.dutyOrder.filter (· ≠ b) else s.pool.dutyOrder }
      ∧ (c.configured = old.configured → c.station = old.station → c.runPoint = old.runPoint →
        t.blowers = s.blowers.modify b (fun x => { x with cfg := c }) ∧ t.zones = s.zones)
      ∧ (let a := s.addressed h
        let x := s.blower b
        let answers := fun u : State => t = u.answered h 17 .done []
        let written := a.modBlower b fun x => { x with cfg := c }
        let fresh := a.modBlower b fun x =>
          { cfg := c, lockout := x.lockout, state := .unknown, tripCause := none, speed := 0, runStart := none, runEnd := none,
            rampDeadline := none, runDownDeadline := none, lastChange := s.uptime }
        let added := fresh.modPool fun p => { p with dutyOrder := p.dutyOrder ++ [b] }
        let dropped := fresh.modPool fun p =>
          { p with dutyOrder := p.dutyOrder.filter (· ≠ b), runList := p.runList.filter (· ≠ b) }
        let again := a.modBlower b fun x => { x with cfg := c, lastChange := s.uptime }
        let unknown := written.enterBlower b .unknown
        let moved := c.station ≠ old.station ∨ c.runPoint ≠ old.runPoint
        (c.configured = false → old.configured = false → answers written)
        ∧ (c.configured = false → old.configured = true → answers (((dropped.clearAlarm .blowerFault (.blower b)).clearAlarm
          .blowerStartFail (.blower b)).clearAlarm .blowerLost (.blower b)).header)
        ∧ (c.configured = true → old.configured = false → b < s.blowers.length →
          answers (if added.adoptable b then added.judgeBlower b else added.header))
        ∧ (c.configured = true → old.configured = true → moved → x.state = .unknown → answers (again.judgeBlower b))
        ∧ (c.configured = true → old.configured = true → moved → x.state ≠ .unknown →
          answers (if unknown.adoptable b then unknown.judgeBlower b else unknown.header))
        ∧ (c.configured = true → old.configured = true → ¬ moved → answers written))

/-- R82, R83: BLOWER_LOCKOUT and BLOWER_RESET. The lockout flag is set or cleared. A STOPPED blower is locked out at once, a running
or starting one is stopped with one express STOP, a LOCKED_OUT one is released to STOPPED, any other keeps its state. A reset takes
a blower TRIPPED with FAULT or START_FAIL, which reports no fault, to its rest state. The Header Unit then takes up the change. -/
def Obligations.LockoutAndResetActByTheState : Prop :=
  ∀ (s : State) (h : Hdr) (b : Nat), s.ready → b < 6 → (s.blower b).cfg.configured = true →
    let x := s.blower b
    let on := (s.addressed h).modBlower b fun x => { x with lockout := true }
    let off := (s.addressed h).modBlower b fun x => { x with lockout := false }
    let rest : BlowerState := if x.lockout then .lockedOut else .stopped
    (x.state = .stopped → exec (.blowerLockoutOn h b) s = .next ((on.enterBlower b .lockedOut).header.answered h 19 .done []))
    ∧ (x.state = .running ∨ x.state = .starting → exec (.blowerLockoutOn h b) s
      = .next (((on.enterBlower b .stopping).offerDrive (.station x.cfg.station) (.stop 0)).header.answered h 19 .done []))
    ∧ (x.state ∈ [.stopping, .unknown, .tripped, .localMode, .lockedOut] →
      exec (.blowerLockoutOn h b) s = .next (on.answered h 19 .done []))
    ∧ (x.state = .lockedOut → exec (.blowerLockoutOff h b) s
      = .next ((off.enterBlower b .stopped).header.answered h 19 .done []))
    ∧ (x.state ≠ .lockedOut → exec (.blowerLockoutOff h b) s = .next (off.answered h 19 .done []))
    ∧ (x.state = .tripped → (x.tripCause = some .fault ∨ x.tripCause = some .startFail) → s.reportsFault b = false →
      exec (.blowerReset h b) s = .next (((s.addressed h).enterBlower b rest).header.answered h 20 .done []))
    ∧ (¬ (x.state = .tripped ∧ (x.tripCause = some .fault ∨ x.tripCause = some .startFail) ∧ s.reportsFault b = false) →
      exec (.blowerReset h b) s = .next ((s.addressed h).answered h 20 .refused []))


/-- R86, R87: POOL_WRITE replaces the pool configuration and keeps the duty order and stage-down since. DUTY_ORDER takes an order that
names each configured blower once and no other, and refuses any other. DUTY_ROTATE moves the head to the tail. These two change nothing
else. A POOL_WRITE that changes the pressure point or its limits judges the header pressure afresh (R92), and one that takes the point
away clears both its alarms; each judges minimum running (R89). Then the staging the pool is for: a start, of the first startable blower of the duty order and while none is STARTING (R77),
stage-up (R88), minimum running (R89) and stage-down (R90), each where it makes its request. -/
def Obligations.PoolRequestsChangeThePool : Prop :=
  (∀ (s : State) (h : Hdr), s.ready →
    (∀ c, s.poolOk c = true → ∃ t, exec (.poolWrite h c) s = .next t ∧ s.replied t (bareReply h 21 .done)
      ∧ t.config = { s.config with pool := c } ∧ t.pool.stageDownSince = s.pool.stageDownSince
      ∧ t.pool.allocDeadline = s.pool.allocDeadline ∧ t.pool.figures = s.pool.figures ∧ t.pool.supply = s.pool.supply
      ∧ t.zones = s.zones ∧ t.stations = s.stations ∧ t.points = s.points)
    ∧ (∀ c, s.poolOk c = true →
      let old := s.pool.cfg
      let written := (s.addressed h).modPool fun p => { p with cfg := c }
      let unwatched := ((written.modPool fun q => { q with pressureHigh := false, pressureLow := false }).clearAlarm
        .headerPressureHigh .header).clearAlarm .headerPressureLow .header
      let pressed :=
        if c.pressurePoint = old.pressurePoint ∧ c.pressureHigh = old.pressureHigh ∧ c.pressureLow = old.pressureLow then written
        else if c.pressurePoint = none then (if old.pressurePoint = none then written else unwatched)
        else written.judgePressure
      exec (.poolWrite h c) s = .next (pressed.judgeMinimum.answered h 21 .done []))
    ∧ (∀ order, order.Nodup → (∀ b, b ∈ order ↔ b < 6 ∧ (s.blower b).cfg.configured = true) →
      exec (.dutyOrder h order) s
        = .next (((s.addressed h).modPool fun p => { p with dutyOrder := order }).answered h 22 .done []))
    ∧ (∀ order, ¬ (order.Nodup ∧ ∀ b, b ∈ order ↔ b < 6 ∧ (s.blower b).cfg.configured = true) →
      exec (.dutyOrder h order) s = .next ((s.addressed h).answered h 22 .refused []))
    ∧ (∀ b rest, s.pool.dutyOrder = b :: rest → exec (.dutyRotate h) s
      = .next (((s.addressed h).modPool fun p => { p with dutyOrder := rest ++ [b] }).answered h 23 .done []))
    ∧ (s.pool.dutyOrder = [] → exec (.dutyRotate h) s = .next ((s.addressed h).answered h 23 .done [])))
  ∧ ∀ s : State,
    let starting := ∃ b < 6, (s.blower b).cfg.configured = true ∧ (s.blower b).state = .starting
    let startable := fun b : Nat => let x := s.blower b
      x.cfg.configured = true ∧ x.state = .stopped ∧ s.readsHealth x.cfg.station = .live
        ∧ s.readsFault x.cfg.station = false ∧ s.readsLocal x.cfg.station = false ∧ s.reportsFault b = false
        ∧ ∀ e ∈ x.runEnd, e + x.cfg.minStop ≤ s.uptime
    let inForce := if s.stormInForce then s.pool.cfg.minStorm else s.pool.cfg.minNormal
    let count := ((List.range 6).filter fun b => (s.blower b).cfg.configured
      && ((s.blower b).state == .running || (s.blower b).state == .starting)).length
    (starting ∨ (∀ b ∈ s.pool.dutyOrder, ¬ startable b) → s.askStart = s)
    ∧ (∀ before b after, s.pool.dutyOrder = before ++ b :: after → (∀ d ∈ before, ¬ startable d) → startable b →
      ¬ starting → s.askStart = ((s.enterBlower b .starting).offerDrive (.station (s.blower b).cfg.station)
        (.run (s.blower b).cfg.turndown)).modPool fun p => { p with stageUpSince := none })
    ∧ (s.pool.settled = true → count < inForce → s.judgeMinimum = s.askStart)
    ∧ (s.pool.settled = false ∨ inForce ≤ count → s.judgeMinimum = s)
    ∧ (∀ demand, let spare := demand ≤ s.pool.supply * s.pool.cfg.upFraction / 1000
      (spare → s.stageUp demand = s.modPool fun p => { p with stageUpSince := none })
      ∧ (¬ spare → s.pool.stageUpSince = none → s.stageUp demand = s.modPool fun p => { p with stageUpSince := some s.uptime })
      ∧ (∀ d, ¬ spare → s.pool.stageUpSince = some d →
        s.stageUp demand = if d + s.pool.cfg.upDelay ≤ s.uptime then s.askStart else s))
    ∧ ((∀ b ∈ s.pool.runList, (s.blower b).state ≠ .running) →
      ∀ demand, s.stageDown demand = s.modPool fun p => { p with stageDownSince := none })
    ∧ (∀ before b after, s.pool.runList = before ++ b :: after → (s.blower b).state = .running →
      (∀ d ∈ after, (s.blower d).state ≠ .running) → ∀ demand,
      let x := s.blower b
      let needed := (s.pool.supply - x.cfg.rated) * s.pool.cfg.downFraction / 1000 ≤ demand
      (needed → s.stageDown demand = s.modPool fun p => { p with stageDownSince := none })
      ∧ (¬ needed → s.pool.stageDownSince = none →
        s.stageDown demand = s.modPool fun p => { p with stageDownSince := some s.uptime })
      ∧ (∀ d, ¬ needed → s.pool.stageDownSince = some d →
        let may := d + s.pool.cfg.downDelay ≤ s.uptime ∧ (∀ r ∈ x.runStart, r + x.cfg.minRun ≤ s.uptime) ∧ inForce < count
        (may → s.stageDown demand = ((s.enterBlower b .stopping).offerDrive (.station x.cfg.station) (.stop 0)).modPool
          fun p => { p with stageDownSince := none })
        ∧ (¬ may → s.stageDown demand = s)))

/-! ### Return channels -/

/-- R108, R142: an accepted CHANNEL_WRITE of a DISABLED channel: the record after it, and the passages on its former pumps ended, which
are its own pump where it was configured and then the partner pump of a joined pair, in the model's order (notes/assumptions/30.md). No
other passage ends. Auto-start pending is cleared (R123). -/
def Obligations.ChannelWriteRewritesTheChannel : Prop :=
  ∀ (s : State) (h : Hdr) (i : Nat) (c : ChannelCfg), s.ready → i < 4 → s.dormant i = false →
    (s.channel i).state = .disabled → s.channelOk i c = true →
    let x := s.channel i
    ∃ t, exec (.channelWrite h i c) s = .next t ∧ s.replied t (bareReply h 25 .done)
      ∧ t.channels = s.channels.modify i (fun x =>
        { x with
          cfg := c, autoPending := false, lastMeter := if c.volumePoint = x.cfg.volumePoint then x.lastMeter else none,
          accumulator := if c.influentPoint = x.cfg.influentPoint then x.accumulator else 0,
          lastInfluent := if c.influentPoint = x.cfg.influentPoint then x.lastInfluent else none })
      ∧ t.pairs = s.pairs ∧ t.config = { s.config with channels := s.config.channels.modify i fun _ => c }
      ∧ t.hand = s.hand.filter (fun p => ¬ (x.cfg.configured = true ∧ p.target = ⟨.pump, x.cfg.pump⟩)
        ∧ ¬ (i % 2 = 0 ∧ (s.pair (i / 2)).joined = true ∧ p.target = ⟨.pump, (s.channel (i + 1)).cfg.pump⟩))
      ∧ t.zones = s.zones ∧ t.points = s.points ∧ t.blowers = s.blowers

/-- R111 to R113: CHANNEL_START and CHANNEL_STOP of a configured channel that is not dormant. A start in DISABLED loads the target,
remaining becomes it, the counts become 0, and the channel enters FAULTED, PAUSED or RUNNING; elsewhere it is BUSY. A stop leaves the
channel DISABLED with auto-start pending clear and no pause, and keeps its figures for reading (of a DISABLED channel it clears
auto-start pending: the model's choice, notes/assumptions/30.md). Then what a started channel counts: the metering of a volume reading
and the completion of cycles (R114, R115), whose law of the figures a start establishes and every reading keeps; the accumulator (R116);
and the level pause (R117), with its pause-limit timer (R118). A dormant channel takes no part in a reading (R107). That the
accumulator of a channel that is not configured counts as well is the model's choice (notes/assumptions/30.md). -/
def Obligations.ChannelsStartAndStop : Prop :=
  (∀ (s : State) (h : Hdr) (i : Nat), s.ready → i < 4 → i < s.channels.length → s.dormant i = false →
    (s.channel i).cfg.configured = true →
    ((s.channel i).state ≠ .disabled → exec (.channelStart h i) s = .next ((s.addressed h).answered h 26 .busy []))
    ∧ ((s.channel i).state = .disabled →
      let x := s.channel i
      let target := match x.cfg.mode with
        | .val .ratio => max 1 (min 65535
            (x.accumulator * (if s.stormInForce then x.cfg.stormRatio else x.cfg.ratio) / 1000 / 10))
        | _ => x.cfg.target
      let duty := s.pumpAvailable (s.dutyPump i)
      let other := ∃ st ∈ s.otherPump i, s.pumpAvailable st = true
      let low := ∃ p ∈ x.cfg.levelPoint, s.pointGood p .level = true ∧ (s.point p).value < x.cfg.minLevel
      ∃ t, exec (.channelStart h i) s = .next t ∧ s.replied t (bareReply h 26 .done) ∧ t.config = s.config
        ∧ (t.channel i).target = target ∧ (t.channel i).remaining = target ∧ (t.channel i).counted = 0
        ∧ (t.channel i).cycles = 0 ∧ (t.channel i).overshoot = 0 ∧ (t.channel i).lastMeter = none
        ∧ (t.channel i).Metered 0
        ∧ (t.channel i).autoPending = false
        ∧ (x.cfg.mode = .val .ratio → (t.channel i).accumulator = 0)
        ∧ (x.cfg.mode ≠ .val .ratio → (t.channel i).accumulator = x.accumulator)
        ∧ (¬ duty = true → ¬ other → (t.channel i).state = .faulted)
        ∧ (duty = true ∨ other → low → (t.channel i).state = .paused ∧ (t.channel i).pauseStart = some s.uptime)
        ∧ (duty = true ∨ other → ¬ low → (t.channel i).state = .running)
        ∧ (duty = true → t.pairs = s.pairs) ∧ (∀ c, c ≠ i → t.channel c = s.channel c)
        ∧ t.hand = s.hand ∧ t.zones = s.zones ∧ t.points = s.points ∧ t.blowers = s.blowers)
    ∧ ∃ t, exec (.channelStop h i) s = .next t ∧ s.replied t (bareReply h 27 .done) ∧ t.config = s.config
      ∧ t.channels = s.channels.modify i (fun x =>
        if x.state = .disabled then { x with autoPending := false }
        else { x with state := .disabled, pauseStart := none, pauseDeadline := none, autoPending := false })
      ∧ t.pairs = s.pairs ∧ t.hand = s.hand ∧ t.zones = s.zones ∧ t.points = s.points ∧ t.blowers = s.blowers)
  ∧ (∀ (s : State) (c v : Nat), c < s.channels.length →
    let x := s.channel c
    let t := s.meter c v
    let y := t.channel c
    (x.state = .disabled → t = s)
    ∧ (x.state ≠ .disabled → x.lastMeter = none → t = s.modChannel c fun x => { x with lastMeter := some v })
    ∧ (∀ d, d ≠ c → t.channel d = s.channel d)
    ∧ (∀ last, x.state ≠ .disabled → x.lastMeter = some last →
      let delta := (v + 65536 - last) % 65536
      let counted := (x.counted + delta) % 4294967296
      let e := delta - x.remaining
      (delta < x.remaining → t = s.modChannel c fun x =>
        { x with lastMeter := some v, counted := counted, remaining := x.remaining - delta })
      ∧ (x.remaining ≤ delta → y.lastMeter = some v ∧ y.counted = counted ∧ y.cfg = x.cfg
        ∧ (x.cfg.mode = .val .batch → y.state = .disabled ∧ y.target = 0 ∧ y.remaining = 0 ∧ y.overshoot = e
          ∧ y.cycles = min 65535 (x.cycles + 1) ∧ y.accumulator = x.accumulator
          ∧ (x.cfg.noticeOnCycle = true → s.port.notices.length < 32 →
            s.port.notices ++ [.channelDone c y.cycles y.counted] <+: t.port.notices))
        ∧ (x.cfg.mode = .val .cycle → 1 ≤ x.cfg.target → y.state = x.state ∧ y.target = x.cfg.target
          ∧ y.remaining = x.cfg.target - e % x.cfg.target ∧ y.overshoot = x.overshoot
          ∧ y.cycles = min 65535 (x.cycles + 1 + e / x.cfg.target) ∧ y.accumulator = x.accumulator)
        ∧ (x.cfg.mode = .val .ratio →
          let first := max 1 (min 65535
            (x.accumulator * (if s.stormInForce then x.cfg.stormRatio else x.cfg.ratio) / 1000 / 10))
          y.state = x.state ∧ y.accumulator = 0 ∧ y.overshoot = x.overshoot
          ∧ (e < first → y.target = first ∧ y.remaining = first - e ∧ y.cycles = min 65535 (x.cycles + 1))
          ∧ (first ≤ e → y.target = 1 ∧ y.remaining = 1 ∧ y.cycles = min 65535 (x.cycles + 2 + (e - first))))))
    ∧ (∀ sum, x.Metered sum → x.overshoot = 0 → 1 ≤ x.cfg.target →
      ∃ done : List Nat, y.Metered (sum + done.sum) ∧ (x.cycles ≤ 65535 → y.cycles = min 65535 (x.cycles + done.length))
        ∧ (done = [] ∨ done.head? = some x.target)))
  ∧ ∀ (s : State) (c p : Nat) (accepted : Bool), c < 4 → c < s.channels.length →
    let x := s.channel c
    let t := s.channelsPoint p accepted
    let y := t.channel c
    let v := (s.point p).value
    (s.dormant c = true → y = x)
    ∧ (s.dormant c = false →
      (x.cfg.volumePoint = p → s.pointGood p .volume = true → accepted = true →
        let m := (s.meter c v).channel c
        y.counted = m.counted ∧ y.remaining = m.remaining ∧ y.target = m.target ∧ y.cycles = m.cycles
          ∧ y.overshoot = m.overshoot ∧ y.lastMeter = m.lastMeter ∧ y.state = m.state)
      ∧ (x.cfg.volumePoint = p → (s.point p).validity = .none → y.lastMeter = none ∧ y.counted = x.counted)
      ∧ (x.cfg.volumePoint ≠ p ∨ accepted = false → y.counted = x.counted ∧ y.remaining = x.remaining
        ∧ y.target = x.target ∧ y.cycles = x.cycles)
      ∧ (x.cfg.influentPoint = some p → s.pointGood p .inflow = false → y.lastInfluent = none)
      ∧ (x.cfg.influentPoint = some p → s.pointGood p .inflow = true → accepted = true →
        y.lastInfluent = some s.uptime ∧ (x.lastInfluent = none → y.accumulator = x.accumulator)
        ∧ ∀ d, x.lastInfluent = some d → y.accumulator = min 4294967295 (x.accumulator + v * (s.uptime - d)))
      ∧ (x.cfg.influentPoint ≠ some p → y.lastInfluent = x.lastInfluent)
      ∧ (x.cfg.levelPoint = some p → s.pointGood p .level = true → accepted = true →
        (x.state = .running → v < x.cfg.minLevel → y.state = .paused ∧ y.pauseStart = some s.uptime
          ∧ y.pauseDeadline = some (s.uptime + x.cfg.pauseLimit * 60))
        ∧ (x.state = .paused → x.cfg.minLevel + 10 ≤ v →
          y.state = .running ∧ y.pauseStart = none ∧ y.pauseDeadline = none)
        ∧ (¬ (x.state = .running ∧ v < x.cfg.minLevel) → ¬ (x.state = .paused ∧ x.cfg.minLevel + 10 ≤ v) →
          y.state = x.state)))


/-- R121: PAIR_SET. BUSY unless both channels are DISABLED; the flag already held is DONE and changes nothing; a join of channels that
are not both configured is REFUSED. A join or a parting sets the flag and keeps the configuration, and after a parting the upper
channel stands DISABLED with its figures 0. BUSY is judged first (the model's choice, notes/assumptions/30.md). R138: a join that finds
both pumps held at RUN turns the partner's demand to STOP and offers its station an express STOP, and ends no passage. The duty selection
is kept, unless a lower channel with auto-start pending starts at once and finds its duty pump not available (R112, R123). -/
def Obligations.PairSetJoinsAndParts : Prop :=
  ∀ (s : State) (h : Hdr) (k : Nat) (join : Bool), s.ready → k < 2 →
    let lower := s.channel (2 * k)
    let upper := s.channel (2 * k + 1)
    let a := s.addressed h
    ((lower.state ≠ .disabled ∨ upper.state ≠ .disabled) → exec (.pairSet h k join) s = .next (a.answered h 29 .busy []))
    ∧ (lower.state = .disabled → upper.state = .disabled →
      ((s.pair k).joined = join → exec (.pairSet h k join) s = .next (a.answered h 29 .done []))
      ∧ ((s.pair k).joined = false → ¬ (lower.cfg.configured = true ∧ upper.cfg.configured = true) →
        exec (.pairSet h k true) s = .next (a.answered h 29 .refused []))
      ∧ ((s.pair k).joined ≠ join → (join = true → lower.cfg.configured = true ∧ upper.cfg.configured = true) →
        ∃ t, exec (.pairSet h k join) s = .next t ∧ s.replied t (bareReply h 29 .done)
          ∧ t.config = { s.config with pairs := s.config.pairs.modify k fun _ => ⟨join, .first⟩ }
          ∧ (join = false → 2 * k + 1 < s.channels.length → t.channel (2 * k + 1) = Channel.start upper.cfg)
          ∧ (let both := join && s.pumpHeldRun lower.cfg.pump && s.pumpHeldRun upper.cfg.pump
            t.hand = if both then s.hand.map fun p => if p.target = ⟨.pump, upper.cfg.pump⟩ then
              { p with demand := .stop 0 } else p else s.hand)
          ∧ (lower.autoPending = false → (t.pair k).duty = (s.pair k).duty)
          ∧ (let parted := (a.modPair k fun p => { p with joined := false }).modChannel (2 * k + 1) fun x => Channel.start x.cfg
            let joined := ((a.modPair k fun p => { p with joined := true }).modChannel (2 * k + 1) fun x =>
              { x with autoPending := false }).joinHandStop lower.cfg.pump upper.cfg.pump
            t = ((a.syncCommands (if join then joined else parted)).judgeChannels).answered h 29 .done [])
          ∧ t.zones = s.zones ∧ t.points = s.points ∧ t.blowers = s.blowers ∧ t.stations = s.stations))
    ∧ ∀ first partner, s.pumpHeldRun first = true → s.pumpHeldRun partner = true → s.joinHandStop first partner =
      ({ s with hand := s.hand.map fun (p : Passage) => if p.target = ⟨.pump, partner⟩ then
        { p with demand := .stop 0 } else p } : State).offerDrive (.station partner) (.stop 0)

/-- R122: DUTY_SWAP. REFUSED of a pair that is not joined, or whose channel is RUNNING or PAUSED while the other pump is not
available. Otherwise DONE: the duty selection moves to the other pump in any state of the channel, and stands there where the channel is
RUNNING or PAUSED, DISABLED with no auto-start pending, or FAULTED with neither pump available. No other configuration changes. Then what a configured channel that is not dormant does when it judges its pumps: in
RUNNING and PAUSED the changeover or the fault (R119), in FAULTED the recovery (R120), in DISABLED the auto-start (R123). That
CHANNEL_PAUSED_LONG is cleared before CHANNEL_NO_PUMP is raised is the model's choice (notes/assumptions/30.md). -/
def Obligations.DutySwapMovesTheDuty : Prop :=
  (∀ (s : State) (h : Hdr) (k : Nat), s.ready → k < 2 → k < s.pairs.length →
    let st := (s.channel (2 * k)).state
    let other := ∃ p ∈ s.otherPump (2 * k), s.pumpAvailable p = true
    let a := s.addressed h
    ((s.pair k).joined = false → exec (.dutySwap h k) s = .next (a.answered h 30 .refused []))
    ∧ ((s.pair k).joined = true → (st = .running ∨ st = .paused) → ¬ other →
      exec (.dutySwap h k) s = .next (a.answered h 30 .refused []))
    ∧ ((s.pair k).joined = true → ((st = .running ∨ st = .paused) → other) →
      ∃ t, exec (.dutySwap h k) s = .next t ∧ s.replied t (bareReply h 30 .done) ∧ t.config = s.config
        ∧ ((st = .running ∨ st = .paused ∨ st = .disabled ∧ (s.channel (2 * k)).autoPending = false) →
          (t.pair k).duty = if (s.pair k).duty = .first then .partner else .first)
        ∧ (st = .faulted → s.liveChannel (2 * k) = true → ¬ other → s.pumpAvailable (s.dutyPump (2 * k)) = false →
          (t.pair k).duty = (if (s.pair k).duty = .first then .partner else .first) ∧ (t.channel (2 * k)).state = .faulted)
        ∧ (let moved := a.modPair k fun p => { p with duty := if p.duty = .first then .partner else .first }
          t = ((a.syncCommands moved).judgeChannels).answered h 30 .done [])
        ∧ t.hand = s.hand ∧ t.zones = s.zones ∧ t.points = s.points ∧ t.blowers = s.blowers ∧ t.stations = s.stations))
  ∧ (∀ (s : State) (c : Nat), s.liveChannel c = false → s.judgeChannel c = s)
  ∧ ∀ (s : State) (c : Nat), s.liveChannel c = true →
    let x := s.channel c
    let duty := s.pumpAvailable (s.dutyPump c) = true
    let other := ∃ p ∈ s.otherPump c, s.pumpAvailable p = true
    let low := ∃ p ∈ x.cfg.levelPoint, s.pointGood p .level = true ∧ (s.point p).value < x.cfg.minLevel
    let moved := s.modPair (c / 2) fun p => { p with duty := if p.duty = .first then .partner else .first }
    let faulted := s.modChannel c fun x => { x with state := .faulted, pauseStart := none, pauseDeadline := none }
    let recovered := (if s.pumpAvailable (s.dutyPump c) then s else moved).clearAlarm .channelNoPump (.channel c)
    (x.state = .running ∨ x.state = .paused →
      (duty → s.judgeChannel c = s)
      ∧ (¬ duty → other → s.judgeChannel c
        = (moved.raiseAlarm .channelChangeover (.channel c) none).clearAlarm .channelChangeover (.channel c))
      ∧ (¬ duty → ¬ other → s.judgeChannel c
        = (if x.state = .paused then faulted.clearAlarm .channelPausedLong (.channel c) else faulted).raiseAlarm
          .channelNoPump (.channel c) none))
    ∧ (x.state = .faulted →
      (¬ duty → ¬ other → s.judgeChannel c = s)
      ∧ (duty ∨ other → low → s.judgeChannel c = recovered.modChannel c fun x =>
        { x with
          state := .paused, pauseStart := some s.uptime, pauseDeadline := some (s.uptime + x.cfg.pauseLimit * 60) })
      ∧ (duty ∨ other → ¬ low → s.judgeChannel c = recovered.modChannel c fun x =>
        { x with state := .running, pauseStart := none, pauseDeadline := none }))
    ∧ (x.state = .disabled → s.judgeChannel c =
      if x.autoPending && s.readsHealth (s.dutyPump c) == .live then s.startChannel c else s)

/-! ### Reset, and time -/

/-- The state after reset is safe, has its grants within the supply figure, and nothing waits in it; and power-on with the straps low
finds it again (R176; it is the state an invalid image gives: R24, R46, R73, R93, R106, R125, R135, R146, R164, R178). That State.reset is
this power-on, its straps low and its image blank and invalid, is the model's choice (notes/assumptions/5.md), and so are the fields of
the blank records (notes/assumptions/6.md). The step lemmas that keep what is stated here are StepKeepsTheBounds and
StepKeepsTheGrantsWithinTheSupply. -/
def Obligations.ResetIsSafeAndComesFromPowerOn : Prop :=
  Safe State.reset ∧ State.reset.GrantsHold ∧ State.reset.pending = []
    ∧ exec (.powerOn 0 false) State.reset = .next State.reset

/-- A step on an empty queue is one second of the uptime clock of chapter 3.2, which is the model's choice (DESIGN CHOICE,
notes/assumptions/3.md): the clock advances, the expiries that have come due join the queue, and nothing else changes. The queue holds
these expiries and no other command, each once, in the order of the command table and within a row in index order, in the order of the
hand table or in that of the alarm list, which is the model's choice too. -/
def Obligations.SecondPassesOnAnEmptyQueue : Prop :=
  ∀ s : State, s.pending = [] → s.uptime + 1 < 4294967296 →
    ∃ due, step s = .next { s with uptime := s.uptime + 1, pending := due }
      ∧ (∀ p, .staleTimerExpiry p ∈ due ↔ p < 128 ∧ ∃ d ∈ (s.point p).staleDeadline, d ≤ s.uptime + 1)
      ∧ (∀ z, .trimTimerExpiry z ∈ due ↔ z < 24 ∧ ∃ d ∈ (s.zone z).trimDeadline, d ≤ s.uptime + 1)
      ∧ (∀ l, .startGraceExpiry l ∈ due ↔ l < 6 ∧ ∃ d ∈ (s.lane l).graceDeadline, d ≤ s.uptime + 1)
      ∧ (∀ b, .rampTimeElapsed b ∈ due ↔ b < 6 ∧ (s.blower b).state = .starting
        ∧ ∃ r ∈ (s.blower b).runStart, r + (s.blower b).cfg.rampTime = s.uptime + 1)
      ∧ (∀ b, .rampTimerExpiry b ∈ due ↔ b < 6 ∧ ∃ d ∈ (s.blower b).rampDeadline, d ≤ s.uptime + 1)
      ∧ (∀ b, .runDownEnd b ∈ due ↔ b < 6 ∧ ∃ d ∈ (s.blower b).runDownDeadline, d ≤ s.uptime + 1)
      ∧ (.allocationTimerExpiry ∈ due ↔ ∃ d ∈ s.pool.allocDeadline, d ≤ s.uptime + 1)
      ∧ (∀ c, .pauseLimitExpiry c ∈ due ↔ c < 4 ∧ ∃ d ∈ (s.channel c).pauseDeadline, d ≤ s.uptime + 1)
      ∧ (.entryConfirmExpiry ∈ due ↔ ∃ e ≤ s.uptime + 1, s.storm.entryTimer = .running e)
      ∧ (.holdTimerExpiry ∈ due ↔ ∃ e ≤ s.uptime + 1, s.storm.holdTimer = .running e)
      ∧ (.exitConfirmExpiry ∈ due ↔ ∃ e ≤ s.uptime + 1, s.storm.exitTimer = .running e)
      ∧ (∀ t, .deadlineExpiry t ∈ due ↔ ∃ x ∈ s.hand, x.target = t ∧ ∃ d ∈ x.deadline, d ≤ s.uptime + 1)
      ∧ (∀ code src, .escalationExpiry code src ∈ due ↔ ∃ r ∈ s.alarms.records, r.code = code ∧ r.source = src
        ∧ r.state = .raisedUnack ∧ ∃ d ∈ r.unack, d + s.alarms.escalation * 60 = s.uptime + 1)
      ∧ (let now := s.uptime + 1
        let come := fun d : Option Nat => d.any fun at' => decide (at' ≤ now)
        let ended := fun x : StormTimer => match x with
          | .running e => decide (e ≤ now)
          | _ => false
        let row := fun (n : Nat) (holds : Nat → Bool) (c : Nat → Instr) => ((List.range n).filter holds).map c
        let one := fun (holds : Bool) (c : Instr) => if holds then [c] else []
        due = row 128 (fun p => come (s.point p).staleDeadline) .staleTimerExpiry
          ++ row 24 (fun z => come (s.zone z).trimDeadline) .trimTimerExpiry
          ++ row 6 (fun l => come (s.lane l).graceDeadline) .startGraceExpiry
          ++ row 6 (fun b => decide ((s.blower b).state = .starting)
            && (s.blower b).runStart.any fun r => decide (r + (s.blower b).cfg.rampTime = now)) .rampTimeElapsed
          ++ row 6 (fun b => come (s.blower b).rampDeadline) .rampTimerExpiry
          ++ row 6 (fun b => come (s.blower b).runDownDeadline) .runDownEnd
          ++ one (come s.pool.allocDeadline) .allocationTimerExpiry
          ++ row 4 (fun c => come (s.channel c).pauseDeadline) .pauseLimitExpiry
          ++ one (ended s.storm.entryTimer) .entryConfirmExpiry ++ one (ended s.storm.holdTimer) .holdTimerExpiry
          ++ one (ended s.storm.exitTimer) .exitConfirmExpiry
          ++ (s.hand.filter fun x => come x.deadline).map (fun x => .deadlineExpiry x.target)
          ++ (s.alarms.records.filter fun r => decide (r.state = .raisedUnack)
            && r.unack.any fun d => decide (d + s.alarms.escalation * 60 = now)).map fun r => .escalationExpiry r.code r.source)

/-! ### Frames and readings -/

/-- R179, R180, R181: what the encoders write is read back. Every well-formed request, with every field at every value its payload
admits, is read from its payload. Every plant frame and every field frame is received whole, with the content it was formed
around. The payload codings that the spec leaves open are the model's choice (notes/assumptions/7.md). -/
def Obligations.RequestsAndFramesReadBack : Prop :=
  (∀ (r : Req) (p : List Byte), r.wf = true → r.payload = some p → p.length ≤ 240 ∧ readRequest p = r)
  ∧ (∀ (dest source kind tag : Byte) (p : List Byte), p.length ≤ 240 →
    readPlantFrame (plantFrame dest source kind tag p) = .whole ⟨dest, source, kind, tag, p⟩)
  ∧ (∀ body : List Byte, body.length ≤ 40 → readFieldFrame (fieldFrame body) = .whole body)

/-- R6, R7, R165, R180, R181: frames that are no request and no answer. On the plant port a frame that is rejected, or cut by an idle,
is a check error, and one for another address or of another kind than REQUEST is discarded without count. On the field line a
frame that is rejected, cut by an idle or no valid answer is a format error of the polled station inside a window, and unsolicited
outside one. -/
def Obligations.OtherFramesAreCountedOrPassedOver : Prop :=
  ∀ (s : State) (chars : List Byte),
    let checked := { s with port := { s.port with checkErrors := min 65535 (s.port.checkErrors + 1) } }
    let unasked := { s with flc := { s.flc with unsolicited := min 65535 (s.flc.unsolicited + 1) } }
    let badly := fun (t : Turn) => { s with stations := s.stations.modify t.station fun x =>
      { x with counters := { x.counters with formatErrors := min 65535 (x.counters.formatErrors + 1) } } }
    (readPlantFrame chars = .rejected → exec (.plantFrameReceived chars) s = .next checked)
    ∧ exec (.framingIdleTimeout .plant) s = .next checked
    ∧ (readPlantFrame chars = .passedOver → exec (.plantFrameReceived chars) s = .next s)
    ∧ (∀ f, readPlantFrame chars = .whole f → f.dest.toNat ≠ s.port.plantAddr ∨ f.kind ≠ 1#8 →
      exec (.plantFrameReceived chars) s = .next s)
    ∧ (∀ t, s.flc.turn = some t → t.phase = .window →
      exec (.framingIdleTimeout .field) s = .next (badly t)
      ∧ (readFieldFrame chars = .rejected → exec (.fieldFrameReceived chars) s = .next (badly t).finish)
      ∧ (∀ body, readFieldFrame chars = .whole body → (∀ a, readAnswer body = some a → a.source ≠ t.answerAddr) →
        exec (.fieldFrameReceived chars) s = .next (badly t).finish))
    ∧ ((∀ t, s.flc.turn = some t → t.phase = .sending) →
      exec (.framingIdleTimeout .field) s = .next unasked
      ∧ (readFieldFrame chars ≠ .passedOver → exec (.fieldFrameReceived chars) s = .next unasked.finish))

/-- R36, Table 17 (R33), Table 23 (R48): the value of a well-formed reading, what a sequence number is judged, and where a reading
moves the ammonia band. -/
def Obligations.ReadingsAreJudgedByTheTables : Prop :=
  (∀ (c : PointCfg) (k : Kind) (r : Reading), c.kind = .val k → 0 < c.denominator →
    (readingValue c r : Int) = max 0 (min (kindTop k : Int)
      (if r.tag.isSome then r.value else Int.tdiv (r.value * c.numerator) c.denominator + c.offset)))
  ∧ (∀ n, judgeSeq none n = .first)
  ∧ (∀ k n, k < 256 → n < 256 →
    (n = k → judgeSeq (some k) n = .again) ∧ (n = (k + 1) % 256 → judgeSeq (some k) n = .next)
    ∧ (n ≠ k → n ≠ (k + 1) % 256 → judgeSeq (some k) n = .gap (((n : Int) - k - 1) % 256).toNat))
  ∧ (∀ (c : LaneCfg) (band : Band) (v : Nat), c.thresholdA < c.thresholdB → band ≠ .storm →
    let a : Int := (c.thresholdA : Int) - c.hysteresis
    let b : Int := (c.thresholdB : Int) - c.hysteresis
    (c.thresholdB < v → bandAfter c band v = .high)
    ∧ (v ≤ c.thresholdB → (v : Int) < a → bandAfter c band v = .low)
    ∧ (v ≤ c.thresholdB → a ≤ v →
      (band = .low → bandAfter c band v = if c.thresholdA < v then .mid else .low)
      ∧ (band = .mid → bandAfter c band v = .mid)
      ∧ (band = .high → bandAfter c band v = if (v : Int) < b then .mid else .high)))

/-! ### Requests that change nothing -/

/-- R168: a request that cannot be read is MALFORMED. One that names a station, point, zone, lane, blower, channel, pair or group
outside its range is REFUSED, and so is one to a dormant channel (R107) and an ALARM_LIST index above 63 (R159). Of an unconfigured
blower or channel: NO_OBJECT (R82, R83, R112, R113). Nothing changes. That a MALFORMED reply carries the code the payload began with,
known or not, is the model's choice (notes/assumptions/7.md). -/
def Obligations.RequestsForNothingChangeNothing : Prop :=
  ∀ (s : State) (h : Hdr), s.ready →
    let no := fun (code : Nat) (status : Status) => (Host.Outcome.next ((s.addressed h).answered h code status []) : Out)
    (∀ code, exec (.malformedRequest h code) s = no code.toNat .malformed)
    ∧ (∀ i ≥ 48, exec (.mapRead h i) s = no 3 .refused ∧ exec (.mapClear h i) s = no 4 .refused
      ∧ exec (.expressRead h i) s = no 11 .refused ∧ ∀ f, exec (.stationCounters h i f) s = no 12 .refused)
    ∧ (∀ p ≥ 128, exec (.pointRead h p) s = no 7 .refused ∧ ∀ c, exec (.pointWrite h p c) s = no 6 .refused)
    ∧ (∀ z ≥ 24, exec (.zoneRead h z) s = no 16 .refused ∧ ∀ c, exec (.zoneWrite h z c) s = no 15 .refused)
    ∧ (∀ l ≥ 6, exec (.laneServiceOff h l) s = no 14 .refused ∧ exec (.laneServiceOn h l) s = no 14 .refused
      ∧ ∀ c, exec (.laneWrite h l c) s = no 13 .refused)
    ∧ (∀ b ≥ 6, exec (.blowerRead h b) s = no 18 .refused ∧ exec (.blowerReset h b) s = no 20 .refused
      ∧ exec (.blowerLockoutOn h b) s = no 19 .refused ∧ exec (.blowerLockoutOff h b) s = no 19 .refused
      ∧ ∀ c, exec (.blowerWrite h b c) s = no 17 .refused)
    ∧ (∀ c, c ≥ 4 ∨ c % 2 = 1 ∧ (s.pair (c / 2)).joined = true →
      exec (.channelRead h c) s = no 28 .refused ∧ exec (.channelStart h c) s = no 26 .refused
      ∧ exec (.channelStop h c) s = no 27 .refused ∧ ∀ x, exec (.channelWrite h c x) s = no 25 .refused)
    ∧ (∀ k ≥ 2, exec (.dutySwap h k) s = no 30 .refused ∧ ∀ j, exec (.pairSet h k j) s = no 29 .refused)
    ∧ (∀ g ≥ 8, ∀ m x, exec (.groupWrite h g m x) s = no 5 .refused)
    ∧ (∀ i ≥ 64, exec (.alarmList h i) s = no 37 .refused)
    ∧ (∀ b < 6, (s.blower b).cfg.configured = false → exec (.blowerLockoutOn h b) s = no 19 .noObject
      ∧ exec (.blowerLockoutOff h b) s = no 19 .noObject ∧ exec (.blowerReset h b) s = no 20 .noObject)
    ∧ (∀ c < 4, s.dormant c = false → (s.channel c).cfg.configured = false →
      exec (.channelStart h c) s = no 26 .noObject ∧ exec (.channelStop h c) s = no 27 .noObject)

/-- R25, R29, R43, R47, R51, R74, R87, R108, R127: a configuration write that fails a check is REFUSED, and one to a blower or channel
in a state that takes no write is BUSY. Nothing changes. That a BLOWER_WRITE is judged BUSY before its other checks is the model's
choice (notes/assumptions/27.md). -/
def Obligations.FailingWritesChangeNothing : Prop :=
  ∀ (s : State) (h : Hdr), s.ready →
    let no := fun (code : Nat) (status : Status) => (Host.Outcome.next ((s.addressed h).answered h code status []) : Out)
    (∀ st addr role legacy alarm, (48 ≤ st ∨ addr = 0 ∨ 111 < addr ∨ Coded.listed role = false
      ∨ ∃ j < 48, j ≠ st ∧ (s.station j).cfg.configured = true ∧ (s.station j).cfg.addr = addr) →
      exec (.mapWrite h st addr role legacy alarm) s = no 2 .refused)
    ∧ (∀ g members answering, (8 ≤ g ∨ 8 < members.length
      ∨ (∃ i ∈ members, 48 ≤ i ∨ (s.station i).cfg.configured = false) ∨ ¬ members.Nodup
      ∨ (answering = none ∧ members ≠ []) ∨ (∃ a ∈ answering, a ∉ members)
      ∨ ∃ z < 24, (s.zone z).cfg.configured = true ∧ (s.zone z).cfg.valve = .group g
        ∧ ∃ y < 24, y ≠ z ∧ (s.zone y).cfg.configured = true ∧ ∃ i ∈ s.boundStations (s.zone y).cfg.valve, i ∈ members) →
      exec (.groupWrite h g members answering) s = no 5 .refused)
    ∧ (∀ p c, s.pointOk p c = false → exec (.pointWrite h p c) s = no 6 .refused)
    ∧ (∀ l c, s.laneOk l c = false → exec (.laneWrite h l c) s = no 13 .refused)
    ∧ (∀ z c, s.zoneOk z c = false → exec (.zoneWrite h z c) s = no 15 .refused)
    ∧ (∀ b c, (s.blower b).writable = true → s.blowerOk b c = false → exec (.blowerWrite h b c) s = no 17 .refused)
    ∧ (∀ b < 6, ∀ c, (s.blower b).cfg.configured = true →
      (s.blower b).state ∈ [.starting, .running, .stopping, .localMode] → exec (.blowerWrite h b c) s = no 17 .busy)
    ∧ (∀ c, s.poolOk c = false → exec (.poolWrite h c) s = no 21 .refused)
    ∧ (∀ i c, (s.channel i).state = .disabled → s.channelOk i c = false → exec (.channelWrite h i c) s = no 25 .refused)
    ∧ (∀ i < 4, ∀ c, s.dormant i = false → (s.channel i).state ≠ .disabled → exec (.channelWrite h i c) s = no 25 .busy)
    ∧ (∀ c, s.stormOk c = false → exec (.stormWrite h c) s = no 31 .refused)

/-- The checks the configuration writes make are those of their rules: POINT_WRITE (R43), LANE_WRITE (R47), ZONE_WRITE (R51),
BLOWER_WRITE (R74), POOL_WRITE (R87), CHANNEL_WRITE (R108), STORM_WRITE (R127), with the ranges of Tables 24, 29 and 42. -/
def Obligations.WritesAreCheckedByTheirRules : Prop :=
  ∀ s : State,
    let isKind := fun (p : Nat) (k : Kind) => p < 128 ∧ (s.point p).cfg.kind = .val k
    let isRole := fun (st : Nat) (r : Role) => st < 48 ∧ (s.station st).cfg.configured = true ∧ (s.station st).cfg.role = r
    (∀ p c, s.pointOk p c = true ↔ p < 128
      ∧ (∀ src ∈ c.source, src.station < 48 ∧ (s.station src.station).cfg.configured = true ∧ src.channel < 4
        ∧ ∀ q < 128, q ≠ p → (s.point q).cfg.source ≠ some src)
      ∧ (∃ k, c.kind = .val k ∧ c.low ≤ c.high ∧ c.high ≤ kindTop k) ∧ 1 ≤ c.numerator ∧ c.numerator ≤ 1000
      ∧ 1 ≤ c.denominator ∧ c.denominator ≤ 1000 ∧ -1000 ≤ c.offset ∧ c.offset ≤ 1000 ∧ 2 ≤ c.staleLimit
      ∧ c.staleLimit ≤ 600 ∧ c.band ≤ 65535 ∧ c.forward.listed = true)
    ∧ (∀ l c, s.laneOk l c = true ↔ l < 6 ∧ (∀ sp ∈ [c.spLow, c.spMid, c.spHigh, c.spStorm], 20 ≤ sp ∧ sp ≤ 400)
      ∧ c.thresholdA < c.thresholdB ∧ c.thresholdB ≤ 1000 ∧ c.hysteresis ≤ 200 ∧ 60 ≤ c.startGrace
      ∧ c.startGrace ≤ 900 ∧ ∀ p ∈ c.ammoniaPoint, isKind p .nh4)
    ∧ (∀ z c, s.zoneOk z c = true ↔ z < 24 ∧ (c.configured = true →
      (-200 ≤ c.offset ∧ c.offset ≤ 200 ∧ c.deadband ≤ 50 ∧ 10 ≤ c.gain ∧ c.gain ≤ 500 ∧ 5 ≤ c.maxStep ∧ c.maxStep ≤ 200
        ∧ c.minPos ≤ c.fallbackPos ∧ c.fallbackPos ≤ c.maxPos ∧ c.maxPos ≤ 1000 ∧ 10 ≤ c.fullOpenAir ∧ c.fullOpenAir ≤ 10000
        ∧ c.mixingFloor ≤ c.fullOpenAir ∧ c.priorityClass ≤ 3 ∧ (c.release = .val .whenDone ∨ c.release = .val .onRequest)
        ∧ 5 ≤ c.trimPeriod ∧ c.trimPeriod ≤ 600 ∧ c.doLowBand ≤ 200 ∧ 60 ≤ c.doLowDelay ∧ c.doLowDelay ≤ 3600)
      ∧ isKind c.doPoint .dissolvedOxygen ∧ (∀ p ∈ c.feedback, isKind p .position)
      ∧ (∀ y < 24, y ≠ z → (s.zone y).cfg.configured = true →
        (s.zone y).cfg.doPoint ≠ c.doPoint ∧ (s.zone y).cfg.valve ≠ c.valve
        ∧ ∀ i ∈ s.boundStations (s.zone y).cfg.valve, i ∉ s.boundStations c.valve)
      ∧ (match c.valve with
        | .station i => isRole i .valve
        | .group g => g < 8 ∧ (s.group g).members ≠ [] ∧ ∀ i ∈ (s.group g).members,
            (s.station i).cfg.configured = true ∧ (s.station i).cfg.role = .valve)))
    ∧ (∀ b c, s.blowerOk b c = true ↔ (c.configured = true →
      (100 ≤ c.rated ∧ c.rated ≤ 20000 ∧ 300 ≤ c.turndown ∧ c.turndown ≤ 900 ∧ 10 ≤ c.rampTime ∧ c.rampTime ≤ 600
        ∧ 10 ≤ c.runDownTime ∧ c.runDownTime ≤ 300 ∧ 60 ≤ c.minRun ∧ c.minRun ≤ 3600 ∧ 60 ≤ c.minStop ∧ c.minStop ≤ 3600)
      ∧ isRole c.station .blower
      ∧ (∀ d < 6, d ≠ b → (s.blower d).cfg.configured = true → (s.blower d).cfg.station ≠ c.station)
      ∧ isKind c.runPoint .runstate))
    ∧ (∀ c, s.poolOk c = true ↔ 300 ≤ c.upFraction ∧ c.upFraction ≤ 1000 ∧ 10 ≤ c.upDelay ∧ c.upDelay ≤ 900
      ∧ 300 ≤ c.downFraction ∧ c.downFraction < c.upFraction ∧ 60 ≤ c.downDelay ∧ c.downDelay ≤ 1800
      ∧ c.minNormal ≤ 6 ∧ c.minStorm ≤ 6 ∧ c.pressureHigh ≤ 1500 ∧ c.pressureLow < c.pressureHigh
      ∧ 1 ≤ c.allocationPeriod ∧ c.allocationPeriod ≤ 60 ∧ c.policy.listed = true
      ∧ ∀ p ∈ c.pressurePoint, isKind p .pressure)
    ∧ (∀ i c, s.channelOk i c = true ↔ (c.configured = true →
      ((c.mode = .val .batch ∨ c.mode = .val .cycle ∨ c.mode = .val .ratio) ∧ c.minLevel ≤ 990 ∧ 1 ≤ c.pauseLimit
        ∧ c.pauseLimit ≤ 60 ∧ 1 ≤ c.target ∧ c.target ≤ 65535 ∧ 1 ≤ c.ratio ∧ c.ratio ≤ 3000 ∧ 1 ≤ c.stormRatio
        ∧ c.stormRatio ≤ 3000 ∧ (c.mode = .val .ratio → c.influentPoint ≠ none) ∧ (c.mode = .val .batch → c.autoStart = false))
      ∧ isRole c.pump .pump
      ∧ (∀ j < 4, j ≠ i → (s.channel j).cfg.configured = true → (s.channel j).cfg.pump ≠ c.pump)
      ∧ isKind c.volumePoint .volume ∧ (∀ p ∈ c.levelPoint, isKind p .level)
      ∧ ∀ p ∈ c.influentPoint, isKind p .inflow))
    ∧ (∀ c, s.stormOk c = true ↔ 1 ≤ c.entryThreshold ∧ c.entryThreshold ≤ 20000
      ∧ c.exitThreshold < c.entryThreshold ∧ 10 ≤ c.entryConfirm ∧ c.entryConfirm ≤ 3600 ∧ 10 ≤ c.exitConfirm
      ∧ c.exitConfirm ≤ 3600 ∧ 10 ≤ c.minimumHold ∧ c.minimumHold ≤ 240 ∧ ∀ p ∈ c.influentPoint, isKind p .inflow)

/-- R175, R177: a save ends and a RESTART is taken. When the write of a save completes, the image holds the snapshot, its validity is
as it reads back, SETTINGS_INVALID follows it, and the SAVE is answered DONE or REFUSED. While a save is in progress SAVE and
RESTART are answered BUSY and change nothing. A RESTART taken otherwise is answered DONE, and the port takes no request from then
on. -/
def Obligations.SavesEndAndRestartIsTaken : Prop :=
  ∀ (s : State) (h : Hdr),
    (∀ (x : Save) (ok : Bool), s.port.save = some x →
      let u := s.modPort fun p => { p with image := x.snapshot, imageOk := ok, save := none }
      exec (.saveWriteComplete ok) s = .next
        (if ok then (u.clearAlarm .settingsInvalid .works).answered x.hdr 43 .done []
         else (u.raiseAlarm .settingsInvalid .works none).answered x.hdr 43 .refused []))
    ∧ (s.ready → s.port.save ≠ none → exec (.save h) s = .next ((s.addressed h).answered h 43 .busy [])
      ∧ exec (.restart h) s = .next ((s.addressed h).answered h 44 .busy []))
    ∧ (s.ready → s.port.save = none → exec (.restart h) s
      = .next (((s.addressed h).modPort fun p => { p with restartTaken := true }).answered h 44 .done []))

/-! ### Storm -/

/-- R127, R131: STORM_WRITE and STORM_FORCE. A write replaces the configuration and keeps the state, and with the influent point kept
nothing else of the monitor changes. ON takes the monitor to STORM, OFF to NORMAL, both with all three timers stopped and hold expired
clear. AUTO judges from the state it finds, in STORM with a fresh hold, the last influent value where the point is GOOD, and freezes
where it is not. A force already held is DONE and changes nothing, and a force outside the list is REFUSED. Then what the monitor does
with its influent point: the freeze when it leaves GOOD and its end (R130). A write that changes the influent point makes the last
influent value absent and judges the new point at once, and readings under force ON and OFF only set the last influent value (R131).
And what an entry to a state does: the notice and the time of last state change (R133), and where storm in force begins or ends
STORM_ACTIVE, the lanes and the minimum running (R132, R49, R89). That a point already judged not GOOD raises INFLUENT_INVALID no
second time is the model's reading of R130 (notes/assumptions/19.md). -/
def Obligations.StormRequestsSetTheMonitor : Prop :=
  (∀ (s : State) (h : Hdr), s.ready →
    (∀ c, s.stormOk c = true → ∃ t, exec (.stormWrite h c) s = .next t ∧ s.replied t (bareReply h 31 .done)
      ∧ t.config = { s.config with storm := c } ∧ t.stations = s.stations ∧ t.points = s.points
      ∧ (c.influentPoint = s.storm.cfg.influentPoint → t.storm = { s.storm with cfg := c }
        ∧ t.zones = s.zones ∧ t.blowers = s.blowers))
    ∧ (∀ c, s.stormOk c = true → c.influentPoint ≠ s.storm.cfg.influentPoint →
      let m := s.storm
      let answers := fun u : State => exec (.stormWrite h c) s = .next (u.answered h 31 .done [])
      let written := (s.addressed h).modStorm fun m => { m with cfg := c, lastInfluent := none }
      let frozen := written.modStorm fun m =>
        { m with
          influentValid := false, entryTimer := m.entryTimer.suspend s.uptime,
          holdTimer := m.holdTimer.suspend s.uptime, exitTimer := m.exitTimer.suspend s.uptime }
      let resumed := (written.clearAlarm .influentInvalid .works).modStorm fun m =>
        { m with
          influentValid := true, entryTimer := m.entryTimer.resume s.uptime, holdTimer := m.holdTimer.resume s.uptime,
          exitTimer := m.exitTimer.resume s.uptime }
      let entered := if m.entryTimer = .suspended 0 then resumed.entryExpires else resumed
      let held := if m.holdTimer = .suspended 0 then entered.holdExpires else entered
      let thawed := if m.exitTimer = .suspended 0 then held.exitExpires else held
      (c.influentPoint = none → answers (frozen.clearAlarm .influentInvalid .works))
      ∧ ∀ p, c.influentPoint = some p →
        (s.pointGood p .inflow = true → answers (if m.influentValid then written else thawed))
        ∧ (s.pointGood p .inflow = false → m.influentValid = true ∨ m.cfg.influentPoint = none →
          answers (frozen.raiseAlarm .influentInvalid .works none))
        ∧ (s.pointGood p .inflow = false → m.influentValid = false → m.cfg.influentPoint ≠ none → answers written))
    ∧ (∀ code, exec (.stormForce h (.unlisted code)) s = .next ((s.addressed h).answered h 32 .refused []))
    ∧ exec (.stormForce h (.val s.storm.force)) s = .next ((s.addressed h).answered h 32 .done [])
    ∧ (∀ f, f ≠ s.storm.force → ∃ t, exec (.stormForce h (.val f)) s = .next t ∧ s.replied t (bareReply h 32 .done)
      ∧ t.config = { s.config with force := f } ∧ t.stations = s.stations ∧ t.points = s.points
      ∧ t.channels = s.channels ∧ t.hand = s.hand
      ∧ (f ≠ .auto → t.storm = { s.storm with
        force := f, state := if f = .on then .storm else .normal, entryTimer := .stopped, holdTimer := .stopped,
        exitTimer := .stopped, holdExpired := false,
        lastChange := if s.storm.state = (if f = .on then .storm else .normal) then s.storm.lastChange else s.uptime }))
    ∧ (s.storm.force ≠ .auto →
      let a := s.addressed h
      let freed := a.modStorm fun m => { m with force := .auto }
      let fresh := if s.storm.state = .storm then freed.modStorm fun m =>
        { m with holdTimer := .running (s.uptime + m.cfg.minimumHold * 60), holdExpired := false } else freed
      let frozen := fresh.modStorm fun m =>
        { m with
          entryTimer := m.entryTimer.suspend s.uptime, holdTimer := m.holdTimer.suspend s.uptime,
          exitTimer := m.exitTimer.suspend s.uptime }
      let good := ∃ p ∈ s.storm.cfg.influentPoint, s.pointGood p .inflow = true
      (¬ good → exec (.stormForce h (.val .auto)) s = .next (frozen.answered h 32 .done []))
      ∧ (good → s.storm.lastInfluent = none → exec (.stormForce h (.val .auto)) s = .next (fresh.answered h 32 .done []))
      ∧ (∀ v, good → s.storm.lastInfluent = some v →
        exec (.stormForce h (.val .auto)) s = .next ((fresh.stormReading v).answered h 32 .done []))))
  ∧ (∀ (s : State) (v : Nat), s.storm.force ≠ .auto →
    s.stormReading v = s.modStorm fun m => { m with lastInfluent := some v })
  ∧ (∀ now e : Nat, (StormTimer.running e).suspend now = .suspended (e - now)
    ∧ (StormTimer.suspended e).suspend now = .suspended e ∧ StormTimer.stopped.suspend now = .stopped
    ∧ (StormTimer.suspended e).resume now = .running (now + e) ∧ (StormTimer.running e).resume now = .running e
    ∧ StormTimer.stopped.resume now = .stopped)
  ∧ (∀ (s : State) (p : Nat) (accepted : Bool),
    (s.storm.cfg.influentPoint ≠ some p → s.stormPoint p accepted = s)
    ∧ (s.storm.cfg.influentPoint = some p →
      let m := s.storm
      let frozen := s.modStorm fun m =>
        { m with
          influentValid := false, entryTimer := m.entryTimer.suspend s.uptime,
          holdTimer := m.holdTimer.suspend s.uptime, exitTimer := m.exitTimer.suspend s.uptime }
      let resumed := (s.clearAlarm .influentInvalid .works).modStorm fun m =>
        { m with
          influentValid := true, entryTimer := m.entryTimer.resume s.uptime, holdTimer := m.holdTimer.resume s.uptime,
          exitTimer := m.exitTimer.resume s.uptime }
      let entered := if m.entryTimer = .suspended 0 then resumed.entryExpires else resumed
      let held := if m.holdTimer = .suspended 0 then entered.holdExpires else entered
      let thawed := if m.exitTimer = .suspended 0 then held.exitExpires else held
      (s.pointGood p .inflow = false → m.influentValid = true →
        s.stormPoint p accepted = frozen.raiseAlarm .influentInvalid .works none)
      ∧ (s.pointGood p .inflow = false → m.influentValid = false → s.stormPoint p accepted = s)
      ∧ (s.pointGood p .inflow = true → m.influentValid = true →
        s.stormPoint p accepted = if accepted then s.stormReading (s.point p).value else s)
      ∧ (s.pointGood p .inflow = true → m.influentValid = false →
        s.stormPoint p accepted = if accepted then thawed.stormReading (s.point p).value else thawed)))
  ∧ ∀ s : State,
    (∀ st : StormState,
      let was := s.storm.state = .storm ∨ s.storm.state = .falling
      let is := st = .storm ∨ st = .falling
      let u := s.modStorm fun m => { m with state := st, lastChange := s.uptime }
      let noted := fun active : Bool => u.offerNotice
        (.stormChange s.storm.state st s.storm.force active s.storm.lastInfluent s.uptime)
      (s.storm.state = st → s.enterStorm st = s)
      ∧ (s.storm.state ≠ st → was → is → s.enterStorm st = noted true)
      ∧ (s.storm.state ≠ st → ¬ was → ¬ is → s.enterStorm st = noted false)
      ∧ (¬ was → is → s.enterStorm st
        = ((noted true).raiseAlarm .stormActive .works s.storm.lastInfluent).judgeLanes.judgeMinimum)
      ∧ (was → ¬ is → s.enterStorm st = ((noted false).clearAlarm .stormActive .works).judgeLanes.judgeMinimum))
    ∧ ∀ l < 6, l < s.lanes.length → (s.judgeLanes.lane l).activeBand = s.activeBandNow l

/-- R128, Table 49, R129: how the storm monitor moves under force AUTO. The rows of the table at a reading v, the three expiries
of its timers, and the expiry of a suspended timer, which does nothing. -/
def Obligations.StormMonitorMovesByTable49 : Prop :=
  ∀ s : State,
    let m := s.storm
    (∀ v, m.force = .auto →
      let n := (s.stormReading v).storm
      n.lastInfluent = some v ∧ n.cfg = m.cfg
      ∧ (m.state = .normal → n.state = (if m.cfg.entryThreshold < v then .rising else .normal)
        ∧ (m.cfg.entryThreshold < v → n.entryTimer = .running (s.uptime + m.cfg.entryConfirm)))
      ∧ (m.state = .rising → n.state = (if v ≤ m.cfg.entryThreshold then .normal else .rising)
        ∧ n.entryTimer = (if v ≤ m.cfg.entryThreshold then .stopped else m.entryTimer))
      ∧ (m.state = .storm → n.state = (if v < m.cfg.exitThreshold ∧ m.holdExpired = true then .falling else .storm)
        ∧ (v < m.cfg.exitThreshold → m.holdExpired = true → n.exitTimer = .running (s.uptime + m.cfg.exitConfirm)))
      ∧ (m.state = .falling → n.state = (if m.cfg.exitThreshold ≤ v then .storm else .falling)
        ∧ n.exitTimer = (if m.cfg.exitThreshold ≤ v then .stopped else m.exitTimer) ∧ n.holdTimer = m.holdTimer
        ∧ n.holdExpired = m.holdExpired))
    ∧ (∀ e ≤ s.uptime, m.entryTimer = .running e → ∃ t, exec .entryConfirmExpiry s = .next t ∧ t.config = s.config
      ∧ t.storm.state = .storm ∧ t.storm.entryTimer = .stopped ∧ t.storm.holdExpired = false
      ∧ t.storm.holdTimer = .running (s.uptime + m.cfg.minimumHold * 60) ∧ t.points = s.points ∧ t.channels = s.channels)
    ∧ (∀ e ≤ s.uptime, m.holdTimer = .running e → ∃ t, exec .holdTimerExpiry s = .next t ∧ t.config = s.config
      ∧ t.storm.holdTimer = .stopped ∧ t.storm.holdExpired = true
      ∧ ((∃ v ∈ m.lastInfluent, v < m.cfg.exitThreshold) →
        t.storm.state = .falling ∧ t.storm.exitTimer = .running (s.uptime + m.cfg.exitConfirm))
      ∧ ((∀ v ∈ m.lastInfluent, m.cfg.exitThreshold ≤ v) → t.storm.state = m.state) ∧ t.points = s.points
      ∧ t.channels = s.channels)
    ∧ (∀ e ≤ s.uptime, m.exitTimer = .running e → ∃ t, exec .exitConfirmExpiry s = .next t ∧ t.config = s.config
      ∧ t.storm.state = .normal ∧ t.storm.exitTimer = .stopped ∧ t.storm.holdExpired = false ∧ t.points = s.points
      ∧ t.channels = s.channels)
    ∧ (∀ left, (m.entryTimer = .suspended left → exec .entryConfirmExpiry s = .next s)
      ∧ (m.holdTimer = .suspended left → exec .holdTimerExpiry s = .next s)
      ∧ (m.exitTimer = .suspended left → exec .exitConfirmExpiry s = .next s))

/-! ### Hand passages -/

/-- R137, R139: HAND_DRIVE of a zone, in the order of Table 53. A bad form, a zone that cannot be held, a valve that reads LOST:
REFUSED. No room: BUSY. Otherwise the entry is refreshed in its place or added at the tail, and a zone newly held enters HAND and is
driven to the hand position, whatever its cap. New or refreshed, the passage offers one express DRIVE of the position to the zone's
valve binding (R139). -/
def Obligations.HandDriveHoldsAZone : Prop :=
  ∀ (s : State) (h : Hdr) (z v : Nat) (k : TimeoutCode), s.ready → z < 24 → z < s.zones.length →
    let target : HandTarget := ⟨.zone, z⟩
    let can := (s.zone z).cfg.configured = true ∧ (s.lane (z / 4)).inService = true
      ∧ s.targetHealth (s.zone z).cfg.valve ≠ .lost
    let room := s.passage target ≠ none ∨ s.hand.length < 8
    let c := Instr.handDrive h (.val .zone) z (.val .position) v (.val k)
    let deadline := (timeoutSeconds k).map (s.uptime + ·)
    let refused := (Host.Outcome.next ((s.addressed h).answered h 34 .refused []) : Out)
    (∀ n i command w timeout, exec (.handDrive h (.unlisted n) i command w timeout) s = refused)
    ∧ (∀ kind i command w n, exec (.handDrive h kind i command w (.unlisted n)) s = refused)
    ∧ (∀ i ≥ 24, ∀ command w timeout, exec (.handDrive h (.val .zone) i command w timeout) s = refused)
    ∧ (∀ command ≠ .val .position, ∀ w timeout, exec (.handDrive h (.val .zone) z command w timeout) s = refused)
    ∧ (1000 < v ∨ ¬ can → exec c s = refused)
    ∧ (v ≤ 1000 → can → ¬ room → exec c s = .next ((s.addressed h).answered h 34 .busy []))
    ∧ (v ≤ 1000 → can → room → ∃ t, exec c s = .next t ∧ s.replied t (bareReply h 34 .done) ∧ t.config = s.config
      ∧ t.stations = s.stations ∧ t.points = s.points ∧ t.blowers = s.blowers ∧ t.pool = s.pool ∧ t.channels = s.channels
      ∧ (s.passage target = none → t.hand = s.hand ++ [⟨target, .position v, k, deadline, s.uptime, 0⟩]
        ∧ (t.zone z).mode = .hand ∧ (t.zone z).modeBeforeHand = (s.zone z).mode ∧ t.driven z = v
        ∧ t.demand z = v * (s.zone z).cfg.fullOpenAir / 1000 ∧ (t.zone z).grant = (s.zone z).grant)
      ∧ (s.passage target ≠ none → t.zones = s.zones ∧ t.hand = s.hand.map fun p => if p.target = target then
        { p with demand := .position v, timeout := k, deadline := deadline, refreshes := min 65535 (p.refreshes + 1) } else p))
    ∧ (v ≤ 1000 → can → room →
      let a := s.addressed h
      let added := ({ a with hand := s.hand ++ [⟨target, .position v, k, deadline, s.uptime, 0⟩] } : State).enterHand z
      let refreshed : State := { a with hand := s.hand.map fun p => if p.target = target then
        { p with demand := .position v, timeout := k, deadline := deadline, refreshes := min 65535 (p.refreshes + 1) } else p }
      let held := if s.passage target = none then added else refreshed
      exec c s = .next ((held.offerDrive (s.zone z).cfg.valve (.position v)).answered h 34 .done []))

/-- R137 to R139: HAND_DRIVE of a pump: the pump of a configured channel, or the partner pump of a joined pair. Besides the checks of a
zone, RUN is REFUSED while the other pump of a joined pair is
commanded RUN, which is its hand demand where it is held and its channel command otherwise. A STOP never is. The passage offers one
express DRIVE of the demand to the pump's station. Then the offers of the channel commands: whatever changes them, a HAND_DRIVE, a
start, a stop or a judgement of the channels, offers STOP to each pump whose command has become STOP and after that RUN to each whose
command has become RUN, but to no pump a passage holds (R110). That all STOPs stand before all RUNs, of different channels too, is the
model's choice (notes/assumptions/30.md), and so is that the value with RUN or STOP is ignored (notes/assumptions/7.md). The end of a passage offers the pump's channel command first, unless its
station is lost (R144). -/
def Obligations.HandDriveHoldsAPump : Prop :=
  (∀ (s : State) (h : Hdr) (st v : Nat) (run : Bool) (k : TimeoutCode), s.ready → st < 48 →
    let target : HandTarget := ⟨.pump, st⟩
    let owned := s.channelOfPump st ≠ none
      ∨ ∃ k < 2, (s.pair k).joined = true ∧ (s.channel (2 * k + 1)).cfg.pump = st
    let can := owned ∧ s.readsHealth st ≠ .lost
      ∧ (run = true → ∀ mate ∈ s.mateOfPump st,
        (if s.pumpHeld mate then s.pumpHeldRun mate else s.pumpRun mate) = false)
    let room := s.passage target ≠ none ∨ s.hand.length < 8
    let c := Instr.handDrive h (.val .pump) st (.val (if run then .run else .stop)) v (.val k)
    let demand : Drive := if run then .run 0 else .stop 0
    let deadline := (timeoutSeconds k).map (s.uptime + ·)
    let refused := (Host.Outcome.next ((s.addressed h).answered h 34 .refused []) : Out)
    (∀ i ≥ 48, ∀ command w timeout, exec (.handDrive h (.val .pump) i command w timeout) s = refused)
    ∧ (∀ command, command ≠ .val .run → command ≠ .val .stop → ∀ w timeout,
      exec (.handDrive h (.val .pump) st command w timeout) s = refused)
    ∧ (¬ can → exec c s = refused)
    ∧ (can → ¬ room → exec c s = .next ((s.addressed h).answered h 34 .busy []))
    ∧ (can → room → ∃ t, exec c s = .next t ∧ s.replied t (bareReply h 34 .done) ∧ t.config = s.config
      ∧ t.stations = s.stations ∧ t.points = s.points ∧ t.zones = s.zones ∧ t.blowers = s.blowers ∧ t.pool = s.pool
      ∧ t.channels = s.channels ∧ t.pumpCommandedRun st = run
      ∧ (s.passage target = none → t.hand = s.hand ++ [⟨target, demand, k, deadline, s.uptime, 0⟩])
      ∧ (s.passage target ≠ none → t.hand = s.hand.map fun p => if p.target = target then
        { p with demand := demand, timeout := k, deadline := deadline, refreshes := min 65535 (p.refreshes + 1) } else p))
    ∧ (can → room →
      let a := s.addressed h
      let refreshed := s.hand.map fun p => if p.target = target then
        { p with demand := demand, timeout := k, deadline := deadline, refreshes := min 65535 (p.refreshes + 1) } else p
      let hand := if s.passage target = none then s.hand ++ [⟨target, demand, k, deadline, s.uptime, 0⟩] else refreshed
      let held : State := { a with hand := hand }
      exec c s = .next ((a.syncCommands (held.offerDrive (.station st) demand)).answered h 34 .done [])))
  ∧ (∀ before s : State, ∃ stops runs : List Nat, stops.Nodup ∧ runs.Nodup
    ∧ (let turned := fun (run : Bool) (st : Nat) => (∃ c < 4, (s.channel c).cfg.pump = st) ∧ s.pumpRun st = run
        ∧ before.pumpRun st ≠ run ∧ s.pumpHeld st = false
      (∀ st, st ∈ stops ↔ turned false st) ∧ (∀ st, st ∈ runs ↔ turned true st))
    ∧ before.syncCommands s = runs.foldl (fun u st => u.offerDrive (.station st) (.run 0))
      (stops.foldl (fun u st => u.offerDrive (.station st) (.stop 0)) s))
  ∧ (∀ (s : State) (st : Nat), (s.passage ⟨.pump, st⟩).isSome →
    let ended : State := { s with hand := s.hand.filter fun p => p.target ≠ ⟨.pump, st⟩ }
    s.endPassage ⟨.pump, st⟩ true = s.syncCommands ended
    ∧ s.endPassage ⟨.pump, st⟩ false
      = s.syncCommands (ended.offerDrive (.station st) (if ended.pumpRun st then .run 0 else .stop 0)))
  ∧ ∀ (s : State) (h : Hdr) (i : Nat),
    s.judgeChannels = s.syncCommands ([0, 1, 2, 3].foldl (fun u c => u.judgeChannel c) s)
    ∧ (s.ready → i < 4 → s.dormant i = false → (s.channel i).cfg.configured = true →
      let a := s.addressed h
      ((s.channel i).state = .disabled →
        exec (.channelStart h i) s = .next ((a.syncCommands (a.startChannel i)).answered h 26 .done []))
      ∧ ((s.channel i).state ≠ .disabled →
        exec (.channelStop h i) s = .next ((a.syncCommands (a.disableChannel i)).answered h 27 .done [])))

/-- R140, R141, R143, R70: a passage ends, by HAND_RELEASE or at its deadline. Its entry leaves the table, the others keep their order.
A zone enters AUTO at the hand position limited to its range, with its trim timer restarted, or FALLBACK with the causes that hold, at
the fallback position for DO_INVALID alone and else where the valve stands or was held. A release of a target with no entry is NO_OBJECT, of no zone and no station REFUSED. -/
def Obligations.PassagesEnd : Prop :=
  ∀ (s : State) (h : Hdr) (kind : HandKind) (i : Nat),
    let target : HandTarget := ⟨kind, i⟩
    let inRange := (kind = .zone → i < 24) ∧ (kind = .pump → i < 48)
    let ends := fun t : State => t.hand = s.hand.filter (fun p => p.target ≠ target) ∧ t.config = s.config
      ∧ t.stations = s.stations ∧ t.points = s.points ∧ t.blowers = s.blowers ∧ t.pool = s.pool
      ∧ t.channels = s.channels ∧ (kind = .pump → t.zones = s.zones)
      ∧ (kind = .zone → i < s.zones.length → ∀ p ∈ s.passage target,
        let x := s.zone i
        let c := s.causesNow i
        (t.zone i).mode = (if c.isEmpty then .auto else .fallback) ∧ (t.zone i).causes = c ∧ (t.zone i).grant = x.grant
        ∧ (c.isEmpty = true → (t.zone i).desired = max x.cfg.minPos (min x.cfg.maxPos p.position)
          ∧ (t.zone i).trimDeadline = some (s.uptime + x.cfg.trimPeriod))
        ∧ (c = ⟨true, false⟩ → (t.zone i).desired = x.cfg.fallbackPos)
        ∧ (c.valveUnavailable = true → (t.zone i).desired = max x.cfg.minPos (min x.cfg.maxPos
          (match x.cfg.feedback with
            | some f => if s.pointGood f .position then (s.point f).value else p.position
            | none => p.position))))
    (s.ready → inRange → s.passage target ≠ none →
      ∃ t, exec (.handRelease h (.val kind) i) s = .next t ∧ s.replied t (bareReply h 35 .done) ∧ ends t)
    ∧ (s.ready → inRange → s.passage target = none →
      exec (.handRelease h (.val kind) i) s = .next ((s.addressed h).answered h 35 .noObject []))
    ∧ (s.ready → ¬ inRange → exec (.handRelease h (.val kind) i) s = .next ((s.addressed h).answered h 35 .refused []))
    ∧ (s.ready → ∀ n, exec (.handRelease h (.unlisted n) i) s = .next ((s.addressed h).answered h 35 .refused []))
    ∧ (∀ p ∈ s.passage target, ∀ d ∈ p.deadline, d ≤ s.uptime →
      ∃ t, exec (.deadlineExpiry target) s = .next t ∧ ends t)

/-! ### Alarms -/

/-- R148 to R150: a raise. On a record present it counts. On none, with room, a record is inserted at the tail. On a full list the
oldest cleared record makes room, else the oldest unpinned one of a lower class, else, for a raise that will be pinned, the oldest
unpinned one; and with none of the three the raise is dropped and the list-full flag set. Each raise that is taken and each
eviction has its one notice, and a raise whose record's class is mapped to HORN clears the horn-silenced flag (R162). -/
def Obligations.RaisesMoveTheList : Prop :=
  ∀ (s : State) (code : AlarmCode) (src : Source) (v : Option Nat),
    let t := s.raiseAlarm code src v
    let list := s.alarms.records
    let cls := s.alarms.codeClasses.getD code.place .advisory
    let new : AlarmRecord := ⟨code, src, cls, .raisedUnack, 1, s.uptime, s.uptime, v, some s.uptime⟩
    let free := fun r : AlarmRecord => s.pinned r.code r.source = false
    let lower := fun r : AlarmRecord => cls.code < r.cls.code
    let noted := s.port.notices.length < 32 → ∃ r ∈ t.alarms.records, r.code = code ∧ r.source = src
      ∧ ∃ p e, t.port.notices = s.port.notices ++ [.alarmChange .raised s.alarms.full ⟨r, false, p, e⟩]
    let heard := fun k : AlarmClass =>
      t.alarms.silenced = if (linesOf s.alarms.lineMap k).horn then false else s.alarms.silenced
    (∀ r, list.find? (fun x => x.code = code ∧ x.source = src) = some r →
      noted ∧ heard r.cls ∧ t.alarms.full = s.alarms.full ∧ t.alarms.records = list.map fun x => if x.code = code ∧ x.source = src then
        { r with
          count := min 255 (r.count + 1), value := v, last := s.uptime,
          state := if r.state = .clearedUnack then .raisedUnack else r.state,
          unack := if r.state = .clearedUnack then some s.uptime else r.unack } else x)
    ∧ ((∀ r ∈ list, ¬ (r.code = code ∧ r.source = src)) →
      (list.length < 64 → t.alarms.records = list ++ [new] ∧ noted ∧ heard cls)
      ∧ (64 ≤ list.length → ∀ r,
        (list.find? (fun x => free x ∧ x.state = .clearedUnack)
          <|> list.find? (fun x => free x ∧ lower x)
          <|> if s.pinned code src then list.find? (fun x => free x) else none) = some r →
        t.alarms.records = list.filter (fun x => ¬ (x.code = r.code ∧ x.source = r.source)) ++ [new]
        ∧ t.alarms.full = false ∧ heard cls
        ∧ (s.port.notices.length < 31 → ∃ p e p' e', t.port.notices = s.port.notices
          ++ [.alarmChange .evicted false ⟨r, false, p, e⟩, .alarmChange .raised false ⟨new, false, p', e'⟩]))
      ∧ (64 ≤ list.length → (∀ x ∈ list, free x → x.state ≠ .clearedUnack ∧ ¬ lower x ∧ s.pinned code src = false) →
        t = { s with alarms := { s.alarms with full := true } }))

/-- R153, R154, R170: a clear and an acknowledgement, each with its one notice. -/
def Obligations.ClearsAndAcknowledgementsMoveTheList : Prop :=
  ∀ (s : State) (code : AlarmCode) (src : Source),
    let list := s.alarms.records
    let here := fun x : AlarmRecord => x.code = code ∧ x.source = src
    let set := fun r : AlarmRecord => list.map fun x => if x.code = code ∧ x.source = src then r else x
    let gone := list.filter fun x => ¬ (x.code = code ∧ x.source = src)
    let noted := fun (t : State) (a : AlarmAction) (full : Bool) (r : AlarmRecord) (removed : Bool) =>
      s.port.notices.length < 32 →
        ∃ p e, t.port.notices = s.port.notices ++ [.alarmChange a full ⟨r, removed, p, e⟩]
    ((∀ r ∈ list, ¬ here r) → s.clearAlarm code src = s ∧ s.ackAlarm code src = s)
    ∧ (∀ r, list.find? (fun x => x.code = code ∧ x.source = src) = some r →
      let moved := fun st : RecordState => { r with state := st, unack := none, last := s.uptime }
      (r.state = .raisedUnack →
        (s.clearAlarm code src).alarms = { s.alarms with records := set (moved .clearedUnack) }
        ∧ (s.ackAlarm code src).alarms = { s.alarms with records := set (moved .raisedAck) }
        ∧ noted (s.clearAlarm code src) .cleared s.alarms.full (moved .clearedUnack) false
        ∧ noted (s.ackAlarm code src) .acknowledged s.alarms.full (moved .raisedAck) false)
      ∧ (r.state = .raisedAck → (s.clearAlarm code src).alarms = { s.alarms with records := gone, full := false }
        ∧ noted (s.clearAlarm code src) .cleared false { r with last := s.uptime } true ∧ s.ackAlarm code src = s)
      ∧ (r.state = .clearedUnack → (s.ackAlarm code src).alarms = { s.alarms with records := gone, full := false }
        ∧ noted (s.ackAlarm code src) .acknowledged false { r with last := s.uptime } true ∧ s.clearAlarm code src = s))

/-- R154, R155, R160, R162, R163: the requests of the alarm list. -/
def Obligations.AlarmRequestsActOnTheList : Prop :=
  ∀ (s : State) (h : Hdr), s.ready →
    let a := s.addressed h
    (∀ n kind index, exec (.alarmAck h (.unlisted n) kind index) s = .next (a.answered h 38 .refused []))
    ∧ (∀ c kind index, (∀ src, Source.ofBytes kind index = some src → src.validFor c = false) →
      exec (.alarmAck h (.val c) kind index) s = .next (a.answered h 38 .refused []))
    ∧ (∀ c kind index src, Source.ofBytes kind index = some src → src.validFor c = true →
      ((∀ r ∈ s.alarms.records, ¬ (r.code = c ∧ r.source = src)) →
        exec (.alarmAck h (.val c) kind index) s = .next (a.answered h 38 .noObject []))
      ∧ ((∃ r ∈ s.alarms.records, r.code = c ∧ r.source = src) →
        exec (.alarmAck h (.val c) kind index) s = .next ((a.ackAlarm c src).answered h 38 .done [])))
    ∧ (∀ n, exec (.alarmAckClass h (.unlisted n)) s = .next (a.answered h 39 .refused []))
    ∧ (∀ k, let those := s.alarms.records.filter fun r => r.cls = k ∧ r.state ≠ .raisedAck
      (those = [] → exec (.alarmAckClass h (.val k)) s = .next (a.answered h 39 .noObject []))
      ∧ (those ≠ [] → exec (.alarmAckClass h (.val k)) s
        = .next ((those.foldl (fun u r => u.ackAlarm r.code r.source) a).answered h 39 .done [])))
    ∧ exec (.silence h) s = .next ((a.modAlarms fun l => { l with silenced := true }).answered h 40 .done [])
    ∧ (∀ lines (classes : List AlarmClass), exec (.classMapWrite h lines (classes.map Coded.val)) s
      = .next ((a.modAlarms fun l => { l with lineMap := lines, codeClasses := classes }).answered h 41 .done []))
    ∧ (∀ lines (classes : List (Coded AlarmClass)), (∃ c ∈ classes, c.listed = false) →
      exec (.classMapWrite h lines classes) s = .next (a.answered h 41 .refused []))
    ∧ (∀ m, 1 ≤ m → m ≤ 120 → exec (.escalationWrite h m) s
      = .next ((a.modAlarms fun l => { l with escalation := m }).answered h 42 .done []))
    ∧ (∀ m, m = 0 ∨ 120 < m → exec (.escalationWrite h m) s = .next (a.answered h 42 .refused []))

/-! ### The field line at work -/

/-- R5: a poll and its window. The last character of the poll opens the window. At its expiry the poll is sent again while the retry
setting allows, with the payload of the turn's beginning. Nothing else of the line moves. -/
def Obligations.PollsOpenWindowsAndAreRetried : Prop :=
  ∀ (s : State) (t : Turn), s.flc.turn = some t →
    exec .pollSent s = .next { s with flc := { s.flc with turn := some { t with phase := .window } } }
    ∧ (t.phase = .window → t.retriesMade < t.retries → exec .answerWindowExpiry s
      = .next (s.modFlc fun f => { f with
        turn := some { t with retriesMade := t.retriesMade + 1, phase := .sending } }).updateLines.transmit)

/-- R8, R19, R20, R33: a turn closes FAILED when the window of its last permitted poll expires. The station's consecutive and failed
turns are counted and its health follows Table 9; entering LOST makes its last accepted number absent. No other station changes. Where
the station does not enter LOST nothing else follows. Where it does, its points go STALE (R39), STATION_LOST is raised where its alarm
flag is set (R20), and its owners take the loss up: passages on it end (R142), its points' consumers, the zones (R55), the blowers
(R80) and the channels (R119) judge, in the model's order (notes/assumptions/10.md). -/
def Obligations.TurnsCloseFailed : Prop :=
  ∀ (s : State) (t : Turn), s.flc.turn = some t → t.phase = .window → t.retries ≤ t.retriesMade →
    ∃ u, exec .answerWindowExpiry s = .next u ∧ u.config = s.config ∧ u.groups = s.groups ∧ u.flc.turn ≠ some t
      ∧ u.stations = s.stations.modify t.station (fun x =>
        let failed := min 255 (x.consec + 1)
        let lost := s.flc.line.lostThreshold ≤ failed
        { x with
          consec := failed,
          counters := { x.counters with
            turns := min 65535 (x.counters.turns + 1), failed := min 65535 (x.counters.failed + 1) },
          health := if lost then .lost else x.health,
          lastSeq := if lost ∧ x.health ≠ .lost then none else x.lastSeq })
      ∧ (t.station < s.stations.length →
        let x := s.station t.station
        let failed := min 255 (x.consec + 1)
        let entersLost := s.flc.line.lostThreshold ≤ failed ∧ x.health ≠ .lost
        let closed := { s with stations := u.stations, flc := { s.flc with turn := none, gap := t.fromRoster } }
        let ageing := fun p : Nat => (∃ src ∈ (s.point p).cfg.source, src.station = t.station)
          ∧ ((s.point p).validity = .good ∨ (s.point p).validity = .suspect)
        (¬ entersLost → u = closed.finish)
        ∧ (entersLost → ∃ points : List Nat, points.Nodup ∧ (∀ p, p ∈ points ↔ p < 128 ∧ ageing p)
          ∧ (let staled := points.foldl State.pointStale closed
            let told := if x.cfg.alarm then staled.raiseAlarm .stationLost (.station t.station) (some failed) else staled
            let events := points.foldl (fun v p => v.notifyPoint p false) told.endLostPassages
            u = ((events.rejudgeZones.eachBlowerOn t.station State.blowerLost).judgeChannels).finish)
          ∧ (∀ p < 128, p < s.points.length → ageing p → u.point p = { s.point p with
            validity := .stale, suspectCause := none, fresh := false, staleDeadline := none })
          ∧ (∀ p, ¬ (p < 128 ∧ ageing p) → u.point p = s.point p)))

/-- R6, R8, R19, R30, R33: a valid answer closes its turn GOOD. The station is LIVE with no consecutive failed turns, its turns are
counted, its three flags are recorded, and its number is judged by Table 17, repeats and gap sizes counted. No other station
changes. An answer whose number repeats, or that says it was held, delivers no reading. Of any other the first reading of each channel is
delivered to the point bound to it (R34 to R37): one not well formed leaves the point SUSPECT with cause KIND, one that is well formed
gives its value, GOOD or SUSPECT by plausibility, its time and a fresh stale timer, and is offered for forwarding by the point's mode
(R42). Then all that the close does, in the model's order (notes/assumptions/11.md): STATION_LOST is cleared (R20), STATION_LOCAL
follows the LOCAL flag (R31), the zones judge, the blowers take up the changed flags, the channels judge, the readings are delivered, and
blowers that wait adopt (R76). And what a delivered reading does to the alarms of its point: POINT_KIND_MISMATCH, POINT_STALE and
POINT_SUSPECT (R35, R37), before the consumers take it up. -/
def Obligations.ValidAnswersCloseTheirTurnGood : Prop :=
  (∀ (s : State) (t : Turn) (chars body : List Byte) (a : Answer), s.flc.turn = some t → t.phase = .window →
    readFieldFrame chars = .whole body → readAnswer body = some a → a.source = t.answerAddr →
    ∃ u, exec (.fieldFrameReceived chars) s = .next u ∧ u.config = s.config ∧ u.groups = s.groups ∧ u.flc.turn ≠ some t
      ∧ u.stations = s.stations.modify t.station (fun x =>
        let judged := judgeSeq x.lastSeq a.sequence
        { x with
          health := .live, consec := 0, fault := a.fault, localMode := a.localMode, held := a.held,
          lastSeq := if judged = .again then x.lastSeq else some a.sequence,
          counters := { x.counters with
            turns := min 65535 (x.counters.turns + 1),
            repeats := if judged = .again then min 65535 (x.counters.repeats + 1) else x.counters.repeats,
            gaps := match judged with
              | .gap n => min 65535 (x.counters.gaps + n)
              | _ => x.counters.gaps } })
      ∧ (let silent := judgeSeq (s.station t.station).lastSeq a.sequence = .again ∨ a.held = true
        (silent → u.points = s.points)
        ∧ (¬ silent → ∀ p < 128, p < s.points.length →
          let x := s.point p
          let y := u.point p
          ((∀ src ∈ x.cfg.source, src.station = t.station → ∀ r ∈ a.readings, r.channel ≠ src.channel) → y = x)
          ∧ ∀ before r after, a.readings = before ++ r :: after → (∀ q ∈ before, q.channel ≠ r.channel) →
            x.cfg.source = some ⟨t.station, r.channel⟩ → (∀ q < p, (s.point q).cfg.source ≠ some ⟨t.station, r.channel⟩) →
            let fits := match r.tag with
              | some k => x.cfg.kind = .val k
              | none => (s.station t.station).cfg.legacy = true
            let v := readingValue x.cfg r
            let offers := x.cfg.forward = .val .every ∨ x.cfg.forward = .val .change
              ∧ ∀ last ∈ x.lastForwarded, x.cfg.band < max v last - min v last
            (¬ fits → y = { x with validity := .suspect, suspectCause := some .kind, fresh := false })
            ∧ (fits → y.cfg = x.cfg ∧ y.value = v ∧ y.lastTime = some s.uptime
              ∧ y.staleDeadline = some (s.uptime + x.cfg.staleLimit)
              ∧ (x.cfg.low ≤ v ∧ v ≤ x.cfg.high → y.validity = .good ∧ y.suspectCause = none ∧ y.fresh = true)
              ∧ (v < x.cfg.low ∨ x.cfg.high < v →
                y.validity = .suspect ∧ y.suspectCause = some .range ∧ y.fresh = false)
              ∧ (¬ offers → y.lastForwarded = x.lastForwarded)
              ∧ (offers → s.port.forward.length + a.readings.length ≤ 16 → y.lastForwarded = some v
                ∧ (s.port.tx.isSome = true → ∃ e ∈ u.port.forward, e.point = p ∧ e.value = v ∧ e.validity = y.validity)))))
      ∧ (t.station < s.stations.length →
        let st := t.station
        let x := s.station st
        let closed := { s with stations := u.stations, flc := { s.flc with turn := none, gap := t.fromRoster } }
        let returned := closed.clearAlarm .stationLost (.station st)
        let told :=
          if a.localMode then
            (if !x.localMode && x.cfg.alarm then returned.raiseAlarm .stationLocal (.station st) none else returned)
          else returned.clearAlarm .stationLocal (.station st)
        let waits := fun x : Blower => x.state = .unknown ∨ x.state = .tripped ∧ x.tripCause = some .lost
        let faults := if x.fault = a.fault then told.rejudgeZones else told.rejudgeZones.eachBlowerOn st fun b v =>
          if waits (v.blower b) then v else v.judgeBlower b
        let flags := if x.localMode = a.localMode then faults
          else faults.eachBlowerOn st (if a.localMode then State.blowerLocalSet else State.blowerLocalClear)
        let delivered := if judgeSeq x.lastSeq a.sequence = .again ∨ a.held = true then flags.judgeChannels
          else flags.judgeChannels.deliverReadings st a.readings
        u = (delivered.eachBlowerOn st fun b v => if waits (v.blower b) then v.judgeBlower b else v).finish))
  ∧ ∀ (s : State) (p : Nat) (legacy : Bool) (r : Reading), p < s.points.length →
    let x := s.point p
    let fits := match r.tag with
      | some k => x.cfg.kind = .val k
      | none => legacy = true
    let v := readingValue x.cfg r
    let taken := (s.clearAlarm .pointKindMismatch (.point p)).modPoint p fun y =>
      { y with value := v, lastTime := some s.uptime, staleDeadline := some (s.uptime + x.cfg.staleLimit) }
    let good := ((taken.modPoint p fun y => { y with validity := .good, suspectCause := none, fresh := true }).clearAlarm
      .pointSuspect (.point p)).clearAlarm .pointStale (.point p)
    let ranged := (taken.modPoint p fun y =>
      { y with validity := .suspect, suspectCause := some .range, fresh := false }).clearAlarm .pointStale (.point p)
    let told := if x.cfg.alarm then ranged.raiseAlarm .pointSuspect (.point p) (some v) else ranged
    let mixed := ((s.modPoint p fun y =>
      { y with validity := .suspect, suspectCause := some .kind, fresh := false }).raiseAlarm .pointKindMismatch (.point p)
        none).clearAlarm .pointSuspect (.point p)
    let aged := if x.validity = .stale then mixed.clearAlarm .pointStale (.point p) else mixed
    (fits → x.cfg.low ≤ v → v ≤ x.cfg.high → s.takeReading p legacy r = (good.notifyPoint p true).forwardReading p)
    ∧ (fits → v < x.cfg.low ∨ x.cfg.high < v → s.takeReading p legacy r = (told.notifyPoint p true).forwardReading p)
    ∧ (¬ fits → s.takeReading p legacy r = if x.validity = .suspect then aged else aged.notifyPoint p false)

/-- R2, R3, R16: the round timer's expiry. With the pass ended and the line free the line arbiter acts, and with no express entry owed to
a roster turn the next round begins: the staged roster becomes active, the counter advances, the timer restarts. With an express turn open the round waits for it and that is no overrun. With the pass not
ended an overrun is counted, and ROUND_OVERRUN is raised from the third in a row on. -/
def Obligations.RoundTimerBeginsOrOverruns : Prop :=
  ∀ s : State, s.flc.roundTimer.isSome →
    (s.flc.passEnded = true → s.flc.turn = none → exec .roundTimerExpiry s = .next ({ s with flc := { s.flc with roundTimer := none } }).finish)
    ∧ (s.flc.passEnded = true → s.flc.turn = none → s.flc.gap = false ∨ s.flc.express = [] →
      ∃ t, exec .roundTimerExpiry s = .next t ∧ t.config = s.config
      ∧ t.flc.round = (s.flc.round + 1) % 65536 ∧ t.flc.active = s.flc.staged.getD s.flc.active ∧ t.flc.staged = none
      ∧ t.flc.roundTimer = some s.flc.line.roundPeriod ∧ t.flc.overruns = s.flc.overruns ∧ t.stations = s.stations
      ∧ t.points = s.points ∧ t.zones = s.zones)
    ∧ (s.flc.passEnded = true → s.flc.turn ≠ none → ∃ t, exec .roundTimerExpiry s = .next t
      ∧ t.flc = { s.flc with roundTimer := none } ∧ t.config = s.config ∧ t.stations = s.stations ∧ t.points = s.points)
    ∧ (s.flc.passEnded = false → s.flc.turn ≠ none → ∃ t, exec .roundTimerExpiry s = .next t
      ∧ t.flc = { s.flc with
        roundTimer := none, overruns := min 65535 (s.flc.overruns + 1), consecOverruns := min 255 (s.flc.consecOverruns + 1) }
      ∧ t.config = s.config ∧ t.stations = s.stations ∧ t.points = s.points
      ∧ (s.flc.consecOverruns < 2 → t.alarms.records = s.alarms.records)
      ∧ (2 ≤ s.flc.consecOverruns → t.alarms.records =
        (s.raiseAlarm .roundOverrun .fieldLine (some (min 255 (s.flc.consecOverruns + 1)))).alarms.records))

/-- R10, R11, R15: what a turn the line arbiter begins carries. A turn to a station that is LOST carries no payload, and a position
carried to the valve of a zone in AUTO or FALLBACK is at most the zone's cap. Then which entry the arbiter takes: the next roster
entry that this round visits (R1), after each roster turn the oldest express entry, which is discarded where its target is not configured
(R15), and once the pass has ended the express entries until the round timer has expired and the next round begins (R2, R16). And what
the turn is: its payload by Table 7 (R10 to R12) or as stored (R15), its address and its settings (R5, R18). That an express DRIVE
carries its payload to the valve of a zone that waits is the model's choice (notes/assumptions/32.md), and that a discarded entry takes
no place in the rhythm while the round waits for its successor is too (notes/assumptions/12.md). -/
def Obligations.TurnsCarryNoDemandTheyMayNot : Prop :=
  (∀ (s : State) (t : Turn), s.flc.turn = none → s.lineArbiter.flc.turn = some t →
    (t.payload.isSome → (s.station t.station).health ≠ .lost)
    ∧ (∀ z p, s.zoneOfTarget (match t.group with
        | some g => .group g
        | none => .station t.station) = some z → ((s.zone z).mode = .auto ∨ (s.zone z).mode = .fallback) →
      t.payload = some (.position p) → p ≤ (s.zone z).cap)
    ∧ t.retriesMade = 0 ∧ t.phase = .sending ∧ t.window = s.flc.line.window
    ∧ t.retries = (if (s.station t.station).health = .lost then 0 else s.flc.line.retries))
  ∧ (∀ s : State, s.flc.turn = none →
    let reachable := fun t : Target => match t with
      | .station i => (s.station i).cfg.configured = true
      | .group g => (s.group g).members ≠ [] ∧ ∃ i ∈ (s.group g).answering, (s.station i).cfg.configured = true
    let visited := fun e : RosterEntry => s.flc.round % e.divisor = e.phase ∧ reachable e.target
    (∀ before e after, s.flc.passEnded = false → s.flc.passRest = before ++ e :: after → (∀ d ∈ before, ¬ visited d) → visited e →
      let rostered := fun u : State => (u.modFlc fun f => { f with passRest := after }).beginTurn true e.target
        (match e.kind with
          | .read => none
          | .drive => s.rosterPayload e.target)
      (s.flc.gap = false ∨ s.flc.express = [] → s.lineArbiter = rostered s)
      ∧ ∀ x rest, s.flc.gap = true → s.flc.express = x :: rest →
        let served := s.modFlc fun f => { f with express := rest }
        (reachable x.target → s.lineArbiter = served.beginTurn false x.target (s.expressPayload x))
        ∧ (¬ reachable x.target → s.lineArbiter = rostered served))
    ∧ (s.flc.passEnded = false → (∀ e ∈ s.flc.passRest, ¬ visited e) →
      let ended := s.modFlc fun f =>
        { f with
          passEnded := true, passRest := [],
          consecOverruns := if s.flc.roundTimer.isSome then 0 else f.consecOverruns }
      s.lineArbiter = (if s.flc.roundTimer.isSome then ended.clearAlarm .roundOverrun .fieldLine else ended).lineArbiter)
    ∧ (∀ x rest, s.flc.passEnded = true → s.flc.gap = true → s.flc.express = x :: rest →
      let served := s.modFlc fun f => { f with express := rest, gap := false }
      (reachable x.target → s.lineArbiter = served.beginTurn false x.target (s.expressPayload x))
      ∧ (¬ reachable x.target → s.lineArbiter = served.lineArbiter))
    ∧ (s.flc.passEnded = true → s.flc.roundTimer = none → s.flc.gap = false ∨ s.flc.express = [] →
      s.lineArbiter = (s.modFlc fun f => { f with
        active := f.staged.getD f.active, staged := none, round := (f.round + 1) % 65536, roundTimer := some f.line.roundPeriod,
        passEnded := false, passRest := f.staged.getD f.active, gap := false }).lineArbiter)
    ∧ (s.flc.passEnded = true → s.flc.roundTimer.isSome →
      ((∀ x ∈ s.flc.express, ¬ reachable x.target) → s.lineArbiter = s.modFlc fun f => { f with express := [], gap := false })
      ∧ ∀ before x rest, s.flc.express = before ++ x :: rest → (∀ d ∈ before, ¬ reachable d.target) → reachable x.target →
        s.lineArbiter = (s.modFlc fun f => { f with express := rest }).beginTurn false x.target (s.expressPayload x)))
  ∧ (∀ (s : State) (fromRoster : Bool) (t : Target) (payload : Option Drive) (i : Nat), s.answerer t = some i →
    let x := s.station i
    s.beginTurn fromRoster t payload = s.modFlc fun f => { f with
      gap := false,
      turn := some {
        fromRoster := fromRoster, station := i, answerAddr := x.cfg.addr, payload := payload, window := f.line.window,
        group := match t with
          | .station _ => none
          | .group g => some g,
        addr := match t, payload with
          | .group g, some _ => 112 + g
          | _, _ => x.cfg.addr,
        retries := if x.health = .lost then 0 else f.line.retries, retriesMade := 0, phase := .sending } })
  ∧ ∀ (s : State) (t : Target), (∃ i, s.answerer t = some i) →
    let lost := ∃ i ∈ s.answerer t, (s.station i).health = .lost
    let valve := match s.zoneOfTarget t with
      | none => none
      | some z => match (s.zone z).mode with
        | .off | .waiting => none
        | .auto | .fallback => some (.position (min (s.zone z).desired (s.zone z).cap))
        | .hand => some (.position (s.handPosition z))
    let blower := fun i : Nat => match s.blowerOfStation i with
      | none => none
      | some b => match (s.blower b).state with
        | .unknown | .lockedOut => none
        | .starting | .running => some (.run (s.blower b).speed)
        | .stopped | .stopping | .tripped => some (.stop (s.blower b).speed)
        | .localMode => some (if s.readsRunning b then .run (s.blower b).speed else .stop (s.blower b).speed)
    let pump := fun i : Nat => if s.ownedPump i then some (if s.pumpCommandedRun i then .run 0 else .stop 0) else none
    (lost → s.rosterPayload t = none ∧ ∀ d, s.expressPayload ⟨t, d⟩ = none)
    ∧ (¬ lost → s.rosterPayload t = match t with
        | .group _ => valve
        | .station i => match (s.station i).cfg.role with
          | .probe => none
          | .valve => valve
          | .blower => blower i
          | .pump => pump i)
    ∧ (¬ lost → (s.expressPayload ⟨t, none⟩ = none ∧ ∀ v, s.expressPayload ⟨t, some (.run v)⟩ = some (.run v)
        ∧ s.expressPayload ⟨t, some (.stop v)⟩ = some (.stop v))
      ∧ ∀ p, (∀ z, s.zoneOfTarget t = some z → (s.zone z).mode = .auto ∨ (s.zone z).mode = .fallback →
          s.expressPayload ⟨t, some (.position p)⟩ = some (.position (min p (s.zone z).cap)))
        ∧ ((∀ z, s.zoneOfTarget t = some z → (s.zone z).mode ≠ .auto ∧ (s.zone z).mode ≠ .fallback) →
          s.expressPayload ⟨t, some (.position p)⟩ = some (.position p)))

/-! ### Points, zones, blowers, channels at their timers -/

/-- R38: the stale timer's expiry. A GOOD or SUSPECT point becomes STALE, keeps its value and the time of its last accepted reading,
and its timer stops. POINT_SUSPECT is cleared, POINT_STALE is raised with the value where the alarm flag is set, and the blocks that
name the point take up the change (R41). -/
def Obligations.PointsGoStale : Prop :=
  ∀ (s : State) (p d : Nat), (s.point p).staleDeadline = some d → d ≤ s.uptime →
    ((s.point p).validity = .good ∨ (s.point p).validity = .suspect) →
    ∃ t, exec (.staleTimerExpiry p) s = .next t ∧ t.config = s.config ∧ t.stations = s.stations
      ∧ t.point p = { s.point p with
        validity := .stale, suspectCause := none, fresh := false, staleDeadline := none }
      ∧ (∀ q, q ≠ p → (t.point q).value = (s.point q).value ∧ (t.point q).validity = (s.point q).validity)
      ∧ (let x := s.point p
        let staled := (s.modPoint p fun y => { y with
          validity := .stale, suspectCause := none, fresh := false, staleDeadline := none }).clearAlarm .pointSuspect (.point p)
        let told := if x.cfg.alarm then staled.raiseAlarm .pointStale (.point p) (some x.value) else staled
        t = (told.notifyPoint p false).finish)

/-- R57, R58: a zone's trim timer expires in AUTO. With no fresh reading the step is counted as skipped. With one, the fresh flag is
cleared, the step counted, and the desired position moves by the limited step where the error is beyond the deadband. In FALLBACK and
HAND no step is made. The timer restarts. The next state whole: after the step, in AUTO, the air-limited judgement and the DO-low
judgement, and in FALLBACK and HAND the DO-low judgement only (R57). -/
def Obligations.TrimTimerStepsTheZone : Prop :=
  ∀ (s : State) (z d : Nat), (s.zone z).trimDeadline = some d → d ≤ s.uptime →
    let x := s.zone z
    let c := x.cfg
    let dp := s.point c.doPoint
    let error : Int := (s.setpoint z : Int) - dp.value
    let step : Int := max (-(c.maxStep : Int)) (min (c.maxStep : Int) (Int.tdiv (error * c.gain) 100))
    ∃ t, exec (.trimTimerExpiry z) s = .next t ∧ t.config = s.config ∧ t.stations = s.stations ∧ t.lanes = s.lanes
      ∧ (∀ y, y ≠ z → t.zone y = s.zone y) ∧ (t.zone z).trimDeadline = some (s.uptime + c.trimPeriod)
      ∧ (t.zone z).mode = x.mode ∧ (t.zone z).cap = x.cap ∧ (t.zone z).grant = x.grant
      ∧ (x.mode = .auto → dp.fresh = false → (t.zone z).desired = x.desired ∧ (t.zone z).trimCount = x.trimCount
        ∧ (t.zone z).skipCount = min 65535 (x.skipCount + 1) ∧ t.points = s.points)
      ∧ (x.mode = .auto → dp.fresh = true → (t.zone z).trimCount = min 65535 (x.trimCount + 1)
        ∧ (t.zone z).skipCount = x.skipCount
        ∧ t.points = s.points.modify c.doPoint (fun p => { p with fresh := false })
        ∧ ((t.zone z).desired : Int) = if error.natAbs ≤ c.deadband then (x.desired : Int)
          else max (c.minPos : Int) (min (c.maxPos : Int) (x.desired + step)))
      ∧ (x.mode ≠ .auto → (t.zone z).desired = x.desired ∧ (t.zone z).trimCount = x.trimCount ∧ t.points = s.points)
      ∧ (let timed := s.modZone z fun y => { y with trimDeadline := some (s.uptime + c.trimPeriod) }
        let stepped := if dp.fresh = true then (timed.modPoint c.doPoint fun p => { p with fresh := false }).modZone z fun y =>
            { y with
              trimCount := min 65535 (x.trimCount + 1),
              desired := if error.natAbs ≤ c.deadband then x.desired
                else (max (c.minPos : Int) (min (c.maxPos : Int) (x.desired + step))).toNat }
          else timed.modZone z fun y => { y with skipCount := min 65535 (x.skipCount + 1) }
        (x.mode = .auto → t = ((stepped.judgeAir z).judgeDoLow z).finish)
        ∧ (x.mode = .fallback ∨ x.mode = .hand → t = (timed.judgeDoLow z).finish)
        ∧ (x.mode = .off ∨ x.mode = .waiting → t = timed.finish))

/-- R65: a lane's start grace expires. Each zone of the lane still WAITING leaves it: for AUTO at the position of R64 where no cause
holds, for FALLBACK with the causes that hold otherwise. The other zones stay as they are. Then the judgements a zone makes of its
causes (R53 to R56, R64, R69), by its mode: the entry to FALLBACK with its position, notice, alarms and express DRIVE, the changes of
the cause set inside FALLBACK and in HAND, the return to AUTO with its notice and the clears of the cause alarms (R54, R71), and the end of
WAITING. And the judgements of AIR_LIMITED (R61) and
DO_LOW (R62). Two things are the model's: one raise of each cause at an entry to FALLBACK and one at a later join
(notes/assumptions/18.md), and the order of the alarm actions of one zone (notes/assumptions/32.md); and a zone still WAITING keeps a
DO_LOW record of before a RESTART though its DO point leaves GOOD (notes/assumptions/37.md). -/
def Obligations.StartGraceReleasesWaitingZones : Prop :=
  (∀ (s : State) (l d : Nat), (s.lane l).graceDeadline = some d → d ≤ s.uptime → l < 6 → s.zones.length = 24 →
    ∃ t, exec (.startGraceExpiry l) s = .next t ∧ t.config = s.config ∧ t.stations = s.stations ∧ t.points = s.points
      ∧ t.lanes = s.lanes.modify l (fun x => { x with graceDeadline := none, graceExpired := true })
      ∧ (∀ z, ¬ (z / 4 = l ∧ (s.zone z).mode = .waiting) → t.zone z = s.zone z)
      ∧ t = ([0, 1, 2, 3].foldl (fun u i => if (u.zone (l * 4 + i)).mode = .waiting then u.leaveWaiting (l * 4 + i) else u)
        (s.modLane l fun x => { x with graceDeadline := none, graceExpired := true })).finish
      ∧ ∀ i < 4, let z := l * 4 + i
        (s.zone z).mode = .waiting →
          (t.zone z).causes = s.causesNow z ∧ (t.zone z).cap = (s.zone z).cap
          ∧ (t.zone z).trimDeadline = some (s.uptime + (s.zone z).cfg.trimPeriod)
          ∧ ((s.causesNow z).isEmpty = true → (t.zone z).mode = .auto ∧ (t.zone z).desired = s.startPosition z)
          ∧ ((s.causesNow z).isEmpty = false → (t.zone z).mode = .fallback
            ∧ (t.zone z).desired = if (s.causesNow z).valveUnavailable then s.trackedPosition z 0
              else (s.zone z).cfg.fallbackPos))
  ∧ (∀ (s : State) (z : Nat), s.causesNow z
    = ⟨!((s.point (s.zone z).cfg.doPoint).validity == .good && (s.point (s.zone z).cfg.doPoint).cfg.kind == .val .dissolvedOxygen),
      !(s.targetHealth (s.zone z).cfg.valve == .live && !s.targetLocal (s.zone z).cfg.valve)⟩)
  ∧ ∀ (s : State) (z : Nat), z < s.zones.length →
    let x := s.zone z
    let c := s.causesNow z
    let v := (s.point x.cfg.doPoint).value
    let low := v + x.cfg.doLowBand < s.setpoint z
    let tracked := fun held : Nat =>
      let limited := fun n : Nat => max x.cfg.minPos (min x.cfg.maxPos n)
      match x.cfg.feedback with
      | some p => if s.pointGood p .position then limited (s.point p).value else limited held
      | none => limited held
    let joined := fun u : State => if c.doInvalid && !x.causes.doInvalid then
      (u.modZone z fun y => { y with doLow := ⟨none, false⟩ }).clearAlarm .doLow (.zone z) else u
    let told := fun (all : Bool) (u : State) =>
      let judged := fun (u : State) (code : AlarmCode) (was is : Bool) =>
        if is then (if all || !was then u.raiseAlarm code (.zone z) none else u) else u.clearAlarm code (.zone z)
      judged (judged u .zoneDoInvalid x.causes.doInvalid c.doInvalid) .zoneValveUnavailable x.causes.valveUnavailable
        c.valveUnavailable
    let driven := fun u : State => if c = ⟨true, false⟩ then u.offerDrive x.cfg.valve (.position x.cfg.fallbackPos) else u
    let auto := fun d : Nat =>
      let entered := (s.modZone z fun y => { y with
        desired := d, trimDeadline := some (s.uptime + x.cfg.trimPeriod), mode := .auto, causes := ⟨false, false⟩,
        lastModeChange := s.uptime }).offerNotice (.zoneModeChange z x.mode .auto ⟨false, false⟩ s.uptime)
      let cleared := (entered.clearAlarm .zoneDoInvalid (.zone z)).clearAlarm .zoneValveUnavailable (.zone z)
      if d = x.desired then cleared else cleared.judgeAir z
    (x.mode = .off ∨ x.mode = .auto ∧ c = ⟨false, false⟩ ∨ (x.mode = .fallback ∨ x.mode = .hand) ∧ c = x.causes
      ∨ x.mode = .waiting ∧ ¬ (c = ⟨false, false⟩ ∧ s.pool.firstPassDone = true) → s.rejudgeZone z = s)
    ∧ (x.mode = .auto → c ≠ ⟨false, false⟩ →
      let d := if c.valveUnavailable then tracked (min x.desired x.cap) else x.cfg.fallbackPos
      let entered := (s.modZone z fun y =>
        { y with desired := d, mode := .fallback, causes := c, lastModeChange := s.uptime }).offerNotice
          (.zoneModeChange z .auto .fallback c s.uptime)
      let aired := (entered.modZone z fun y => { y with air := ⟨none, false⟩ }).clearAlarm .airLimited (.zone z)
      s.rejudgeZone z = driven (told true (joined aired)))
    ∧ (x.mode = .fallback → c ≠ x.causes → c ≠ ⟨false, false⟩ →
      let d := if c.valveUnavailable && !x.causes.valveUnavailable then tracked (min x.desired x.cap)
        else if c = ⟨true, false⟩ then x.cfg.fallbackPos else x.desired
      s.rejudgeZone z = driven (told false (joined (s.modZone z fun y => { y with desired := d, causes := c }))))
    ∧ (x.mode = .fallback ∧ c ≠ x.causes ∧ c = ⟨false, false⟩
        ∨ x.mode = .waiting ∧ c = ⟨false, false⟩ ∧ s.pool.firstPassDone = true →
      let y := (s.rejudgeZone z).zone z
      y.mode = .auto ∧ y.causes = ⟨false, false⟩ ∧ y.trimDeadline = some (s.uptime + x.cfg.trimPeriod)
        ∧ y.lastModeChange = s.uptime ∧ y.cap = x.cap ∧ y.grant = x.grant
        ∧ (x.mode = .fallback → y.desired = x.desired) ∧ (x.mode = .waiting → y.desired = s.startPosition z)
        ∧ (∀ d, d ≠ z → (s.rejudgeZone z).zone d = s.zone d)
        ∧ s.rejudgeZone z = auto (if x.mode = .fallback then x.desired else s.startPosition z))
    ∧ (x.mode = .waiting →
      (c = ⟨false, false⟩ → s.leaveWaiting z = auto (s.startPosition z))
      ∧ (c ≠ ⟨false, false⟩ → s.leaveWaiting z = driven (told true ((s.modZone z fun y => { y with
        desired := if c.valveUnavailable then tracked 0 else x.cfg.fallbackPos,
        trimDeadline := some (s.uptime + x.cfg.trimPeriod), mode := .fallback, causes := c,
        lastModeChange := s.uptime }).offerNotice (.zoneModeChange z .waiting .fallback c s.uptime)))))
    ∧ (x.mode = .hand → c ≠ x.causes →
      s.rejudgeZone z = told false (joined (s.modZone z fun y => { y with causes := c })))
    ∧ (let limited := min x.desired x.cap < x.desired ∧ v < s.setpoint z
      (x.mode ≠ .auto → s.judgeAir z = s)
      ∧ (x.mode = .auto → ¬ limited →
        s.judgeAir z = (s.modZone z fun y => { y with air := ⟨none, false⟩ }).clearAlarm .airLimited (.zone z))
      ∧ (x.mode = .auto → limited → x.air.since = none →
        s.judgeAir z = s.modZone z fun y => { y with air := ⟨some s.uptime, false⟩ })
      ∧ (∀ d, x.mode = .auto → limited → x.air.since = some d →
        s.judgeAir z = if d + 600 ≤ s.uptime ∧ x.air.raised = false then
          (s.modZone z fun y => { y with air := ⟨some d, true⟩ }).raiseAlarm .airLimited (.zone z) (some v) else s))
    ∧ (let judges := (x.mode = .auto ∨ x.mode = .fallback ∨ x.mode = .hand)
        ∧ s.pointGood x.cfg.doPoint .dissolvedOxygen = true
      (¬ judges → s.judgeDoLow z = s)
      ∧ (judges → ¬ low →
        s.judgeDoLow z = (s.modZone z fun y => { y with doLow := ⟨none, false⟩ }).clearAlarm .doLow (.zone z))
      ∧ (judges → low → x.doLow.since = none →
        s.judgeDoLow z = s.modZone z fun y => { y with doLow := ⟨some s.uptime, false⟩ })
      ∧ (∀ d, judges → low → x.doLow.since = some d →
        s.judgeDoLow z = if d + x.cfg.doLowDelay ≤ s.uptime ∧ x.doLow.raised = false then
          (s.modZone z fun y => { y with doLow := ⟨some d, true⟩ }).raiseAlarm .doLow (.zone z) (some v) else s))

/-- R78, R82, R94, R118, R163: the timers of the blowers, of the allocation, of a channel's pause and of a record's escalation. A
starting blower whose ramp time has elapsed enters RUNNING where its run-state reads RUNNING; at twice that it trips with START_FAIL
and is sent STOP; a run-down ends in the rest state; an allocation pass is made. Each of these is taken up by
the Header Unit. A pause at its limit raises CHANNEL_PAUSED_LONG, and a record's escalation holds CALLOUT. -/
def Obligations.OtherTimersAct : Prop :=
  ∀ s : State,
    (∀ b r, (s.blower b).cfg.configured = true → (s.blower b).state = .starting → (s.blower b).runStart = some r →
      r + (s.blower b).cfg.rampTime ≤ s.uptime → s.reportsFault b = false → s.readsRunning b = true →
      exec (.rampTimeElapsed b) s = .next (s.enterBlower b .running).header.finish)
    ∧ (∀ b d, (s.blower b).state = .starting → (s.blower b).rampDeadline = some d → d ≤ s.uptime →
      exec (.rampTimerExpiry b) s = .next ((s.enterBlower b .tripped (some .startFail)).offerDrive
        (.station (s.blower b).cfg.station) (.stop 0)).header.finish)
    ∧ (∀ b d, (s.blower b).state = .stopping → (s.blower b).runDownDeadline = some d → d ≤ s.uptime →
      exec (.runDownEnd b) s
        = .next (s.enterBlower b (if (s.blower b).lockout then .lockedOut else .stopped)).header.finish)
    ∧ (∀ d, s.pool.allocDeadline = some d → d ≤ s.uptime →
      exec .allocationTimerExpiry s = .next s.runPass.header.finish)
    ∧ (∀ c d, (s.channel c).state = .paused → (s.channel c).pauseDeadline = some d → d ≤ s.uptime →
      exec (.pauseLimitExpiry c) s = .next ((s.modChannel c fun x => { x with pauseDeadline := none }).raiseAlarm
        .channelPausedLong (.channel c) ((s.channel c).cfg.levelPoint.map fun p => (s.point p).value)).finish)
    ∧ (∀ r d, s.alarms.records.find? (fun x => x.code = r.code ∧ x.source = r.source) = some r →
      r.state = .raisedUnack → r.unack = some d → d + s.alarms.escalation * 60 ≤ s.uptime →
      ∃ t, exec (.escalationExpiry r.code r.source) s = .next t ∧ t = s.finish
        ∧ (r.code ≠ .roundOverrun → s.pool.settled = true → (linesOf s.alarms.lineMap r.cls).callout = true →
          t.alarms.lines.callout = true))

/-- R94, R96 to R102: an allocation pass. Its grants never sum above the supply; a zone that is OFF is granted nothing and a WAITING
one at most its floor. The grants are those of the four stages: the hand claims, met in full or in proportion (R96); the floors from the
air left (R97); the remaining demands, class by class under PRIORITY (R99) and together under LEVEL (R100); and where no zone asks for
more, what an ON_REQUEST zone keeps of its former grant (R101). The pass reads each zone's claim, sets each zone's grant and cap, with
the air-limited judgement where a cap changes (R61), judges AIR_SHORT, raised once with the shortfall and cleared (R98), counts itself and restarts the timer. Then the speeds it sets (R91), the staging that follows it (R88 to R90) and, at
the first pass, the zones that learn of it (R103), in the model's order (notes/assumptions/13.md). And the header pressure (R92): the
two conditions with their alarms at their edges, HEADER_PRESSURE_HIGH first, judged also at a change of the supply figure to or from 0
(R85), which is before the pass of that change (both the model's choice, notes/assumptions/13.md). That a pressure point counts as GOOD
only while its kind is PRESSURE is the model's reading (notes/assumptions/22.md). -/
def Obligations.PassesShareTheSupply : Prop :=
  (∀ (policy : Policy) (supply : Nat) (cs : List Claim), (computeGrants policy supply cs).sum ≤ supply
    ∧ (computeGrants policy supply cs).length = cs.length
    ∧ ∀ i c, cs[i]? = some c →
      (c.mode = .off → (computeGrants policy supply cs).getD i 0 = 0)
      ∧ (c.mode = .waiting → (computeGrants policy supply cs).getD i 0 ≤ c.floor))
  ∧ (∀ (policy : Policy) (supply : Nat) (cs : List Claim), (∀ c ∈ cs, c.priorityClass ≤ 3) →
    let share := fun (air : Nat) (wants : List Nat) => if wants.sum ≤ air then wants else wants.map (air * · / wants.sum)
    let trims := fun c : Claim => c.mode == .auto || c.mode == .fallback
    let hands := share supply (cs.map fun c => if c.mode = .hand then c.demand else 0)
    let floors := share (supply - hands.sum)
      (cs.map fun c => if c.mode = .auto ∨ c.mode = .fallback ∨ c.mode = .waiting then c.floor else 0)
    let wants := List.zipWith (fun (c : Claim) f => if trims c then c.demand - f else 0) cs floors
    let air := supply - hands.sum - floors.sum
    let wanted := fun k : Nat => (List.zipWith (fun (c : Claim) w => if c.priorityClass = k then w else 0) cs wants).sum
    let sooner := fun k : Nat => ((List.range k).map wanted).sum
    let shares := match policy with
      | .level => share air wants
      | .priority => List.zipWith (fun (c : Claim) w => let k := c.priorityClass
          if sooner k + wanted k ≤ air then w else (air - sooner k) * w / wanted k) cs wants
    let computed := List.zipWith (· + ·) (List.zipWith (· + ·) hands floors) shares
    let grants := computeGrants policy supply cs
    let asks := (List.zipWith (fun (c : Claim) g => (trims c || c.mode == .hand) && decide (g < c.demand)) cs computed).any id
    (asks = true → grants = computed)
    ∧ (asks = false → ∀ i c g, cs[i]? = some c → computed[i]? = some g →
      let kept := ((List.range i).map fun j => grants.getD j 0 - computed.getD j 0).sum
      let spare := supply - computed.sum - kept
      grants.getD i 0 = if trims c && c.onRequest then max g (min c.previous (g + spare)) else g))
  ∧ (∀ s : State, s.zones.length = 24 →
    let t := s.allocate
    let grants := computeGrants s.policy s.pool.supply s.claims
    (∀ z < 24, s.claims[z]? = some
      { mode := (s.zone z).mode, demand := s.demand z, floor := (s.zone z).cfg.mixingFloor,
        priorityClass := (s.zone z).cfg.priorityClass, onRequest := (s.zone z).cfg.release == .val .onRequest,
        previous := (s.zone z).grant })
    ∧ (let handClaims := ((List.range 24).map fun z => if (s.zone z).mode = .hand then s.demand z else 0).sum
      let floors := ((List.range 24).map fun z => if (s.zone z).mode = .auto ∨ (s.zone z).mode = .fallback
        ∨ (s.zone z).mode = .waiting then (s.zone z).cfg.mixingFloor else 0).sum
      t.pool.airShort = decide (s.pool.supply < handClaims + floors))
    ∧ t.pool.passCount = (s.pool.passCount + 1) % 65536 ∧ t.pool.lastPass = some s.uptime
      ∧ t.pool.allocDeadline = some (s.uptime + s.pool.cfg.allocationPeriod) ∧ t.pool.supply = s.pool.supply
      ∧ t.blowers = s.blowers ∧ t.points = s.points ∧ t.lanes = s.lanes ∧ t.config = s.config
      ∧ ∀ z < 24, (t.zone z).grant = grants.getD z 0 ∧ (t.zone z).mode = (s.zone z).mode
        ∧ (t.zone z).desired = (s.zone z).desired
        ∧ (t.zone z).cap = if (s.zone z).mode = .off then 0
          else min 1000 (grants.getD z 0 * 1000 / (s.zone z).cfg.fullOpenAir))
  ∧ (∀ s : State,
    let grants := computeGrants s.policy s.pool.supply s.claims
    let floored := fun m : ZoneMode => m = .auto ∨ m = .fallback ∨ m = .waiting
    let handClaims := ((List.range 24).map fun z => if (s.zone z).mode = .hand then s.demand z else 0).sum
    let floors := ((List.range 24).map fun z => if floored (s.zone z).mode then (s.zone z).cfg.mixingFloor else 0).sum
    let demands := ((List.range 24).map fun z => if (s.zone z).mode = .auto ∨ (s.zone z).mode = .fallback
      ∨ (s.zone z).mode = .hand then s.demand z else 0).sum
    let short := s.pool.supply < handClaims + floors
    let flagged := s.modPool fun p => { p with airShort := decide short }
    let told := if short then (if s.pool.airShort then s else
        flagged.raiseAlarm .airShort .header (some (handClaims + floors - s.pool.supply)))
      else flagged.clearAlarm .airShort .header
    let counted := told.modPool fun p => { p with
      figures := ⟨s.pool.supply, handClaims, floors, demands, grants.sum⟩, passCount := (p.passCount + 1) % 65536,
      lastPass := some s.uptime, allocDeadline := some (s.uptime + p.cfg.allocationPeriod) }
    s.allocate = (List.range 24).foldl (fun u z =>
      let cap := if (u.zone z).mode = .off then 0 else min 1000 (grants.getD z 0 * 1000 / (u.zone z).cfg.fullOpenAir)
      let set := u.modZone z fun x => { x with grant := grants.getD z 0, cap := cap }
      if cap = (u.zone z).cap then set else set.judgeAir z) counted)
  ∧ (∀ s : State,
    let a := s.allocate
    let demands := ((List.range 24).map fun z => if (s.zone z).mode = .auto ∨ (s.zone z).mode = .fallback
      ∨ (s.zone z).mode = .hand then s.demand z else 0).sum
    let staged := (((a.setSpeeds (computeGrants s.policy s.pool.supply s.claims).sum).stageUp demands).judgeMinimum).stageDown
      demands
    s.runPass = if staged.pool.firstPassDone then staged
      else (staged.modPool fun p => { p with firstPassDone := true }).rejudgeZones)
  ∧ (∀ (s : State) (grants b : Nat), b < 6 → b < s.blowers.length →
    let x := s.blower b
    let t := s.setSpeeds grants
    let share := (grants * 1000 + s.pool.supply - 1) / s.pool.supply
    let figure := min 1000 (max x.cfg.turndown share)
    let counts := x.cfg.configured = true ∧ (x.state = .running ∨ x.state = .localMode ∧ s.readsRunning b = true)
    (counts → t.blower b = { x with speed := if s.pool.pressureHigh then min x.speed figure else figure })
    ∧ (¬ counts → t.blower b = x) ∧ t = { s with blowers := t.blowers })
  ∧ ∀ s : State,
    (s.pool.cfg.pressurePoint = none → s.judgePressure = s)
    ∧ (∀ p, s.pool.cfg.pressurePoint = some p →
      let v := (s.point p).value
      let good := s.pointGood p .pressure
      let high := good && decide (s.pool.cfg.pressureHigh < v)
      let low := good && decide (v < s.pool.cfg.pressureLow) && decide (0 < s.pool.supply)
      let judged := s.modPool fun q => { q with pressureHigh := high, pressureLow := low }
      let told := if high then
          (if s.pool.pressureHigh then judged else judged.raiseAlarm .headerPressureHigh .header (some v))
        else judged.clearAlarm .headerPressureHigh .header
      s.judgePressure = if low then
          (if s.pool.pressureLow then told else told.raiseAlarm .headerPressureLow .header (some v))
        else told.clearAlarm .headerPressureLow .header)
    ∧ (let noted := s.modPool fun p => { p with supply := s.supplyNow }
      ((s.pool.supply = 0 ↔ s.supplyNow = 0) → s.noteSupply = noted)
      ∧ (¬ (s.pool.supply = 0 ↔ s.supplyNow = 0) → s.noteSupply = noted.judgePressure))
    ∧ ∀ p, let moved := [0, 1, 2, 3, 4, 5].foldl (fun u b =>
        if (u.blower b).cfg.configured = true ∧ (u.blower b).cfg.runPoint = p then u.judgeBlower b else u) s
      s.headerPoint p = if moved.pool.cfg.pressurePoint = some p then moved.judgePressure else moved

end
end

