-- ==== Sys2Proof/Laws/State.lean ====
section
/-! SUPPORT. One lemma per field per update of State: what each named update leaves alone and what it writes. -/

namespace Sys2Proof.Machine

open Sys2Proof

variable (s : State)

/-! ### `modStation` -/

@[simp] theorem State.modStation_uptime (i : Nat) (f : Station → Station) : (s.modStation i f).uptime = s.uptime := rfl
@[simp] theorem State.modStation_stations (i : Nat) (f : Station → Station) : (s.modStation i f).stations = s.stations.modify i f := rfl
@[simp] theorem State.modStation_groups (i : Nat) (f : Station → Station) : (s.modStation i f).groups = s.groups := rfl
@[simp] theorem State.modStation_points (i : Nat) (f : Station → Station) : (s.modStation i f).points = s.points := rfl
@[simp] theorem State.modStation_flc (i : Nat) (f : Station → Station) : (s.modStation i f).flc = s.flc := rfl
@[simp] theorem State.modStation_lanes (i : Nat) (f : Station → Station) : (s.modStation i f).lanes = s.lanes := rfl
@[simp] theorem State.modStation_zones (i : Nat) (f : Station → Station) : (s.modStation i f).zones = s.zones := rfl
@[simp] theorem State.modStation_blowers (i : Nat) (f : Station → Station) : (s.modStation i f).blowers = s.blowers := rfl
@[simp] theorem State.modStation_pool (i : Nat) (f : Station → Station) : (s.modStation i f).pool = s.pool := rfl
@[simp] theorem State.modStation_channels (i : Nat) (f : Station → Station) : (s.modStation i f).channels = s.channels := rfl
@[simp] theorem State.modStation_pairs (i : Nat) (f : Station → Station) : (s.modStation i f).pairs = s.pairs := rfl
@[simp] theorem State.modStation_storm (i : Nat) (f : Station → Station) : (s.modStation i f).storm = s.storm := rfl
@[simp] theorem State.modStation_hand (i : Nat) (f : Station → Station) : (s.modStation i f).hand = s.hand := rfl
@[simp] theorem State.modStation_alarms (i : Nat) (f : Station → Station) : (s.modStation i f).alarms = s.alarms := rfl
@[simp] theorem State.modStation_port (i : Nat) (f : Station → Station) : (s.modStation i f).port = s.port := rfl
@[simp] theorem State.modStation_pending (i : Nat) (f : Station → Station) : (s.modStation i f).pending = s.pending := rfl

/-! ### `modGroup` -/

@[simp] theorem State.modGroup_uptime (g : Nat) (f : Group → Group) : (s.modGroup g f).uptime = s.uptime := rfl
@[simp] theorem State.modGroup_stations (g : Nat) (f : Group → Group) : (s.modGroup g f).stations = s.stations := rfl
@[simp] theorem State.modGroup_groups (g : Nat) (f : Group → Group) : (s.modGroup g f).groups = s.groups.modify g f := rfl
@[simp] theorem State.modGroup_points (g : Nat) (f : Group → Group) : (s.modGroup g f).points = s.points := rfl
@[simp] theorem State.modGroup_flc (g : Nat) (f : Group → Group) : (s.modGroup g f).flc = s.flc := rfl
@[simp] theorem State.modGroup_lanes (g : Nat) (f : Group → Group) : (s.modGroup g f).lanes = s.lanes := rfl
@[simp] theorem State.modGroup_zones (g : Nat) (f : Group → Group) : (s.modGroup g f).zones = s.zones := rfl
@[simp] theorem State.modGroup_blowers (g : Nat) (f : Group → Group) : (s.modGroup g f).blowers = s.blowers := rfl
@[simp] theorem State.modGroup_pool (g : Nat) (f : Group → Group) : (s.modGroup g f).pool = s.pool := rfl
@[simp] theorem State.modGroup_channels (g : Nat) (f : Group → Group) : (s.modGroup g f).channels = s.channels := rfl
@[simp] theorem State.modGroup_pairs (g : Nat) (f : Group → Group) : (s.modGroup g f).pairs = s.pairs := rfl
@[simp] theorem State.modGroup_storm (g : Nat) (f : Group → Group) : (s.modGroup g f).storm = s.storm := rfl
@[simp] theorem State.modGroup_hand (g : Nat) (f : Group → Group) : (s.modGroup g f).hand = s.hand := rfl
@[simp] theorem State.modGroup_alarms (g : Nat) (f : Group → Group) : (s.modGroup g f).alarms = s.alarms := rfl
@[simp] theorem State.modGroup_port (g : Nat) (f : Group → Group) : (s.modGroup g f).port = s.port := rfl
@[simp] theorem State.modGroup_pending (g : Nat) (f : Group → Group) : (s.modGroup g f).pending = s.pending := rfl

/-! ### `modPoint` -/

@[simp] theorem State.modPoint_uptime (p : Nat) (f : Point → Point) : (s.modPoint p f).uptime = s.uptime := rfl
@[simp] theorem State.modPoint_stations (p : Nat) (f : Point → Point) : (s.modPoint p f).stations = s.stations := rfl
@[simp] theorem State.modPoint_groups (p : Nat) (f : Point → Point) : (s.modPoint p f).groups = s.groups := rfl
@[simp] theorem State.modPoint_points (p : Nat) (f : Point → Point) : (s.modPoint p f).points = s.points.modify p f := rfl
@[simp] theorem State.modPoint_flc (p : Nat) (f : Point → Point) : (s.modPoint p f).flc = s.flc := rfl
@[simp] theorem State.modPoint_lanes (p : Nat) (f : Point → Point) : (s.modPoint p f).lanes = s.lanes := rfl
@[simp] theorem State.modPoint_zones (p : Nat) (f : Point → Point) : (s.modPoint p f).zones = s.zones := rfl
@[simp] theorem State.modPoint_blowers (p : Nat) (f : Point → Point) : (s.modPoint p f).blowers = s.blowers := rfl
@[simp] theorem State.modPoint_pool (p : Nat) (f : Point → Point) : (s.modPoint p f).pool = s.pool := rfl
@[simp] theorem State.modPoint_channels (p : Nat) (f : Point → Point) : (s.modPoint p f).channels = s.channels := rfl
@[simp] theorem State.modPoint_pairs (p : Nat) (f : Point → Point) : (s.modPoint p f).pairs = s.pairs := rfl
@[simp] theorem State.modPoint_storm (p : Nat) (f : Point → Point) : (s.modPoint p f).storm = s.storm := rfl
@[simp] theorem State.modPoint_hand (p : Nat) (f : Point → Point) : (s.modPoint p f).hand = s.hand := rfl
@[simp] theorem State.modPoint_alarms (p : Nat) (f : Point → Point) : (s.modPoint p f).alarms = s.alarms := rfl
@[simp] theorem State.modPoint_port (p : Nat) (f : Point → Point) : (s.modPoint p f).port = s.port := rfl
@[simp] theorem State.modPoint_pending (p : Nat) (f : Point → Point) : (s.modPoint p f).pending = s.pending := rfl

/-! ### `modLane` -/

@[simp] theorem State.modLane_uptime (l : Nat) (f : Lane → Lane) : (s.modLane l f).uptime = s.uptime := rfl
@[simp] theorem State.modLane_stations (l : Nat) (f : Lane → Lane) : (s.modLane l f).stations = s.stations := rfl
@[simp] theorem State.modLane_groups (l : Nat) (f : Lane → Lane) : (s.modLane l f).groups = s.groups := rfl
@[simp] theorem State.modLane_points (l : Nat) (f : Lane → Lane) : (s.modLane l f).points = s.points := rfl
@[simp] theorem State.modLane_flc (l : Nat) (f : Lane → Lane) : (s.modLane l f).flc = s.flc := rfl
@[simp] theorem State.modLane_lanes (l : Nat) (f : Lane → Lane) : (s.modLane l f).lanes = s.lanes.modify l f := rfl
@[simp] theorem State.modLane_zones (l : Nat) (f : Lane → Lane) : (s.modLane l f).zones = s.zones := rfl
@[simp] theorem State.modLane_blowers (l : Nat) (f : Lane → Lane) : (s.modLane l f).blowers = s.blowers := rfl
@[simp] theorem State.modLane_pool (l : Nat) (f : Lane → Lane) : (s.modLane l f).pool = s.pool := rfl
@[simp] theorem State.modLane_channels (l : Nat) (f : Lane → Lane) : (s.modLane l f).channels = s.channels := rfl
@[simp] theorem State.modLane_pairs (l : Nat) (f : Lane → Lane) : (s.modLane l f).pairs = s.pairs := rfl
@[simp] theorem State.modLane_storm (l : Nat) (f : Lane → Lane) : (s.modLane l f).storm = s.storm := rfl
@[simp] theorem State.modLane_hand (l : Nat) (f : Lane → Lane) : (s.modLane l f).hand = s.hand := rfl
@[simp] theorem State.modLane_alarms (l : Nat) (f : Lane → Lane) : (s.modLane l f).alarms = s.alarms := rfl
@[simp] theorem State.modLane_port (l : Nat) (f : Lane → Lane) : (s.modLane l f).port = s.port := rfl
@[simp] theorem State.modLane_pending (l : Nat) (f : Lane → Lane) : (s.modLane l f).pending = s.pending := rfl

/-! ### `modZone` -/

@[simp] theorem State.modZone_uptime (z : Nat) (f : Zone → Zone) : (s.modZone z f).uptime = s.uptime := rfl
@[simp] theorem State.modZone_stations (z : Nat) (f : Zone → Zone) : (s.modZone z f).stations = s.stations := rfl
@[simp] theorem State.modZone_groups (z : Nat) (f : Zone → Zone) : (s.modZone z f).groups = s.groups := rfl
@[simp] theorem State.modZone_points (z : Nat) (f : Zone → Zone) : (s.modZone z f).points = s.points := rfl
@[simp] theorem State.modZone_flc (z : Nat) (f : Zone → Zone) : (s.modZone z f).flc = s.flc := rfl
@[simp] theorem State.modZone_lanes (z : Nat) (f : Zone → Zone) : (s.modZone z f).lanes = s.lanes := rfl
@[simp] theorem State.modZone_zones (z : Nat) (f : Zone → Zone) : (s.modZone z f).zones = s.zones.modify z f := rfl
@[simp] theorem State.modZone_blowers (z : Nat) (f : Zone → Zone) : (s.modZone z f).blowers = s.blowers := rfl
@[simp] theorem State.modZone_pool (z : Nat) (f : Zone → Zone) : (s.modZone z f).pool = s.pool := rfl
@[simp] theorem State.modZone_channels (z : Nat) (f : Zone → Zone) : (s.modZone z f).channels = s.channels := rfl
@[simp] theorem State.modZone_pairs (z : Nat) (f : Zone → Zone) : (s.modZone z f).pairs = s.pairs := rfl
@[simp] theorem State.modZone_storm (z : Nat) (f : Zone → Zone) : (s.modZone z f).storm = s.storm := rfl
@[simp] theorem State.modZone_hand (z : Nat) (f : Zone → Zone) : (s.modZone z f).hand = s.hand := rfl
@[simp] theorem State.modZone_alarms (z : Nat) (f : Zone → Zone) : (s.modZone z f).alarms = s.alarms := rfl
@[simp] theorem State.modZone_port (z : Nat) (f : Zone → Zone) : (s.modZone z f).port = s.port := rfl
@[simp] theorem State.modZone_pending (z : Nat) (f : Zone → Zone) : (s.modZone z f).pending = s.pending := rfl

/-! ### `modBlower` -/

@[simp] theorem State.modBlower_uptime (b : Nat) (f : Blower → Blower) : (s.modBlower b f).uptime = s.uptime := rfl
@[simp] theorem State.modBlower_stations (b : Nat) (f : Blower → Blower) : (s.modBlower b f).stations = s.stations := rfl
@[simp] theorem State.modBlower_groups (b : Nat) (f : Blower → Blower) : (s.modBlower b f).groups = s.groups := rfl
@[simp] theorem State.modBlower_points (b : Nat) (f : Blower → Blower) : (s.modBlower b f).points = s.points := rfl
@[simp] theorem State.modBlower_flc (b : Nat) (f : Blower → Blower) : (s.modBlower b f).flc = s.flc := rfl
@[simp] theorem State.modBlower_lanes (b : Nat) (f : Blower → Blower) : (s.modBlower b f).lanes = s.lanes := rfl
@[simp] theorem State.modBlower_zones (b : Nat) (f : Blower → Blower) : (s.modBlower b f).zones = s.zones := rfl
@[simp] theorem State.modBlower_blowers (b : Nat) (f : Blower → Blower) : (s.modBlower b f).blowers = s.blowers.modify b f := rfl
@[simp] theorem State.modBlower_pool (b : Nat) (f : Blower → Blower) : (s.modBlower b f).pool = s.pool := rfl
@[simp] theorem State.modBlower_channels (b : Nat) (f : Blower → Blower) : (s.modBlower b f).channels = s.channels := rfl
@[simp] theorem State.modBlower_pairs (b : Nat) (f : Blower → Blower) : (s.modBlower b f).pairs = s.pairs := rfl
@[simp] theorem State.modBlower_storm (b : Nat) (f : Blower → Blower) : (s.modBlower b f).storm = s.storm := rfl
@[simp] theorem State.modBlower_hand (b : Nat) (f : Blower → Blower) : (s.modBlower b f).hand = s.hand := rfl
@[simp] theorem State.modBlower_alarms (b : Nat) (f : Blower → Blower) : (s.modBlower b f).alarms = s.alarms := rfl
@[simp] theorem State.modBlower_port (b : Nat) (f : Blower → Blower) : (s.modBlower b f).port = s.port := rfl
@[simp] theorem State.modBlower_pending (b : Nat) (f : Blower → Blower) : (s.modBlower b f).pending = s.pending := rfl

/-! ### `modChannel` -/

@[simp] theorem State.modChannel_uptime (c : Nat) (f : Channel → Channel) : (s.modChannel c f).uptime = s.uptime := rfl
@[simp] theorem State.modChannel_stations (c : Nat) (f : Channel → Channel) : (s.modChannel c f).stations = s.stations := rfl
@[simp] theorem State.modChannel_groups (c : Nat) (f : Channel → Channel) : (s.modChannel c f).groups = s.groups := rfl
@[simp] theorem State.modChannel_points (c : Nat) (f : Channel → Channel) : (s.modChannel c f).points = s.points := rfl
@[simp] theorem State.modChannel_flc (c : Nat) (f : Channel → Channel) : (s.modChannel c f).flc = s.flc := rfl
@[simp] theorem State.modChannel_lanes (c : Nat) (f : Channel → Channel) : (s.modChannel c f).lanes = s.lanes := rfl
@[simp] theorem State.modChannel_zones (c : Nat) (f : Channel → Channel) : (s.modChannel c f).zones = s.zones := rfl
@[simp] theorem State.modChannel_blowers (c : Nat) (f : Channel → Channel) : (s.modChannel c f).blowers = s.blowers := rfl
@[simp] theorem State.modChannel_pool (c : Nat) (f : Channel → Channel) : (s.modChannel c f).pool = s.pool := rfl
@[simp] theorem State.modChannel_channels (c : Nat) (f : Channel → Channel) : (s.modChannel c f).channels = s.channels.modify c f := rfl
@[simp] theorem State.modChannel_pairs (c : Nat) (f : Channel → Channel) : (s.modChannel c f).pairs = s.pairs := rfl
@[simp] theorem State.modChannel_storm (c : Nat) (f : Channel → Channel) : (s.modChannel c f).storm = s.storm := rfl
@[simp] theorem State.modChannel_hand (c : Nat) (f : Channel → Channel) : (s.modChannel c f).hand = s.hand := rfl
@[simp] theorem State.modChannel_alarms (c : Nat) (f : Channel → Channel) : (s.modChannel c f).alarms = s.alarms := rfl
@[simp] theorem State.modChannel_port (c : Nat) (f : Channel → Channel) : (s.modChannel c f).port = s.port := rfl
@[simp] theorem State.modChannel_pending (c : Nat) (f : Channel → Channel) : (s.modChannel c f).pending = s.pending := rfl

/-! ### `modPair` -/

@[simp] theorem State.modPair_uptime (k : Nat) (f : Pair → Pair) : (s.modPair k f).uptime = s.uptime := rfl
@[simp] theorem State.modPair_stations (k : Nat) (f : Pair → Pair) : (s.modPair k f).stations = s.stations := rfl
@[simp] theorem State.modPair_groups (k : Nat) (f : Pair → Pair) : (s.modPair k f).groups = s.groups := rfl
@[simp] theorem State.modPair_points (k : Nat) (f : Pair → Pair) : (s.modPair k f).points = s.points := rfl
@[simp] theorem State.modPair_flc (k : Nat) (f : Pair → Pair) : (s.modPair k f).flc = s.flc := rfl
@[simp] theorem State.modPair_lanes (k : Nat) (f : Pair → Pair) : (s.modPair k f).lanes = s.lanes := rfl
@[simp] theorem State.modPair_zones (k : Nat) (f : Pair → Pair) : (s.modPair k f).zones = s.zones := rfl
@[simp] theorem State.modPair_blowers (k : Nat) (f : Pair → Pair) : (s.modPair k f).blowers = s.blowers := rfl
@[simp] theorem State.modPair_pool (k : Nat) (f : Pair → Pair) : (s.modPair k f).pool = s.pool := rfl
@[simp] theorem State.modPair_channels (k : Nat) (f : Pair → Pair) : (s.modPair k f).channels = s.channels := rfl
@[simp] theorem State.modPair_pairs (k : Nat) (f : Pair → Pair) : (s.modPair k f).pairs = s.pairs.modify k f := rfl
@[simp] theorem State.modPair_storm (k : Nat) (f : Pair → Pair) : (s.modPair k f).storm = s.storm := rfl
@[simp] theorem State.modPair_hand (k : Nat) (f : Pair → Pair) : (s.modPair k f).hand = s.hand := rfl
@[simp] theorem State.modPair_alarms (k : Nat) (f : Pair → Pair) : (s.modPair k f).alarms = s.alarms := rfl
@[simp] theorem State.modPair_port (k : Nat) (f : Pair → Pair) : (s.modPair k f).port = s.port := rfl
@[simp] theorem State.modPair_pending (k : Nat) (f : Pair → Pair) : (s.modPair k f).pending = s.pending := rfl

/-! ### `modFlc` -/

@[simp] theorem State.modFlc_uptime (f : Flc → Flc) : (s.modFlc f).uptime = s.uptime := rfl
@[simp] theorem State.modFlc_stations (f : Flc → Flc) : (s.modFlc f).stations = s.stations := rfl
@[simp] theorem State.modFlc_groups (f : Flc → Flc) : (s.modFlc f).groups = s.groups := rfl
@[simp] theorem State.modFlc_points (f : Flc → Flc) : (s.modFlc f).points = s.points := rfl
@[simp] theorem State.modFlc_flc (f : Flc → Flc) : (s.modFlc f).flc = f s.flc := rfl
@[simp] theorem State.modFlc_lanes (f : Flc → Flc) : (s.modFlc f).lanes = s.lanes := rfl
@[simp] theorem State.modFlc_zones (f : Flc → Flc) : (s.modFlc f).zones = s.zones := rfl
@[simp] theorem State.modFlc_blowers (f : Flc → Flc) : (s.modFlc f).blowers = s.blowers := rfl
@[simp] theorem State.modFlc_pool (f : Flc → Flc) : (s.modFlc f).pool = s.pool := rfl
@[simp] theorem State.modFlc_channels (f : Flc → Flc) : (s.modFlc f).channels = s.channels := rfl
@[simp] theorem State.modFlc_pairs (f : Flc → Flc) : (s.modFlc f).pairs = s.pairs := rfl
@[simp] theorem State.modFlc_storm (f : Flc → Flc) : (s.modFlc f).storm = s.storm := rfl
@[simp] theorem State.modFlc_hand (f : Flc → Flc) : (s.modFlc f).hand = s.hand := rfl
@[simp] theorem State.modFlc_alarms (f : Flc → Flc) : (s.modFlc f).alarms = s.alarms := rfl
@[simp] theorem State.modFlc_port (f : Flc → Flc) : (s.modFlc f).port = s.port := rfl
@[simp] theorem State.modFlc_pending (f : Flc → Flc) : (s.modFlc f).pending = s.pending := rfl

/-! ### `modPool` -/

@[simp] theorem State.modPool_uptime (f : Pool → Pool) : (s.modPool f).uptime = s.uptime := rfl
@[simp] theorem State.modPool_stations (f : Pool → Pool) : (s.modPool f).stations = s.stations := rfl
@[simp] theorem State.modPool_groups (f : Pool → Pool) : (s.modPool f).groups = s.groups := rfl
@[simp] theorem State.modPool_points (f : Pool → Pool) : (s.modPool f).points = s.points := rfl
@[simp] theorem State.modPool_flc (f : Pool → Pool) : (s.modPool f).flc = s.flc := rfl
@[simp] theorem State.modPool_lanes (f : Pool → Pool) : (s.modPool f).lanes = s.lanes := rfl
@[simp] theorem State.modPool_zones (f : Pool → Pool) : (s.modPool f).zones = s.zones := rfl
@[simp] theorem State.modPool_blowers (f : Pool → Pool) : (s.modPool f).blowers = s.blowers := rfl
@[simp] theorem State.modPool_pool (f : Pool → Pool) : (s.modPool f).pool = f s.pool := rfl
@[simp] theorem State.modPool_channels (f : Pool → Pool) : (s.modPool f).channels = s.channels := rfl
@[simp] theorem State.modPool_pairs (f : Pool → Pool) : (s.modPool f).pairs = s.pairs := rfl
@[simp] theorem State.modPool_storm (f : Pool → Pool) : (s.modPool f).storm = s.storm := rfl
@[simp] theorem State.modPool_hand (f : Pool → Pool) : (s.modPool f).hand = s.hand := rfl
@[simp] theorem State.modPool_alarms (f : Pool → Pool) : (s.modPool f).alarms = s.alarms := rfl
@[simp] theorem State.modPool_port (f : Pool → Pool) : (s.modPool f).port = s.port := rfl
@[simp] theorem State.modPool_pending (f : Pool → Pool) : (s.modPool f).pending = s.pending := rfl

/-! ### `modStorm` -/

@[simp] theorem State.modStorm_uptime (f : Storm → Storm) : (s.modStorm f).uptime = s.uptime := rfl
@[simp] theorem State.modStorm_stations (f : Storm → Storm) : (s.modStorm f).stations = s.stations := rfl
@[simp] theorem State.modStorm_groups (f : Storm → Storm) : (s.modStorm f).groups = s.groups := rfl
@[simp] theorem State.modStorm_points (f : Storm → Storm) : (s.modStorm f).points = s.points := rfl
@[simp] theorem State.modStorm_flc (f : Storm → Storm) : (s.modStorm f).flc = s.flc := rfl
@[simp] theorem State.modStorm_lanes (f : Storm → Storm) : (s.modStorm f).lanes = s.lanes := rfl
@[simp] theorem State.modStorm_zones (f : Storm → Storm) : (s.modStorm f).zones = s.zones := rfl
@[simp] theorem State.modStorm_blowers (f : Storm → Storm) : (s.modStorm f).blowers = s.blowers := rfl
@[simp] theorem State.modStorm_pool (f : Storm → Storm) : (s.modStorm f).pool = s.pool := rfl
@[simp] theorem State.modStorm_channels (f : Storm → Storm) : (s.modStorm f).channels = s.channels := rfl
@[simp] theorem State.modStorm_pairs (f : Storm → Storm) : (s.modStorm f).pairs = s.pairs := rfl
@[simp] theorem State.modStorm_storm (f : Storm → Storm) : (s.modStorm f).storm = f s.storm := rfl
@[simp] theorem State.modStorm_hand (f : Storm → Storm) : (s.modStorm f).hand = s.hand := rfl
@[simp] theorem State.modStorm_alarms (f : Storm → Storm) : (s.modStorm f).alarms = s.alarms := rfl
@[simp] theorem State.modStorm_port (f : Storm → Storm) : (s.modStorm f).port = s.port := rfl
@[simp] theorem State.modStorm_pending (f : Storm → Storm) : (s.modStorm f).pending = s.pending := rfl

/-! ### `modAlarms` -/

@[simp] theorem State.modAlarms_uptime (f : Alarms → Alarms) : (s.modAlarms f).uptime = s.uptime := rfl
@[simp] theorem State.modAlarms_stations (f : Alarms → Alarms) : (s.modAlarms f).stations = s.stations := rfl
@[simp] theorem State.modAlarms_groups (f : Alarms → Alarms) : (s.modAlarms f).groups = s.groups := rfl
@[simp] theorem State.modAlarms_points (f : Alarms → Alarms) : (s.modAlarms f).points = s.points := rfl
@[simp] theorem State.modAlarms_flc (f : Alarms → Alarms) : (s.modAlarms f).flc = s.flc := rfl
@[simp] theorem State.modAlarms_lanes (f : Alarms → Alarms) : (s.modAlarms f).lanes = s.lanes := rfl
@[simp] theorem State.modAlarms_zones (f : Alarms → Alarms) : (s.modAlarms f).zones = s.zones := rfl
@[simp] theorem State.modAlarms_blowers (f : Alarms → Alarms) : (s.modAlarms f).blowers = s.blowers := rfl
@[simp] theorem State.modAlarms_pool (f : Alarms → Alarms) : (s.modAlarms f).pool = s.pool := rfl
@[simp] theorem State.modAlarms_channels (f : Alarms → Alarms) : (s.modAlarms f).channels = s.channels := rfl
@[simp] theorem State.modAlarms_pairs (f : Alarms → Alarms) : (s.modAlarms f).pairs = s.pairs := rfl
@[simp] theorem State.modAlarms_storm (f : Alarms → Alarms) : (s.modAlarms f).storm = s.storm := rfl
@[simp] theorem State.modAlarms_hand (f : Alarms → Alarms) : (s.modAlarms f).hand = s.hand := rfl
@[simp] theorem State.modAlarms_alarms (f : Alarms → Alarms) : (s.modAlarms f).alarms = f s.alarms := rfl
@[simp] theorem State.modAlarms_port (f : Alarms → Alarms) : (s.modAlarms f).port = s.port := rfl
@[simp] theorem State.modAlarms_pending (f : Alarms → Alarms) : (s.modAlarms f).pending = s.pending := rfl

/-! ### `modPort` -/

@[simp] theorem State.modPort_uptime (f : Port → Port) : (s.modPort f).uptime = s.uptime := rfl
@[simp] theorem State.modPort_stations (f : Port → Port) : (s.modPort f).stations = s.stations := rfl
@[simp] theorem State.modPort_groups (f : Port → Port) : (s.modPort f).groups = s.groups := rfl
@[simp] theorem State.modPort_points (f : Port → Port) : (s.modPort f).points = s.points := rfl
@[simp] theorem State.modPort_flc (f : Port → Port) : (s.modPort f).flc = s.flc := rfl
@[simp] theorem State.modPort_lanes (f : Port → Port) : (s.modPort f).lanes = s.lanes := rfl
@[simp] theorem State.modPort_zones (f : Port → Port) : (s.modPort f).zones = s.zones := rfl
@[simp] theorem State.modPort_blowers (f : Port → Port) : (s.modPort f).blowers = s.blowers := rfl
@[simp] theorem State.modPort_pool (f : Port → Port) : (s.modPort f).pool = s.pool := rfl
@[simp] theorem State.modPort_channels (f : Port → Port) : (s.modPort f).channels = s.channels := rfl
@[simp] theorem State.modPort_pairs (f : Port → Port) : (s.modPort f).pairs = s.pairs := rfl
@[simp] theorem State.modPort_storm (f : Port → Port) : (s.modPort f).storm = s.storm := rfl
@[simp] theorem State.modPort_hand (f : Port → Port) : (s.modPort f).hand = s.hand := rfl
@[simp] theorem State.modPort_alarms (f : Port → Port) : (s.modPort f).alarms = s.alarms := rfl
@[simp] theorem State.modPort_port (f : Port → Port) : (s.modPort f).port = f s.port := rfl
@[simp] theorem State.modPort_pending (f : Port → Port) : (s.modPort f).pending = s.pending := rfl

/-! ### Reading a bank after a change of one entry -/

theorem getD_modify {α : Type} (l : List α) (i j : Nat) (f : α → α) (d : α) :
    (l.modify i f).getD j d = if i = j ∧ j < l.length then f (l.getD j d) else l.getD j d := by
  rw [List.getD_eq_getElem?_getD, List.getD_eq_getElem?_getD, List.getElem?_modify]
  by_cases hj : j < l.length <;> by_cases hij : i = j <;> simp [hj, hij]

theorem map_modify_of_fix {α β : Type} (g : α → β) (f : α → α) (h : ∀ x, g (f x) = g x) (l : List α) (i : Nat) :
    (l.modify i f).map g = l.map g := by
  apply List.ext_getElem?
  intro j
  simp only [List.getElem?_map, List.getElem?_modify]
  cases l[j]? <;> by_cases hij : i = j <;> simp [hij, h]

theorem State.station_modStation (i j : Nat) (f : Station → Station) :
    (s.modStation i f).station j = if i = j ∧ j < s.stations.length then f (s.station j) else s.station j := getD_modify _ _ _ _ _

theorem State.group_modGroup (i j : Nat) (f : Group → Group) :
    (s.modGroup i f).group j = if i = j ∧ j < s.groups.length then f (s.group j) else s.group j := getD_modify _ _ _ _ _

theorem State.point_modPoint (i j : Nat) (f : Point → Point) :
    (s.modPoint i f).point j = if i = j ∧ j < s.points.length then f (s.point j) else s.point j := getD_modify _ _ _ _ _

theorem State.lane_modLane (i j : Nat) (f : Lane → Lane) :
    (s.modLane i f).lane j = if i = j ∧ j < s.lanes.length then f (s.lane j) else s.lane j := getD_modify _ _ _ _ _

theorem State.zone_modZone (i j : Nat) (f : Zone → Zone) :
    (s.modZone i f).zone j = if i = j ∧ j < s.zones.length then f (s.zone j) else s.zone j := getD_modify _ _ _ _ _

theorem State.blower_modBlower (i j : Nat) (f : Blower → Blower) :
    (s.modBlower i f).blower j = if i = j ∧ j < s.blowers.length then f (s.blower j) else s.blower j := getD_modify _ _ _ _ _

theorem State.channel_modChannel (i j : Nat) (f : Channel → Channel) :
    (s.modChannel i f).channel j = if i = j ∧ j < s.channels.length then f (s.channel j) else s.channel j := getD_modify _ _ _ _ _

theorem State.pair_modPair (i j : Nat) (f : Pair → Pair) :
    (s.modPair i f).pair j = if i = j ∧ j < s.pairs.length then f (s.pair j) else s.pair j := getD_modify _ _ _ _ _

end Sys2Proof.Machine
end

