-- ==== Sys2Proof/Laws/Blocks.lean ====
section
/-! SUPPORT. What the blocks do to the state, said once: a property kept by a handful of small changes is kept by every event of
the zones and the blower pool (`AirBlocks`), of every block of the plant (`Blocks`), and of the points (`PointBlocks`). Frames and
invariants are instances. -/

namespace Sys2Proof.Machine

open Sys2Proof

/-- Kept by the small changes that the zones' judgements, the allocation and the blower pool are made of: running state
changes, configuration does not. -/
structure AirBlocks (P : State → Prop) : Prop where
  zone : ∀ {s : State} (z : Nat) (f : Zone → Zone), (∀ x, (f x).cfg = x.cfg) → P s → P (s.modZone z f)
  blower : ∀ {s : State} (b : Nat) (f : Blower → Blower),
    (∀ x, (f x).cfg = x.cfg ∧ (f x).lockout = x.lockout ∧ ((f x).state = .starting → x.state = .starting)) → P s →
    P (s.modBlower b f)
  start : ∀ {s : State} (b speed : Nat), s.someStarting = false → P s →
    P (s.modBlower b fun x => x.entered s.uptime .starting none speed)
  pool : ∀ {s : State} (f : Pool → Pool), (∀ x, (f x).cfg = x.cfg ∧ (f x).dutyOrder = x.dutyOrder) → P s → P (s.modPool f)
  notice : ∀ {s : State} (n : Notice), P s → P (s.offerNotice n)
  express : ∀ {s : State} (e : ExpressEntry), P s → P (s.offerExpress e)
  raise : ∀ {s : State} (code : AlarmCode) (src : Source) (v : Option Nat), P s → P (s.raiseAlarm code src v)
  clear : ∀ {s : State} (code : AlarmCode) (src : Source), P s → P (s.clearAlarm code src)

/-- What a channel's record keeps wherever it is neither started nor metered: its configuration and its figures. It does not leave
DISABLED so. -/
def Channel.Keeps (x y : Channel) : Prop :=
  y.cfg = x.cfg ∧ y.target = x.target ∧ y.remaining = x.remaining ∧ y.counted = x.counted ∧ y.cycles = x.cycles
    ∧ y.overshoot = x.overshoot ∧ (y.state = .disabled ∨ x.state ≠ .disabled)

/-- Kept by any change of a channel's running state, and by what goes with it: what a start and a metered reading are made of. -/
structure AnyChannel (P : State → Prop) : Prop where
  channel : ∀ {s : State} (c : Nat) (f : Channel → Channel), (∀ x, (f x).cfg = x.cfg) → P s → P (s.modChannel c f)
  pair : ∀ {s : State} (k : Nat) (f : Pair → Pair), (∀ x, (f x).joined = x.joined) → P s → P (s.modPair k f)
  notice : ∀ {s : State} (n : Notice), P s → P (s.offerNotice n)
  raise : ∀ {s : State} (code : AlarmCode) (src : Source) (v : Option Nat), P s → P (s.raiseAlarm code src v)
  clear : ∀ {s : State} (code : AlarmCode) (src : Source), P s → P (s.clearAlarm code src)

/-- Kept by the events of the lanes, channels, Storm Monitor and hand passages as well. -/
structure Blocks (P : State → Prop) : Prop extends AirBlocks P where
  lane : ∀ {s : State} (l : Nat) (f : Lane → Lane), (∀ x, (f x).cfg = x.cfg ∧ (f x).inService = x.inService) → P s →
    P (s.modLane l f)
  channel : ∀ {s : State} (c : Nat) (f : Channel → Channel), (s.channel c).Keeps (f (s.channel c)) → P s →
    P (s.modChannel c f)
  startChannel : ∀ {s : State} (c : Nat), (s.channel c).cfg.configured = true → P s → P (s.startChannel c)
  meter : ∀ {s : State} (c v : Nat), P s → P (s.meter c v)
  pair : ∀ {s : State} (k : Nat) (f : Pair → Pair), (∀ x, (f x).joined = x.joined) → P s → P (s.modPair k f)
  storm : ∀ {s : State} (f : Storm → Storm), (∀ x, (f x).cfg = x.cfg ∧ (f x).force = x.force) → P s → P (s.modStorm f)
  stepped : ∀ {s : State} (p : Nat), P s → P (s.modPoint p fun x => { x with fresh := false })
  passage : ∀ {s : State} (t : HandTarget), P s → P (s.dropPassage t)

/-- Kept by the events of the points as well. -/
structure PointBlocks (P : State → Prop) : Prop extends Blocks P where
  point : ∀ {s : State} (p : Nat) (f : Point → Point), (∀ x, (f x).cfg = x.cfg) → P s → P (s.modPoint p f)
  forward : ∀ {s : State} (e : PendingPoint), P s → P (s.offerForward e)

variable {P : State → Prop} {s : State}

theorem ite_keeps {c : Prop} [Decidable c] {a b : State} (ha : P a) (hb : P b) : P (if c then a else b) := by
  split <;> assumption

theorem foldl_keeps {α : Type} {f : State → α → State} (hf : ∀ s a, P s → P (f s a)) (l : List α) (h : P s) :
    P (l.foldl f s) := by
  induction l generalizing s with
  | nil => exact h
  | cons a l ih => exact ih (hf s a h)

theorem each_keeps {f : Nat → State → State} (n : Nat) (hf : ∀ i s, P s → P (f i s)) (h : P s) : P (s.each n f) :=
  foldl_keeps (fun s i => hf i s) _ h

theorem AirBlocks.offerDrive (hP : AirBlocks P) (h : P s) (t : Target) (d : Drive) : P (State.offerDrive s t d) := by
  unfold State.offerDrive
  repeat' first
    | with_reducible assumption
    | with_reducible apply hP.express

theorem AirBlocks.setAlarm (hP : AirBlocks P) (h : P s) (code : AlarmCode) (src : Source) (holds : Bool) (value : Option Nat) : P (State.setAlarm s code src holds value) := by
  unfold State.setAlarm
  repeat' first
    | with_reducible assumption
    | with_reducible apply hP.raise
    | with_reducible apply hP.clear
    | with_reducible apply ite_keeps

theorem AirBlocks.setMode (hP : AirBlocks P) (h : P s) (z : Nat) (m : ZoneMode) (c : Causes) : P (State.setMode s z m c) := by
  unfold State.setMode
  dsimp only
  repeat' first
    | with_reducible assumption
    | with_reducible refine hP.zone _ _ (fun _ => ?_) ?_
    | with_reducible apply hP.notice
    | with_reducible apply ite_keeps
    | rfl

theorem AirBlocks.causeAlarm (hP : AirBlocks P) (h : P s) (z : Nat) (code : AlarmCode) (was : Bool) (is : Bool) (entry : Bool) : P (State.causeAlarm s z code was is entry) := by
  unfold State.causeAlarm
  repeat' first
    | with_reducible assumption
    | with_reducible apply hP.raise
    | with_reducible apply hP.clear
    | with_reducible apply ite_keeps

theorem AirBlocks.causeAlarms (hP : AirBlocks P) (h : P s) (z : Nat) (old : Causes) (new : Causes) (entry : Bool) : P (State.causeAlarms s z old new entry) := by
  unfold State.causeAlarms
  repeat' first
    | with_reducible assumption
    | with_reducible apply hP.causeAlarm

theorem AirBlocks.endAir (hP : AirBlocks P) (h : P s) (z : Nat) : P (State.endAir s z) := by
  unfold State.endAir
  repeat' first
    | with_reducible assumption
    | with_reducible refine hP.zone _ _ (fun _ => ?_) ?_
    | with_reducible apply hP.clear
    | rfl

theorem AirBlocks.endDoLow (hP : AirBlocks P) (h : P s) (z : Nat) : P (State.endDoLow s z) := by
  unfold State.endDoLow
  repeat' first
    | with_reducible assumption
    | with_reducible refine hP.zone _ _ (fun _ => ?_) ?_
    | with_reducible apply hP.clear
    | rfl

theorem AirBlocks.judgeAir (hP : AirBlocks P) (h : P s) (z : Nat) : P (State.judgeAir s z) := by
  unfold State.judgeAir
  dsimp only
  repeat' first
    | with_reducible assumption
    | with_reducible refine hP.zone _ _ (fun _ => ?_) ?_
    | with_reducible apply hP.raise
    | with_reducible apply hP.endAir
    | with_reducible apply ite_keeps
    | rfl

theorem AirBlocks.judgeDoLow (hP : AirBlocks P) (h : P s) (z : Nat) : P (State.judgeDoLow s z) := by
  unfold State.judgeDoLow
  dsimp only
  repeat' first
    | with_reducible assumption
    | with_reducible refine hP.zone _ _ (fun _ => ?_) ?_
    | with_reducible apply hP.raise
    | with_reducible apply hP.endDoLow
    | with_reducible apply ite_keeps
    | rfl

theorem AirBlocks.judgeSetpoint (hP : AirBlocks P) (h : P s) (z : Nat) : P (State.judgeSetpoint s z) := by
  unfold State.judgeSetpoint
  repeat' first
    | with_reducible assumption
    | with_reducible apply hP.judgeAir
    | with_reducible apply hP.judgeDoLow

theorem AirBlocks.startTrim (hP : AirBlocks P) (h : P s) (z : Nat) : P (State.startTrim s z) := by
  unfold State.startTrim
  repeat' first
    | with_reducible assumption
    | with_reducible refine hP.zone _ _ (fun _ => ?_) ?_
    | rfl

theorem AirBlocks.enterAuto (hP : AirBlocks P) (h : P s) (z : Nat) (desired : Nat) : P (State.enterAuto s z desired) := by
  unfold State.enterAuto
  dsimp only
  repeat' first
    | with_reducible assumption
    | with_reducible refine hP.zone _ _ (fun _ => ?_) ?_
    | with_reducible apply hP.startTrim
    | with_reducible apply hP.setMode
    | with_reducible apply hP.causeAlarms
    | with_reducible apply hP.judgeAir
    | with_reducible apply ite_keeps
    | rfl

theorem AirBlocks.doJoined (hP : AirBlocks P) (h : P s) (z : Nat) (old : Causes) (new : Causes) : P (State.doJoined s z old new) := by
  unfold State.doJoined
  repeat' first
    | with_reducible assumption
    | with_reducible apply hP.endDoLow
    | with_reducible apply ite_keeps

theorem AirBlocks.offerFallback (hP : AirBlocks P) (h : P s) (z : Nat) : P (State.offerFallback s z) := by
  unfold State.offerFallback
  repeat' first
    | with_reducible assumption
    | with_reducible apply hP.offerDrive

theorem AirBlocks.enterFallback (hP : AirBlocks P) (h : P s) (z : Nat) (c : Causes) (held : Nat) : P (State.enterFallback s z c held) := by
  unfold State.enterFallback
  dsimp only
  repeat' first
    | with_reducible assumption
    | with_reducible refine hP.zone _ _ (fun _ => ?_) ?_
    | with_reducible apply hP.startTrim
    | with_reducible apply hP.setMode
    | with_reducible apply hP.endAir
    | with_reducible apply hP.doJoined
    | with_reducible apply hP.causeAlarms
    | with_reducible apply hP.offerFallback
    | with_reducible apply ite_keeps
    | rfl

theorem AirBlocks.enterOff (hP : AirBlocks P) (h : P s) (z : Nat) : P (State.enterOff s z) := by
  unfold State.enterOff
  dsimp only
  repeat' first
    | with_reducible assumption
    | with_reducible refine hP.zone _ _ (fun _ => ?_) ?_
    | with_reducible apply hP.setMode
    | with_reducible apply hP.causeAlarms
    | with_reducible apply hP.endDoLow
    | with_reducible apply hP.endAir
    | with_reducible apply ite_keeps
    | rfl

theorem AirBlocks.leaveOff (hP : AirBlocks P) (h : P s) (z : Nat) : P (State.leaveOff s z) := by
  unfold State.leaveOff
  dsimp only
  repeat' first
    | with_reducible assumption
    | with_reducible apply hP.enterAuto
    | with_reducible apply hP.enterFallback
    | with_reducible apply ite_keeps

theorem AirBlocks.leaveWaiting (hP : AirBlocks P) (h : P s) (z : Nat) : P (State.leaveWaiting s z) := by
  unfold State.leaveWaiting
  dsimp only
  repeat' first
    | with_reducible assumption
    | with_reducible apply hP.enterAuto
    | with_reducible apply hP.enterFallback
    | with_reducible apply ite_keeps

theorem AirBlocks.changeCauses (hP : AirBlocks P) (h : P s) (z : Nat) (c : Causes) : P (State.changeCauses s z c) := by
  unfold State.changeCauses
  dsimp only
  repeat' first
    | with_reducible assumption
    | with_reducible refine hP.zone _ _ (fun _ => ?_) ?_
    | with_reducible apply hP.setMode
    | with_reducible apply hP.doJoined
    | with_reducible apply hP.causeAlarms
    | with_reducible apply hP.offerFallback
    | with_reducible apply ite_keeps
    | rfl

theorem AirBlocks.rejudgeZone (hP : AirBlocks P) (h : P s) (z : Nat) : P (State.rejudgeZone z s) := by
  unfold State.rejudgeZone
  dsimp only
  repeat' first
    | with_reducible assumption
    | with_reducible apply hP.enterAuto
    | with_reducible apply hP.enterFallback
    | with_reducible apply hP.changeCauses
    | with_reducible apply hP.setMode
    | with_reducible apply hP.doJoined
    | with_reducible apply hP.causeAlarms
    | with_reducible apply ite_keeps
    | split

theorem AirBlocks.rejudgeZones (hP : AirBlocks P) (h : P s)  : P (State.rejudgeZones s) := by
  unfold State.rejudgeZones
  repeat' first
    | with_reducible assumption
    | with_reducible apply hP.rejudgeZone
    | with_reducible refine each_keeps _ (fun _ _ h => ?_) ?_

theorem Blocks.enterHand (hP : Blocks P) (h : P s) (z : Nat) : P (State.enterHand s z) := by
  unfold State.enterHand
  dsimp only
  repeat' first
    | with_reducible assumption
    | with_reducible refine hP.zone _ _ (fun _ => ?_) ?_
    | with_reducible apply hP.startTrim
    | with_reducible apply hP.setMode
    | with_reducible apply hP.endAir
    | with_reducible apply hP.causeAlarms
    | with_reducible apply ite_keeps
    | rfl

theorem AirBlocks.leaveHand (hP : AirBlocks P) (h : P s) (z : Nat) (position : Nat) : P (State.leaveHand s z position) := by
  unfold State.leaveHand
  dsimp only
  repeat' first
    | with_reducible assumption
    | with_reducible apply hP.enterAuto
    | with_reducible apply hP.enterFallback
    | with_reducible apply ite_keeps

theorem Blocks.trimStep (hP : Blocks P) (h : P s) (z : Nat) : P (State.trimStep s z) := by
  unfold State.trimStep
  dsimp only
  repeat' first
    | with_reducible assumption
    | with_reducible refine hP.zone _ _ (fun _ => ?_) ?_
    | with_reducible apply hP.stepped
    | with_reducible apply ite_keeps
    | rfl

theorem Blocks.trimExpiry (hP : Blocks P) (h : P s) (z : Nat) : P (State.trimExpiry s z) := by
  unfold State.trimExpiry
  dsimp only
  repeat' first
    | with_reducible assumption
    | with_reducible apply hP.startTrim
    | with_reducible apply hP.trimStep
    | with_reducible apply hP.judgeAir
    | with_reducible apply hP.judgeDoLow
    | split

theorem Blocks.judgeLane (hP : Blocks P) (h : P s) (before : State) (l : Nat) : P (State.judgeLane before l s) := by
  unfold State.judgeLane
  dsimp only
  repeat' first
    | with_reducible assumption
    | with_reducible refine hP.lane _ _ (fun _ => ?_) ?_
    | with_reducible apply hP.raise
    | with_reducible apply hP.clear
    | with_reducible apply hP.judgeSetpoint
    | with_reducible refine each_keeps _ (fun _ _ h => ?_) ?_
    | with_reducible apply ite_keeps
    | exact ⟨rfl, rfl⟩

theorem Blocks.moveBand (hP : Blocks P) (h : P s) (l : Nat) (v : Nat) : P (State.moveBand s l v) := by
  unfold State.moveBand
  repeat' first
    | with_reducible assumption
    | with_reducible refine hP.lane _ _ (fun _ => ?_) ?_
    | exact ⟨rfl, rfl⟩

theorem Blocks.judgeLanes (hP : Blocks P) (h : P s)  : P (State.judgeLanes s) := by
  unfold State.judgeLanes
  repeat' first
    | with_reducible assumption
    | with_reducible apply hP.judgeLane
    | with_reducible refine each_keeps _ (fun _ _ h => ?_) ?_

theorem Blocks.lanesPoint (hP : Blocks P) (h : P s) (p : Nat) (accepted : Bool) : P (State.lanesPoint s p accepted) := by
  unfold State.lanesPoint
  dsimp only
  repeat' first
    | with_reducible assumption
    | with_reducible apply hP.moveBand
    | with_reducible apply hP.judgeLane
    | with_reducible refine each_keeps _ (fun _ _ h => ?_) ?_
    | with_reducible apply ite_keeps

theorem Blocks.graceExpiry (hP : Blocks P) (h : P s) (l : Nat) : P (State.graceExpiry s l) := by
  unfold State.graceExpiry
  dsimp only
  repeat' first
    | with_reducible assumption
    | with_reducible refine hP.lane _ _ (fun _ => ?_) ?_
    | with_reducible apply hP.leaveWaiting
    | with_reducible refine each_keeps _ (fun _ _ h => ?_) ?_
    | with_reducible apply ite_keeps
    | exact ⟨rfl, rfl⟩

theorem AirBlocks.rewriteTrimming (hP : AirBlocks P) (h : P s) (z : Nat) (old : Zone) : P (State.rewriteTrimming s z old) := by
  unfold State.rewriteTrimming
  dsimp only
  repeat' first
    | with_reducible assumption
    | with_reducible refine hP.zone _ _ (fun _ => ?_) ?_
    | with_reducible apply hP.enterAuto
    | with_reducible apply hP.setMode
    | with_reducible apply hP.causeAlarms
    | with_reducible apply hP.offerFallback
    | with_reducible apply ite_keeps
    | rfl

theorem AirBlocks.rewriteWaiting (hP : AirBlocks P) (h : P s) (z : Nat) (old : Zone) : P (State.rewriteWaiting s z old) := by
  unfold State.rewriteWaiting
  dsimp only
  repeat' first
    | with_reducible assumption
    | with_reducible refine hP.zone _ _ (fun _ => ?_) ?_
    | with_reducible apply hP.enterAuto
    | with_reducible apply hP.leaveWaiting
    | with_reducible apply hP.setMode
    | with_reducible apply hP.causeAlarms
    | with_reducible apply ite_keeps
    | rfl

theorem AirBlocks.lowerWaitingGrant (hP : AirBlocks P) (h : P s) (z : Nat) : P (State.lowerWaitingGrant s z) := by
  unfold State.lowerWaitingGrant
  dsimp only
  repeat' first
    | with_reducible assumption
    | with_reducible refine hP.zone _ _ (fun _ => ?_) ?_
    | with_reducible apply ite_keeps
    | rfl

theorem AirBlocks.setGrant (hP : AirBlocks P) (h : P s) (z : Nat) (grant : Nat) : P (State.setGrant s z grant) := by
  unfold State.setGrant
  dsimp only
  repeat' first
    | with_reducible assumption
    | with_reducible refine hP.zone _ _ (fun _ => ?_) ?_
    | with_reducible apply hP.judgeAir
    | with_reducible apply ite_keeps
    | rfl

theorem AirBlocks.judgeAirShort (hP : AirBlocks P) (h : P s) (wanted : Nat) : P (State.judgeAirShort s wanted) := by
  unfold State.judgeAirShort
  dsimp only
  repeat' first
    | with_reducible assumption
    | with_reducible refine hP.pool _ (fun _ => ?_) ?_
    | with_reducible apply hP.raise
    | with_reducible apply hP.clear
    | with_reducible apply ite_keeps
    | exact ⟨rfl, rfl⟩

theorem AirBlocks.allocate (hP : AirBlocks P) (h : P s)  : P (State.allocate s) := by
  unfold State.allocate
  dsimp only
  repeat' first
    | with_reducible assumption
    | with_reducible refine hP.pool _ (fun _ => ?_) ?_
    | with_reducible apply hP.judgeAirShort
    | with_reducible apply hP.setGrant
    | with_reducible refine each_keeps _ (fun _ _ h => ?_) ?_
    | exact ⟨rfl, rfl⟩

theorem AirBlocks.tripAlarms (hP : AirBlocks P) (h : P s) (b : Nat) (cause : Option TripCause) : P (State.tripAlarms s b cause) := by
  unfold State.tripAlarms
  dsimp only
  have h := foldl_keeps (fun (s : State) (c : TripCause) (h : P s) =>
    ite_keeps (c := cause = some c) h (hP.clear c.alarm (.blower b) h)) [.fault, .startFail, .lost] h
  cases cause
  · exact h
  · exact hP.raise _ _ _ h

theorem AirBlocks.enterBlower (hP : AirBlocks P) (h : P s) (b : Nat) (st : BlowerState) (cause : Option TripCause)
    (hst : st ≠ .starting) : P (State.enterBlower s b st cause) := by
  unfold State.enterBlower
  dsimp only
  repeat' first
    | with_reducible assumption
    | with_reducible refine hP.blower _ _ (fun x => ?_) ?_
    | with_reducible refine hP.pool _ (fun _ => ?_) ?_
    | with_reducible apply hP.notice
    | with_reducible apply hP.tripAlarms
    | exact ⟨rfl, rfl, fun h => absurd h hst⟩
    | exact ⟨rfl, rfl⟩

theorem AirBlocks.driveBlower (hP : AirBlocks P) (h : P s) (b : Nat) (d : Drive) : P (State.driveBlower s b d) := by
  unfold State.driveBlower
  repeat' first
    | with_reducible assumption
    | with_reducible apply hP.offerDrive

theorem AirBlocks.stopBlower (hP : AirBlocks P) (h : P s) (b : Nat) : P (State.stopBlower s b) := by
  unfold State.stopBlower
  repeat' first
    | with_reducible assumption
    | with_reducible apply hP.enterBlower
    | with_reducible apply hP.driveBlower
    | exact restState_ne _
    | decide

/-- A start is made only while no blower is STARTING. -/
theorem nextStart_none {b : Nat} (h : s.nextStart = some b) : s.someStarting = false := by
  unfold State.nextStart at h
  split at h
  · cases h
  · rename_i hs
    exact Bool.eq_false_iff.mpr hs

theorem AirBlocks.askStart (hP : AirBlocks P) (h : P s)  : P (State.askStart s) := by
  unfold State.askStart
  split
  · exact h
  · rename_i b hb
    have entered : P (s.enterBlower b .starting) := by
      unfold State.enterBlower
      refine hP.tripAlarms (hP.notice _ (hP.pool _ (fun _ => ?_) (hP.start b _ (nextStart_none hb) h))) b none
      exact ⟨rfl, rfl⟩
    refine hP.pool _ (fun _ => ?_) (hP.driveBlower entered b _)
    exact ⟨rfl, rfl⟩

theorem AirBlocks.judgeMinimum (hP : AirBlocks P) (h : P s)  : P (State.judgeMinimum s) := by
  unfold State.judgeMinimum
  repeat' first
    | with_reducible assumption
    | with_reducible apply hP.askStart
    | with_reducible apply ite_keeps

theorem AirBlocks.stageUp (hP : AirBlocks P) (h : P s) (demand : Nat) : P (State.stageUp s demand) := by
  unfold State.stageUp
  repeat' first
    | with_reducible assumption
    | with_reducible refine hP.pool _ (fun _ => ?_) ?_
    | with_reducible apply hP.askStart
    | with_reducible apply ite_keeps
    | exact ⟨rfl, rfl⟩

theorem AirBlocks.stageDown (hP : AirBlocks P) (h : P s) (demand : Nat) : P (State.stageDown s demand) := by
  unfold State.stageDown
  repeat' first
    | with_reducible assumption
    | with_reducible refine hP.pool _ (fun _ => ?_) ?_
    | with_reducible apply hP.stopBlower
    | with_reducible apply ite_keeps
    | exact ⟨rfl, rfl⟩
    | split

theorem AirBlocks.setSpeeds (hP : AirBlocks P) (h : P s) (grants : Nat) : P (State.setSpeeds s grants) := by
  unfold State.setSpeeds
  repeat' first
    | with_reducible assumption
    | with_reducible refine hP.blower _ _ (fun _ => ⟨rfl, rfl, id⟩) ?_
    | with_reducible refine each_keeps _ (fun _ _ h => ?_) ?_
    | with_reducible apply ite_keeps

theorem AirBlocks.judgePressure (hP : AirBlocks P) (h : P s)  : P (State.judgePressure s) := by
  unfold State.judgePressure
  dsimp only
  repeat' first
    | with_reducible assumption
    | with_reducible refine hP.pool _ (fun _ => ?_) ?_
    | with_reducible apply hP.setAlarm
    | with_reducible apply ite_keeps
    | exact ⟨rfl, rfl⟩
    | split

theorem AirBlocks.dropPressure (hP : AirBlocks P) (h : P s)  : P (State.dropPressure s) := by
  unfold State.dropPressure
  repeat' first
    | with_reducible assumption
    | with_reducible refine hP.pool _ (fun _ => ?_) ?_
    | with_reducible apply hP.clear
    | exact ⟨rfl, rfl⟩

theorem AirBlocks.firstPass (hP : AirBlocks P) (h : P s)  : P (State.firstPass s) := by
  unfold State.firstPass
  repeat' first
    | with_reducible assumption
    | with_reducible refine hP.pool _ (fun _ => ?_) ?_
    | with_reducible apply hP.rejudgeZones
    | with_reducible apply ite_keeps
    | exact ⟨rfl, rfl⟩

theorem AirBlocks.runPass (hP : AirBlocks P) (h : P s)  : P (State.runPass s) := by
  unfold State.runPass
  dsimp only
  repeat' first
    | with_reducible assumption
    | with_reducible apply hP.allocate
    | with_reducible apply hP.setSpeeds
    | with_reducible apply hP.stageUp
    | with_reducible apply hP.judgeMinimum
    | with_reducible apply hP.stageDown
    | with_reducible apply hP.firstPass

theorem AirBlocks.noteSupply (hP : AirBlocks P) (h : P s)  : P (State.noteSupply s) := by
  unfold State.noteSupply
  dsimp only
  repeat' first
    | with_reducible assumption
    | with_reducible refine hP.pool _ (fun _ => ?_) ?_
    | with_reducible apply hP.judgePressure
    | with_reducible apply ite_keeps
    | exact ⟨rfl, rfl⟩

theorem AirBlocks.settle (hP : AirBlocks P) (h : P s)  : P (State.settle s) := by
  unfold State.settle
  dsimp only
  repeat' first
    | with_reducible assumption
    | with_reducible refine hP.pool _ (fun _ => ?_) ?_
    | with_reducible apply hP.notice
    | with_reducible apply hP.noteSupply
    | with_reducible apply hP.runPass
    | exact ⟨rfl, rfl⟩

theorem AirBlocks.afterBlower (hP : AirBlocks P) (n : Nat) (h : P s) : P (s.afterBlower n) := by
  induction n generalizing s with
  | zero => exact hP.judgeMinimum h
  | succ n ih =>
    unfold State.afterBlower
    repeat' first
      | with_reducible assumption
      | with_reducible apply ih
      | with_reducible apply hP.settle
      | with_reducible apply hP.runPass
      | with_reducible apply hP.noteSupply
      | with_reducible apply hP.judgeMinimum
      | with_reducible apply ite_keeps

theorem AirBlocks.header (hP : AirBlocks P) (h : P s) : P s.header := hP.afterBlower 9 h

theorem restState_ne (x : Blower) : x.restState ≠ .starting := by
  unfold Blower.restState
  split <;> decide

theorem AirBlocks.changeBlower (hP : AirBlocks P) (h : P s) (b : Nat) (st : BlowerState) (cause : Option TripCause)
    (hst : st ≠ .starting) : P (State.changeBlower s b st cause) := by
  unfold State.changeBlower
  repeat' first
    | with_reducible assumption
    | with_reducible apply hP.enterBlower
    | with_reducible apply hP.header

theorem AirBlocks.forgetRuns (hP : AirBlocks P) (h : P s) (b : Nat) : P (State.forgetRuns s b) := by
  unfold State.forgetRuns
  repeat' first
    | with_reducible assumption
    | with_reducible refine hP.blower _ _ (fun _ => ⟨rfl, rfl, id⟩) ?_

theorem AirBlocks.takeRunning (hP : AirBlocks P) (h : P s) (b : Nat) : P (State.takeRunning s b) := by
  unfold State.takeRunning
  dsimp only
  repeat' first
    | with_reducible assumption
    | with_reducible apply hP.changeBlower
    | with_reducible apply hP.stopBlower
    | with_reducible apply hP.header
    | with_reducible apply ite_keeps
    | exact restState_ne _
    | decide

theorem AirBlocks.adopt (hP : AirBlocks P) (h : P s) (b : Nat) : P (State.adopt s b) := by
  unfold State.adopt
  dsimp only
  repeat' first
    | with_reducible assumption
    | with_reducible apply hP.forgetRuns
    | with_reducible apply hP.changeBlower
    | with_reducible apply hP.takeRunning
    | with_reducible apply ite_keeps
    | exact restState_ne _
    | decide

theorem AirBlocks.tripFault (hP : AirBlocks P) (h : P s) (b : Nat) : P (State.tripFault s b) := by
  unfold State.tripFault
  dsimp only
  repeat' first
    | with_reducible assumption
    | with_reducible apply hP.enterBlower
    | with_reducible apply hP.driveBlower
    | with_reducible apply hP.header
    | with_reducible apply ite_keeps
    | exact restState_ne _
    | decide

theorem AirBlocks.localReading (hP : AirBlocks P) (h : P s) (b : Nat) : P (State.localReading s b) := by
  unfold State.localReading
  dsimp only
  repeat' first
    | with_reducible assumption
    | with_reducible refine hP.blower _ _ (fun _ => ⟨rfl, rfl, id⟩) ?_
    | with_reducible apply hP.header
    | with_reducible apply ite_keeps

theorem AirBlocks.judgeBlower (hP : AirBlocks P) (h : P s) (b : Nat) : P (State.judgeBlower b s) := by
  unfold State.judgeBlower
  dsimp only
  repeat' first
    | with_reducible assumption
    | with_reducible apply hP.adopt
    | with_reducible apply hP.tripFault
    | with_reducible apply hP.changeBlower
    | with_reducible apply hP.localReading
    | with_reducible apply ite_keeps
    | exact ⟨rfl, rfl⟩
    | split
    | exact restState_ne _
    | decide

theorem AirBlocks.blowerLocalSet (hP : AirBlocks P) (h : P s) (b : Nat) : P (State.blowerLocalSet b s) := by
  unfold State.blowerLocalSet
  repeat' first
    | with_reducible assumption
    | with_reducible apply hP.changeBlower
    | split
    | exact restState_ne _
    | decide

theorem AirBlocks.blowerLocalClear (hP : AirBlocks P) (h : P s) (b : Nat) : P (State.blowerLocalClear b s) := by
  unfold State.blowerLocalClear
  dsimp only
  repeat' first
    | with_reducible assumption
    | with_reducible apply hP.forgetRuns
    | with_reducible apply hP.changeBlower
    | with_reducible apply hP.takeRunning
    | with_reducible apply ite_keeps
    | exact restState_ne _
    | decide

theorem AirBlocks.blowerLost (hP : AirBlocks P) (h : P s) (b : Nat) : P (State.blowerLost b s) := by
  unfold State.blowerLost
  repeat' first
    | with_reducible assumption
    | with_reducible apply hP.changeBlower
    | split
    | exact restState_ne _
    | decide

theorem AirBlocks.eachBlowerOn (_hP : AirBlocks P) {f : Nat → State → State} (hf : ∀ b s, P s → P (f b s)) (h : P s) (st : Nat) :
    P (s.eachBlowerOn st f) :=
  each_keeps _ (fun _ _ h => ite_keeps (hf _ _ h) h) h

theorem AirBlocks.headerPoint (hP : AirBlocks P) (h : P s) (p : Nat) : P (State.headerPoint s p) := by
  unfold State.headerPoint
  dsimp only
  repeat' first
    | with_reducible assumption
    | with_reducible apply hP.judgeBlower
    | with_reducible apply hP.judgePressure
    | with_reducible refine each_keeps _ (fun _ _ h => ?_) ?_
    | with_reducible apply ite_keeps

theorem AirBlocks.startFails (hP : AirBlocks P) (h : P s) (b : Nat) : P (State.startFails s b) := by
  unfold State.startFails
  repeat' first
    | with_reducible assumption
    | with_reducible apply hP.enterBlower
    | with_reducible apply hP.driveBlower
    | with_reducible apply hP.header
    | exact restState_ne _
    | decide

theorem AirBlocks.runDownEnds (hP : AirBlocks P) (h : P s) (b : Nat) : P (State.runDownEnds s b) := by
  unfold State.runDownEnds
  repeat' first
    | with_reducible assumption
    | with_reducible apply hP.changeBlower
    | exact restState_ne _

theorem AirBlocks.allocationExpiry (hP : AirBlocks P) (h : P s)  : P (State.allocationExpiry s) := by
  unfold State.allocationExpiry
  repeat' first
    | with_reducible assumption
    | with_reducible apply hP.runPass
    | with_reducible apply hP.header

theorem AirBlocks.adoptIfReady (hP : AirBlocks P) (h : P s) (b : Nat) : P (State.adoptIfReady s b) := by
  unfold State.adoptIfReady
  repeat' first
    | with_reducible assumption
    | with_reducible apply hP.adopt
    | with_reducible apply hP.header
    | with_reducible apply ite_keeps

theorem Blocks.syncCommands (hP : Blocks P) (h : P s) (before : State) : P (before.syncCommands s) := by
  unfold State.syncCommands
  refine foldl_keeps (fun _ _ h => ?_) _ (foldl_keeps (fun _ _ h => ?_) _ h) <;> exact hP.offerDrive h _ _

theorem Blocks.withCommands (hP : Blocks P) (h : P s) {f : State → State} (hf : ∀ s, P s → P (f s)) :
    P (s.withCommands f) := hP.syncCommands (hf s h) s

theorem AnyChannel.enterChannel (hP : AnyChannel P) (h : P s) (c : Nat) (st : ChannelState) : P (State.enterChannel s c st) := by
  unfold State.enterChannel
  dsimp only
  repeat' first
    | with_reducible assumption
    | with_reducible refine hP.channel _ _ (fun _ => ?_) ?_
    | with_reducible apply hP.clear
    | with_reducible apply ite_keeps
    | rfl

theorem AnyChannel.disableChannel (hP : AnyChannel P) (h : P s) (c : Nat) : P (State.disableChannel s c) := by
  unfold State.disableChannel
  dsimp only
  repeat' first
    | with_reducible assumption
    | with_reducible refine hP.channel _ _ (fun _ => ?_) ?_
    | with_reducible apply hP.clear
    | with_reducible apply hP.enterChannel
    | rfl

theorem AnyChannel.faultChannel (hP : AnyChannel P) (h : P s) (c : Nat) : P (State.faultChannel s c) := by
  unfold State.faultChannel
  repeat' first
    | with_reducible assumption
    | with_reducible apply hP.raise
    | with_reducible apply hP.enterChannel

theorem AnyChannel.enterFlow (hP : AnyChannel P) (h : P s) (c : Nat) : P (State.enterFlow s c) := by
  unfold State.enterFlow
  repeat' first
    | with_reducible assumption
    | with_reducible apply hP.enterChannel

theorem AnyChannel.moveDuty (hP : AnyChannel P) (h : P s) (c : Nat) : P (State.moveDuty s c) := by
  unfold State.moveDuty
  repeat' first
    | with_reducible assumption
    | with_reducible refine hP.pair _ _ (fun _ => ?_) ?_
    | with_reducible apply ite_keeps
    | rfl

theorem AnyChannel.loadTarget (hP : AnyChannel P) (h : P s) (c : Nat) : P (State.loadTarget s c) := by
  unfold State.loadTarget
  repeat' first
    | with_reducible assumption
    | with_reducible refine hP.channel _ _ (fun _ => ?_) ?_
    | rfl

theorem AnyChannel.startChannel (hP : AnyChannel P) (h : P s) (c : Nat) : P (State.startChannel s c) := by
  unfold State.startChannel
  dsimp only
  repeat' first
    | with_reducible assumption
    | with_reducible refine hP.channel _ _ (fun _ => ?_) ?_
    | with_reducible apply hP.loadTarget
    | with_reducible apply hP.enterFlow
    | with_reducible apply hP.moveDuty
    | with_reducible apply hP.faultChannel
    | with_reducible apply ite_keeps
    | rfl

theorem AnyChannel.countCycle (hP : AnyChannel P) (h : P s) (c : Nat) : P (State.countCycle s c) := by
  unfold State.countCycle
  dsimp only
  repeat' first
    | with_reducible assumption
    | with_reducible refine hP.channel _ _ (fun _ => ?_) ?_
    | with_reducible apply hP.notice
    | with_reducible apply ite_keeps
    | rfl

theorem AnyChannel.completeCycles (hP : AnyChannel P) (n c excess : Nat) (h : P s) : P (State.completeCycles n c excess s) := by
  induction n generalizing excess s with
  | zero => exact h
  | succ n ih =>
    unfold State.completeCycles
    dsimp only
    repeat' first
      | with_reducible assumption
      | with_reducible apply ih
      | with_reducible apply hP.disableChannel
      | with_reducible apply hP.loadTarget
      | with_reducible apply hP.countCycle
      | with_reducible refine hP.channel _ _ (fun _ => rfl) ?_
      | with_reducible apply ite_keeps

theorem AnyChannel.meterDelta (hP : AnyChannel P) (h : P s) (c : Nat) (delta : Nat) : P (State.meterDelta s c delta) := by
  unfold State.meterDelta
  dsimp only
  repeat' first
    | with_reducible assumption
    | with_reducible refine hP.channel _ _ (fun _ => ?_) ?_
    | with_reducible apply hP.completeCycles
    | with_reducible apply ite_keeps
    | rfl

theorem AnyChannel.meter (hP : AnyChannel P) (h : P s) (c : Nat) (v : Nat) : P (State.meter s c v) := by
  unfold State.meter
  dsimp only
  repeat' first
    | with_reducible assumption
    | with_reducible refine hP.channel _ _ (fun _ => ?_) ?_
    | with_reducible apply hP.meterDelta
    | with_reducible apply ite_keeps
    | rfl
    | split

/-! ### Channels -/

theorem channel_clearAlarm (s : State) (code : AlarmCode) (src : Source) (i : Nat) :
    (s.clearAlarm code src).channel i = s.channel i := by
  unfold State.clearAlarm State.noteAlarm State.offerNotice
  repeat' split
  all_goals rfl

theorem channel_moveDuty (s : State) (c i : Nat) : (s.moveDuty c).channel i = s.channel i := rfl

/-- A channel enters DISABLED, or enters a state from one that is not DISABLED. -/
theorem Blocks.enterChannel (hP : Blocks P) (h : P s) (c : Nat) (st : ChannelState)
    (hst : st = .disabled ∨ (s.channel c).state ≠ .disabled) : P (State.enterChannel s c st) := by
  have entered := hP.channel c (fun x => { x with
    state := st, pauseStart := if st = .paused then some s.uptime else none,
    pauseDeadline := if st = .paused then some (s.uptime + x.cfg.pauseLimit * 60) else none })
    ⟨rfl, rfl, rfl, rfl, rfl, rfl, hst⟩ h
  exact ite_keeps (hP.clear _ _ entered) entered

theorem Blocks.disableChannel (hP : Blocks P) (h : P s) (c : Nat) : P (State.disableChannel s c) :=
  hP.clear _ _ (hP.clear _ _ (hP.channel _ _ ⟨rfl, rfl, rfl, rfl, rfl, rfl, Classical.em _⟩ (hP.enterChannel h c _ (.inl rfl))))

theorem Blocks.faultChannel (hP : Blocks P) (h : P s) (c : Nat) (hst : (s.channel c).state ≠ .disabled) :
    P (State.faultChannel s c) := hP.raise _ _ _ (hP.enterChannel h c _ (.inr hst))

theorem Blocks.enterFlow (hP : Blocks P) (h : P s) (c : Nat) (hst : (s.channel c).state ≠ .disabled) :
    P (State.enterFlow s c) := hP.enterChannel h c _ (.inr hst)

theorem Blocks.moveDuty (hP : Blocks P) (h : P s) (c : Nat) : P (State.moveDuty s c) := by
  refine hP.pair _ _ (fun _ => ?_) h
  rfl

theorem Blocks.accumulate (hP : Blocks P) (h : P s) (c : Nat) (v : Nat) : P (State.accumulate s c v) :=
  hP.channel _ _ ⟨rfl, rfl, rfl, rfl, rfl, rfl, Classical.em _⟩ h

theorem Blocks.judgeLevel (hP : Blocks P) (h : P s) (c : Nat) (v : Nat) : P (State.judgeLevel s c v) := by
  unfold State.judgeLevel
  dsimp only
  split
  · rename_i hs
    exact hP.enterChannel h c _ (.inr (by rw [hs.1]; decide))
  · split
    · rename_i hs
      exact hP.enterChannel h c _ (.inr (by rw [hs.1]; decide))
    · exact h

theorem Blocks.channelPoint (hP : Blocks P) (h : P s) (c : Nat) (p : Nat) (accepted : Bool) : P (State.channelPoint s c p accepted) := by
  unfold State.channelPoint
  dsimp only
  repeat' first
    | with_reducible assumption
    | with_reducible refine hP.channel _ _ ?_ ?_
    | with_reducible apply hP.meter
    | with_reducible apply hP.accumulate
    | with_reducible apply hP.judgeLevel
    | with_reducible apply ite_keeps
    | exact ⟨rfl, rfl, rfl, rfl, rfl, rfl, Classical.em _⟩

theorem Blocks.channelsPoint (hP : Blocks P) (h : P s) (p : Nat) (accepted : Bool) : P (State.channelsPoint s p accepted) := by
  unfold State.channelsPoint
  repeat' first
    | with_reducible assumption
    | with_reducible refine hP.withCommands ?_ (fun _ _ => ?_)
    | with_reducible apply hP.channelPoint
    | with_reducible refine each_keeps _ (fun _ _ h => ?_) ?_
    | with_reducible apply ite_keeps

theorem Blocks.losePump (hP : Blocks P) (h : P s) (c : Nat) (hst : (s.channel c).state ≠ .disabled) :
    P (State.losePump s c) :=
  ite_keeps (hP.clear _ _ (hP.raise _ _ _ (hP.moveDuty h c))) (hP.faultChannel h c hst)

theorem Blocks.recoverChannel (hP : Blocks P) (h : P s) (c : Nat) (hst : (s.channel c).state ≠ .disabled) :
    P (State.recoverChannel s c) := by
  refine hP.enterFlow (hP.clear _ _ (ite_keeps h (hP.moveDuty h c))) c ?_
  rw [channel_clearAlarm]
  split
  · exact hst
  · exact hst

theorem Blocks.judgeChannel (hP : Blocks P) (h : P s) (c : Nat) : P (State.judgeChannel c s) := by
  unfold State.judgeChannel
  split
  · exact h
  · rename_i live
    have configured : (s.channel c).cfg.configured = true := by simp_all [State.liveChannel]
    split <;> rename_i hs
    · exact ite_keeps h (hP.losePump h c (by rw [hs]; decide))
    · exact ite_keeps h (hP.losePump h c (by rw [hs]; decide))
    · exact ite_keeps (hP.recoverChannel h c (by rw [hs]; decide)) h
    · exact ite_keeps (hP.startChannel c configured h) h

theorem Blocks.judgeChannels (hP : Blocks P) (h : P s)  : P (State.judgeChannels s) := by
  unfold State.judgeChannels
  repeat' first
    | with_reducible assumption
    | with_reducible refine hP.withCommands ?_ (fun _ _ => ?_)
    | with_reducible apply hP.judgeChannel
    | with_reducible refine each_keeps _ (fun _ _ h => ?_) ?_

theorem Blocks.pauseExpiry (hP : Blocks P) (h : P s) (c : Nat) : P (State.pauseExpiry s c) :=
  hP.raise _ _ _ (hP.channel _ _ ⟨rfl, rfl, rfl, rfl, rfl, rfl, Classical.em _⟩ h)

theorem Blocks.enterStorm (hP : Blocks P) (h : P s) (st : StormState) : P (State.enterStorm s st) := by
  unfold State.enterStorm
  dsimp only
  repeat' first
    | with_reducible assumption
    | with_reducible refine hP.storm _ (fun _ => ?_) ?_
    | with_reducible apply hP.notice
    | with_reducible apply hP.setAlarm
    | with_reducible apply hP.judgeLanes
    | with_reducible apply hP.judgeMinimum
    | with_reducible apply ite_keeps
    | exact ⟨rfl, rfl⟩

theorem Blocks.stormReading (hP : Blocks P) (h : P s) (v : Nat) : P (State.stormReading s v) := by
  unfold State.stormReading
  dsimp only
  repeat' first
    | with_reducible assumption
    | with_reducible refine hP.storm _ (fun _ => ?_) ?_
    | with_reducible apply hP.enterStorm
    | with_reducible apply ite_keeps
    | exact ⟨rfl, rfl⟩
    | split

theorem Blocks.entryExpires (hP : Blocks P) (h : P s)  : P (State.entryExpires s) := by
  unfold State.entryExpires
  repeat' first
    | with_reducible assumption
    | with_reducible refine hP.storm _ (fun _ => ?_) ?_
    | with_reducible apply hP.enterStorm
    | exact ⟨rfl, rfl⟩

theorem Blocks.holdExpires (hP : Blocks P) (h : P s)  : P (State.holdExpires s) := by
  unfold State.holdExpires
  dsimp only
  repeat' first
    | with_reducible assumption
    | with_reducible refine hP.storm _ (fun _ => ?_) ?_
    | with_reducible apply hP.enterStorm
    | with_reducible apply ite_keeps
    | exact ⟨rfl, rfl⟩
    | split

theorem Blocks.exitExpires (hP : Blocks P) (h : P s)  : P (State.exitExpires s) := by
  unfold State.exitExpires
  repeat' first
    | with_reducible assumption
    | with_reducible refine hP.storm _ (fun _ => ?_) ?_
    | with_reducible apply hP.enterStorm
    | exact ⟨rfl, rfl⟩

theorem Blocks.suspendTimers (hP : Blocks P) (h : P s)  : P (State.suspendTimers s) := by
  unfold State.suspendTimers
  repeat' first
    | with_reducible assumption
    | with_reducible refine hP.storm _ (fun _ => ?_) ?_
    | exact ⟨rfl, rfl⟩

theorem Blocks.thaw (hP : Blocks P) (h : P s)  : P (State.thaw s) := by
  unfold State.thaw
  dsimp only
  repeat' first
    | with_reducible assumption
    | with_reducible refine hP.storm _ (fun _ => ?_) ?_
    | with_reducible apply hP.clear
    | with_reducible apply hP.entryExpires
    | with_reducible apply hP.holdExpires
    | with_reducible apply hP.exitExpires
    | with_reducible apply ite_keeps
    | exact ⟨rfl, rfl⟩

theorem Blocks.judgeInfluent (hP : Blocks P) (h : P s) (accepted : Bool) (watched : Bool) : P (State.judgeInfluent s accepted watched) := by
  unfold State.judgeInfluent
  dsimp only
  repeat' first
    | with_reducible assumption
    | with_reducible refine hP.storm _ (fun _ => ?_) ?_
    | with_reducible apply hP.raise
    | with_reducible apply hP.clear
    | with_reducible apply hP.suspendTimers
    | with_reducible apply hP.thaw
    | with_reducible apply hP.stormReading
    | with_reducible apply ite_keeps
    | exact ⟨rfl, rfl⟩
    | split

theorem Blocks.stormPoint (hP : Blocks P) (h : P s) (p : Nat) (accepted : Bool) : P (State.stormPoint s p accepted) := by
  unfold State.stormPoint
  repeat' first
    | with_reducible assumption
    | with_reducible apply hP.judgeInfluent
    | with_reducible apply ite_keeps

theorem Blocks.stopStormTimers (hP : Blocks P) (h : P s)  : P (State.stopStormTimers s) := by
  unfold State.stopStormTimers
  repeat' first
    | with_reducible assumption
    | with_reducible refine hP.storm _ (fun _ => ?_) ?_
    | exact ⟨rfl, rfl⟩

theorem Blocks.freshHold (hP : Blocks P) (h : P s)  : P (State.freshHold s) := by
  unfold State.freshHold
  repeat' first
    | with_reducible assumption
    | with_reducible refine hP.storm _ (fun _ => ?_) ?_
    | with_reducible apply ite_keeps
    | exact ⟨rfl, rfl⟩

theorem Blocks.endPassage (hP : Blocks P) (h : P s) (t : HandTarget) (byLoss : Bool) : P (State.endPassage s t byLoss) := by
  unfold State.endPassage
  dsimp only
  repeat' first
    | with_reducible assumption
    | with_reducible apply hP.passage
    | with_reducible apply hP.leaveHand
    | with_reducible apply hP.syncCommands
    | with_reducible apply hP.offerDrive
    | with_reducible apply ite_keeps
    | split

theorem Blocks.endLostPassages (hP : Blocks P) (h : P s)  : P (State.endLostPassages s) := by
  unfold State.endLostPassages
  repeat' first
    | with_reducible assumption
    | with_reducible apply hP.endPassage
    | with_reducible refine foldl_keeps (fun _ _ h => ?_) _ ?_
    | with_reducible apply ite_keeps

theorem Blocks.notifyPoint (hP : Blocks P) (h : P s) (p : Nat) (accepted : Bool) : P (State.notifyPoint s p accepted) := by
  unfold State.notifyPoint
  repeat' first
    | with_reducible assumption
    | with_reducible apply hP.lanesPoint
    | with_reducible apply hP.rejudgeZones
    | with_reducible apply hP.stormPoint
    | with_reducible apply hP.channelsPoint
    | with_reducible apply hP.headerPoint

theorem Blocks.blowerFaultEvent (hP : Blocks P) (h : P s) (b : Nat) : P (State.blowerFaultEvent b s) := by
  unfold State.blowerFaultEvent
  dsimp only
  repeat' first
    | with_reducible assumption
    | with_reducible apply hP.judgeBlower
    | with_reducible apply ite_keeps

theorem Blocks.flagEvents (hP : Blocks P) (h : P s) (st : Nat) (fault localMode : Bool × Bool) :
    P (s.flagEvents st fault localMode) := by
  have h1 := ite_keeps (c := fault.1 = fault.2) h (hP.eachBlowerOn (fun b _ h => hP.blowerFaultEvent h b) h st)
  refine ite_keeps h1 (hP.eachBlowerOn (fun b s h => ?_) h1 st)
  split
  · exact hP.blowerLocalSet h b
  · exact hP.blowerLocalClear h b

theorem Blocks.stationEvents (hP : Blocks P) (h : P s) (st : Nat) (old : Station) : P (State.stationEvents s st old) := by
  unfold State.stationEvents
  dsimp only
  repeat' first
    | with_reducible assumption
    | with_reducible apply hP.rejudgeZones
    | with_reducible apply hP.flagEvents
    | with_reducible apply hP.judgeChannels

theorem Blocks.localAlarm (hP : Blocks P) (h : P s) (st : Nat) (was : Bool) (is : Bool) : P (State.localAlarm s st was is) := by
  unfold State.localAlarm
  repeat' first
    | with_reducible assumption
    | with_reducible apply hP.raise
    | with_reducible apply hP.clear
    | with_reducible apply ite_keeps

theorem Blocks.adoptAll (hP : Blocks P) (h : P s) (st : Nat) : P (State.adoptAll s st) := by
  unfold State.adoptAll
  repeat' first
    | with_reducible assumption
    | with_reducible refine hP.eachBlowerOn (fun _ _ _ => ?_) ?_ _
    | with_reducible apply hP.adopt
    | with_reducible refine each_keeps _ (fun _ _ h => ?_) ?_
    | with_reducible apply ite_keeps

theorem Blocks.lossEvents (hP : Blocks P) (h : P s) (st : Nat) (points : List Nat) : P (State.lossEvents s st points) := by
  unfold State.lossEvents
  dsimp only
  repeat' first
    | with_reducible assumption
    | with_reducible apply hP.endLostPassages
    | with_reducible apply hP.notifyPoint
    | with_reducible apply hP.rejudgeZones
    | with_reducible refine hP.eachBlowerOn (fun _ _ _ => ?_) ?_ _
    | with_reducible apply hP.blowerLost
    | with_reducible apply hP.judgeChannels
    | with_reducible refine each_keeps _ (fun _ _ h => ?_) ?_
    | with_reducible refine foldl_keeps (fun _ _ h => ?_) _ ?_

theorem Blocks.stationFlagChange (hP : Blocks P) (h : P s) (st : Nat) (old : Bool) (new : Bool) : P (State.stationFlagChange s st old new) := by
  unfold State.stationFlagChange
  dsimp only
  repeat' first
    | with_reducible assumption
    | with_reducible apply hP.raise
    | with_reducible apply hP.clear
    | with_reducible apply ite_keeps

theorem Blocks.clearStation (hP : Blocks P) (h : P s) (st : Nat) : P (State.clearStation s st) := by
  unfold State.clearStation
  repeat' first
    | with_reducible assumption
    | with_reducible apply hP.clear

theorem PointBlocks.pointNone (hP : PointBlocks P) (h : P s) (p : Nat) : P (State.pointNone s p) := by
  unfold State.pointNone
  repeat' first
    | with_reducible assumption
    | with_reducible refine hP.point _ _ (fun _ => ?_) ?_
    | with_reducible apply hP.clear
    | rfl

theorem PointBlocks.pointStale (hP : PointBlocks P) (h : P s) (p : Nat) : P (State.pointStale s p) := by
  unfold State.pointStale
  dsimp only
  repeat' first
    | with_reducible assumption
    | with_reducible refine hP.point _ _ (fun _ => ?_) ?_
    | with_reducible apply hP.raise
    | with_reducible apply hP.clear
    | with_reducible apply ite_keeps
    | rfl

theorem PointBlocks.staleExpiry (hP : PointBlocks P) (h : P s) (p : Nat) : P (State.staleExpiry s p) := by
  unfold State.staleExpiry
  repeat' first
    | with_reducible assumption
    | with_reducible refine hP.point _ _ (fun _ => ?_) ?_
    | with_reducible apply hP.pointStale
    | with_reducible apply hP.notifyPoint
    | with_reducible apply ite_keeps
    | rfl

theorem PointBlocks.forwardReading (hP : PointBlocks P) (h : P s) (p : Nat) : P (State.forwardReading s p) := by
  unfold State.forwardReading
  dsimp only
  repeat' first
    | with_reducible assumption
    | with_reducible refine hP.point _ _ (fun _ => ?_) ?_
    | with_reducible apply hP.forward
    | with_reducible apply ite_keeps
    | rfl

theorem PointBlocks.pointGoodNow (hP : PointBlocks P) (h : P s) (p : Nat) : P (State.pointGoodNow s p) := by
  unfold State.pointGoodNow
  dsimp only
  repeat' first
    | with_reducible assumption
    | with_reducible refine hP.point _ _ (fun _ => ?_) ?_
    | with_reducible apply hP.clear
    | with_reducible apply hP.pointStale
    | rfl

theorem PointBlocks.pointOutOfRange (hP : PointBlocks P) (h : P s) (p : Nat) : P (State.pointOutOfRange s p) := by
  unfold State.pointOutOfRange
  dsimp only
  repeat' first
    | with_reducible assumption
    | with_reducible refine hP.point _ _ (fun _ => ?_) ?_
    | with_reducible apply hP.raise
    | with_reducible apply hP.clear
    | with_reducible apply hP.pointStale
    | with_reducible apply ite_keeps
    | rfl

theorem PointBlocks.acceptValue (hP : PointBlocks P) (h : P s) (p : Nat) (v : Nat) : P (State.acceptValue s p v) := by
  unfold State.acceptValue
  dsimp only
  repeat' first
    | with_reducible assumption
    | with_reducible refine hP.point _ _ (fun _ => ?_) ?_
    | with_reducible apply hP.pointGoodNow
    | with_reducible apply hP.pointOutOfRange
    | with_reducible apply hP.notifyPoint
    | with_reducible apply hP.forwardReading
    | with_reducible apply ite_keeps
    | rfl

theorem PointBlocks.kindMismatch (hP : PointBlocks P) (h : P s) (p : Nat) : P (State.kindMismatch s p) := by
  unfold State.kindMismatch
  dsimp only
  repeat' first
    | with_reducible assumption
    | with_reducible refine hP.point _ _ (fun _ => ?_) ?_
    | with_reducible apply hP.raise
    | with_reducible apply hP.clear
    | with_reducible apply hP.pointStale
    | with_reducible apply hP.notifyPoint
    | with_reducible apply ite_keeps
    | rfl

theorem PointBlocks.takeReading (hP : PointBlocks P) (h : P s) (p : Nat) (legacy : Bool) (r : Reading) : P (State.takeReading s p legacy r) := by
  unfold State.takeReading
  repeat' first
    | with_reducible assumption
    | with_reducible apply hP.clear
    | with_reducible apply hP.acceptValue
    | with_reducible apply hP.kindMismatch
    | with_reducible apply ite_keeps

theorem PointBlocks.deliverReadings (hP : PointBlocks P) (h : P s) (st : Nat) (rs : List Reading) : P (State.deliverReadings s st rs) := by
  unfold State.deliverReadings
  dsimp only
  repeat' first
    | with_reducible assumption
    | with_reducible apply hP.takeReading
    | with_reducible refine foldl_keeps (fun _ _ h => ?_) _ ?_
    | split

theorem PointBlocks.pointFlagChange (hP : PointBlocks P) (h : P s) (p : Nat) (old : Bool) (new : Bool) : P (State.pointFlagChange s p old new) := by
  unfold State.pointFlagChange
  dsimp only
  repeat' first
    | with_reducible assumption
    | with_reducible apply hP.raise
    | with_reducible apply hP.clear
    | with_reducible apply hP.pointStale
    | with_reducible apply ite_keeps

theorem PointBlocks.rejudgePoint (hP : PointBlocks P) (h : P s) (p : Nat) : P (State.rejudgePoint s p) := by
  unfold State.rejudgePoint
  dsimp only
  repeat' first
    | with_reducible assumption
    | with_reducible refine hP.point _ _ (fun _ => ?_) ?_
    | with_reducible apply hP.pointStale
    | with_reducible apply hP.notifyPoint
    | with_reducible apply hP.pointOutOfRange
    | with_reducible apply ite_keeps
    | rfl

end Sys2Proof.Machine
end

