-- ==== Sys2Proof/Laws/Effects.lean ====
section
/-! SUPPORT. What any handling does to the state outside the plant port, said once: a property kept by the changes `Effects`
lists is kept by every event of the stations and the field line, by every configuration write and by every request. -/

namespace Sys2Proof.Machine

open Sys2Proof

/-- Kept by every change a handling makes outside the plant port's own fields, record by record. The express queue only loses
entries outside its offers, the passage table only grows where there is room or the target stands in it. -/
structure Changes (P : State → Prop) : Prop where
  station : ∀ {s : State} (i : Nat) (f : Station → Station), P s → P (s.modStation i f)
  group : ∀ {s : State} (g : Nat) (f : Group → Group), P s → P (s.modGroup g f)
  without : ∀ {s : State} (st : Nat), P s → P { s with groups := s.groups.map fun (g : Group) => g.without st }
  point : ∀ {s : State} (p : Nat) (f : Point → Point), P s → P (s.modPoint p f)
  lane : ∀ {s : State} (l : Nat) (f : Lane → Lane), P s → P (s.modLane l f)
  zone : ∀ {s : State} (z : Nat) (f : Zone → Zone), P s → P (s.modZone z f)
  blower : ∀ {s : State} (b : Nat) (f : Blower → Blower), P s → P (s.modBlower b f)
  channel : ∀ {s : State} (c : Nat) (f : Channel → Channel), P s → P (s.modChannel c f)
  pair : ∀ {s : State} (k : Nat) (f : Pair → Pair), P s → P (s.modPair k f)
  storm : ∀ {s : State} (f : Storm → Storm), P s → P (s.modStorm f)
  pool : ∀ {s : State} (f : Pool → Pool), P s → P (s.modPool f)
  flc : ∀ {s : State} (f : Flc → Flc), (f s.flc).express.Sublist s.flc.express → P s → P (s.modFlc f)
  flags : ∀ {s : State} (f : Alarms → Alarms), (f s.alarms).records = s.alarms.records → P s → P (s.modAlarms f)
  notice : ∀ {s : State} (n : Notice), P s → P (s.offerNotice n)
  express : ∀ {s : State} (e : ExpressEntry), P s → P (s.offerExpress e)
  forward : ∀ {s : State} (e : PendingPoint), P s → P (s.offerForward e)
  raise : ∀ {s : State} (code : AlarmCode) (src : Source) (v : Option Nat), P s → P (s.raiseAlarm code src v)
  clear : ∀ {s : State} (code : AlarmCode) (src : Source), P s → P (s.clearAlarm code src)
  ack : ∀ {s : State} (code : AlarmCode) (src : Source), P s → P (s.ackAlarm code src)
  passage : ∀ {s : State} (t : HandTarget), P s → P (s.dropPassage t)
  put : ∀ {s : State} (t : HandTarget) (d : Drive) (c : TimeoutCode), (s.passage t).isSome ∨ s.hand.length < 8 → P s →
    P (s.putPassage t d c)
  demand : ∀ {s : State} (f : Passage → Passage), (∀ p, (f p).target = p.target) → P s → P { s with hand := s.hand.map f }

/-- Kept by every change a handling makes outside the plant port's own fields. A blower comes to STARTING by a start alone, a
passage is put where the pair interlock allows it, a channel's figures move by a start and by a metered reading alone, and its
configuration by CHANNEL_WRITE and PAIR_SET alone. -/
structure Effects (P : State → Prop) : Prop where
  station : ∀ {s : State} (i : Nat) (f : Station → Station), P s → P (s.modStation i f)
  group : ∀ {s : State} (g : Nat) (f : Group → Group), P s → P (s.modGroup g f)
  without : ∀ {s : State} (st : Nat), P s → P { s with groups := s.groups.map fun (g : Group) => g.without st }
  point : ∀ {s : State} (p : Nat) (f : Point → Point), P s → P (s.modPoint p f)
  lane : ∀ {s : State} (l : Nat) (f : Lane → Lane), P s → P (s.modLane l f)
  zone : ∀ {s : State} (z : Nat) (f : Zone → Zone), P s → P (s.modZone z f)
  blower : ∀ {s : State} (b : Nat) (f : Blower → Blower),
    ((f (s.blower b)).starting = true → (s.blower b).starting = true) → P s → P (s.modBlower b f)
  start : ∀ {s : State} (b speed : Nat), s.someStarting = false → P s →
    P (s.modBlower b fun x => x.entered s.uptime .starting none speed)
  channel : ∀ {s : State} (c : Nat) (f : Channel → Channel), (s.channel c).Keeps (f (s.channel c)) → P s →
    P (s.modChannel c f)
  startChannel : ∀ {s : State} (c : Nat), (s.channel c).cfg.configured = true → P s → P (s.startChannel c)
  meter : ∀ {s : State} (c v : Nat), P s → P (s.meter c v)
  pair : ∀ {s : State} (k : Nat) (f : Pair → Pair), (∀ x, (f x).joined = x.joined) → P s → P (s.modPair k f)
  storm : ∀ {s : State} (f : Storm → Storm), P s → P (s.modStorm f)
  pool : ∀ {s : State} (f : Pool → Pool), P s → P (s.modPool f)
  flc : ∀ {s : State} (f : Flc → Flc), (f s.flc).express.Sublist s.flc.express → P s → P (s.modFlc f)
  flags : ∀ {s : State} (f : Alarms → Alarms), (f s.alarms).records = s.alarms.records → P s → P (s.modAlarms f)
  notice : ∀ {s : State} (n : Notice), P s → P (s.offerNotice n)
  express : ∀ {s : State} (e : ExpressEntry), P s → P (s.offerExpress e)
  forward : ∀ {s : State} (e : PendingPoint), P s → P (s.offerForward e)
  raise : ∀ {s : State} (code : AlarmCode) (src : Source) (v : Option Nat), P s → P (s.raiseAlarm code src v)
  clear : ∀ {s : State} (code : AlarmCode) (src : Source), P s → P (s.clearAlarm code src)
  ack : ∀ {s : State} (code : AlarmCode) (src : Source), P s → P (s.ackAlarm code src)
  passage : ∀ {s : State} (t : HandTarget), P s → P (s.dropPassage t)
  put : ∀ {s : State} (t : HandTarget) (d : Drive) (c : TimeoutCode), (s.passage t).isSome ∨ s.hand.length < 8 →
    s.interlocked t d = false → P s → P (s.putPassage t d c)
  rewriteChannel : ∀ {s : State} (i : Nat) (c : ChannelCfg), i < 4 → s.dormant i = false → (s.channel i).state = .disabled →
    s.channelOk i c = true → P s → P (s.rewriteChannel i c)
  joinPair : ∀ {s : State} (k : Nat), (s.channel (2 * k)).cfg.configured = true →
    (s.channel (2 * k + 1)).cfg.configured = true → P s → P (s.joinPair k)
  partPair : ∀ {s : State} (k : Nat), P s → P (s.partPair k)

variable {P : State → Prop} {s : State}

theorem starting_iff (x : Blower) : x.starting = true ↔ x.cfg.configured = true ∧ x.state = .starting := by
  simp [Blower.starting]

/-- What every handling keeps, every event of the blocks and points keeps. -/
theorem Effects.toBlocks (hP : Effects P) : PointBlocks P where
  zone z f _ h := hP.zone z f h
  lane l f _ h := hP.lane l f h
  blower b f hf h := hP.blower b f (fun hx => by
    rw [starting_iff] at hx ⊢
    exact ⟨(hf _).1 ▸ hx.1, (hf _).2.2 hx.2⟩) h
  start b speed hs h := hP.start b speed hs h
  channel c f hf h := hP.channel c f hf h
  startChannel c hc h := hP.startChannel c hc h
  meter c v h := hP.meter c v h
  pair k f hf h := hP.pair k f hf h
  storm f _ h := hP.storm f h
  pool f _ h := hP.pool f h
  stepped p h := hP.point p _ h
  notice n h := hP.notice n h
  express e h := hP.express e h
  raise code src v h := hP.raise code src v h
  clear code src h := hP.clear code src h
  passage t h := hP.passage t h
  point p f _ h := hP.point p f h
  forward e h := hP.forward e h

theorem Changes.anyChannel (hP : Changes P) : AnyChannel P where
  channel c f _ h := hP.channel c f h
  pair k f _ h := hP.pair k f h
  notice n h := hP.notice n h
  raise code src v h := hP.raise code src v h
  clear code src h := hP.clear code src h

/-- What any change of a record keeps, every event of the blocks and points keeps. -/
theorem Changes.toBlocks (hP : Changes P) : PointBlocks P where
  zone z f _ h := hP.zone z f h
  lane l f _ h := hP.lane l f h
  blower b f _ h := hP.blower b f h
  start b _ _ h := hP.blower b _ h
  channel c f _ h := hP.channel c f h
  startChannel c _ h := hP.anyChannel.startChannel h c
  meter c v h := hP.anyChannel.meter h c v
  pair k f _ h := hP.pair k f h
  storm f _ h := hP.storm f h
  pool f _ h := hP.pool f h
  stepped p h := hP.point p _ h
  notice n h := hP.notice n h
  express e h := hP.express e h
  raise code src v h := hP.raise code src v h
  clear code src h := hP.clear code src h
  passage t h := hP.passage t h
  point p f _ h := hP.point p f h
  forward e h := hP.forward e h

theorem Changes.joinHandStop (hP : Changes P) (h : P s) (first partner : Nat) : P (s.joinHandStop first partner) := by
  unfold State.joinHandStop
  dsimp only
  refine ite_keeps (hP.toBlocks.offerDrive (hP.demand _ (fun p => ?_) h) _ _) h
  split <;> rfl

/-- What any change of a record keeps, every handling keeps. -/
theorem Changes.toEffects (hP : Changes P) : Effects P where
  station i f h := hP.station i f h
  group g f h := hP.group g f h
  without st h := hP.without st h
  point p f h := hP.point p f h
  lane l f h := hP.lane l f h
  zone z f h := hP.zone z f h
  blower b f _ h := hP.blower b f h
  start b _ _ h := hP.blower b _ h
  channel c f _ h := hP.channel c f h
  startChannel c _ h := hP.anyChannel.startChannel h c
  meter c v h := hP.anyChannel.meter h c v
  pair k f _ h := hP.pair k f h
  storm f h := hP.storm f h
  pool f h := hP.pool f h
  flc f hs h := hP.flc f hs h
  flags f hr h := hP.flags f hr h
  notice n h := hP.notice n h
  express e h := hP.express e h
  forward e h := hP.forward e h
  raise code src v h := hP.raise code src v h
  clear code src h := hP.clear code src h
  ack code src h := hP.ack code src h
  passage t h := hP.passage t h
  put t d c hr _ h := hP.put t d c hr h
  rewriteChannel i c _ _ _ _ h := by
    unfold State.rewriteChannel
    refine foldl_keeps (fun _ st h => ?_) _ ?_
    · exact hP.toBlocks.endPassage h ⟨.pump, st⟩ false
    · exact hP.channel i _ h
  joinPair k _ _ h := hP.toBlocks.withCommands h fun _ h => hP.joinHandStop (hP.channel _ _ (hP.pair k _ h)) _ _
  partPair k h := hP.toBlocks.withCommands h fun _ h => hP.channel _ _ (hP.pair k _ h)

theorem Effects.laneOff (hP : Effects P) (h : P s) (l : Nat) : P (State.laneOff s l) := by
  have hB := hP.toBlocks
  unfold State.laneOff
  dsimp only
  repeat' first
    | with_reducible assumption
    | with_reducible apply hP.lane
    | with_reducible apply hP.passage
    | with_reducible apply hB.enterOff
    | with_reducible apply hB.offerDrive
    | with_reducible apply hB.judgeLane
    | with_reducible refine each_keeps _ (fun _ _ _ => ?_) ?_
    | with_reducible apply ite_keeps

theorem Effects.laneOn (hP : Effects P) (h : P s) (l : Nat) : P (State.laneOn s l) := by
  have hB := hP.toBlocks
  unfold State.laneOn
  dsimp only
  repeat' first
    | with_reducible assumption
    | with_reducible apply hP.lane
    | with_reducible apply hB.leaveOff
    | with_reducible apply hB.judgeLane
    | with_reducible refine each_keeps _ (fun _ _ _ => ?_) ?_
    | with_reducible apply ite_keeps

theorem Effects.rewriteZone (hP : Effects P) (h : P s) (z : Nat) (cfg : ZoneCfg) : P (State.rewriteZone s z cfg) := by
  have hB := hP.toBlocks
  unfold State.rewriteZone
  dsimp only
  repeat' first
    | with_reducible assumption
    | with_reducible apply hP.zone
    | with_reducible apply hP.passage
    | with_reducible apply hB.endDoLow
    | with_reducible apply hB.endAir
    | with_reducible apply hB.enterOff
    | with_reducible apply hB.rewriteWaiting
    | with_reducible apply hB.leaveOff
    | with_reducible apply hB.rewriteTrimming
    | with_reducible apply hB.startTrim
    | with_reducible apply hB.lowerWaitingGrant
    | with_reducible apply hB.judgeAir
    | with_reducible apply hB.judgeSetpoint
    | with_reducible apply ite_keeps
    | split

theorem Effects.takeForce (hP : Effects P) (h : P s) (f : Force) : P (State.takeForce s f) := by
  have hB := hP.toBlocks
  unfold State.takeForce
  dsimp only
  repeat' first
    | with_reducible assumption
    | with_reducible apply hP.storm
    | with_reducible apply hB.stopStormTimers
    | with_reducible apply hB.enterStorm
    | with_reducible apply hB.freshHold
    | with_reducible apply hB.stormReading
    | with_reducible apply hB.suspendTimers
    | with_reducible apply ite_keeps
    | split

theorem Effects.rewriteStorm (hP : Effects P) (h : P s) (cfg : StormCfg) : P (State.rewriteStorm s cfg) := by
  have hB := hP.toBlocks
  unfold State.rewriteStorm
  dsimp only
  repeat' first
    | with_reducible assumption
    | with_reducible apply hP.storm
    | with_reducible apply hB.judgeInfluent
    | with_reducible apply ite_keeps

theorem Effects.holdTarget (hP : Effects P) (h : P s) (t : HandTarget) (demand : Drive) (timeout : TimeoutCode)
    (hroom : (s.passage t).isSome ∨ s.hand.length < 8) (hfree : s.interlocked t demand = false) :
    P (s.holdTarget t demand timeout) := by
  have put := hP.put t demand timeout hroom hfree h
  have entered := ite_keeps (c := t.kind = .zone ∧ (s.passage t).isNone) (hP.toBlocks.enterHand put t.index) put
  exact hP.toBlocks.syncCommands (hP.toBlocks.offerDrive entered _ _) s

theorem Effects.rewritePoint (hP : Effects P) (h : P s) (p : Nat) (cfg : PointCfg) : P (State.rewritePoint s p cfg) := by
  have hB := hP.toBlocks
  unfold State.rewritePoint
  dsimp only
  repeat' first
    | with_reducible assumption
    | with_reducible apply hP.point
    | with_reducible apply hB.pointNone
    | with_reducible apply hB.notifyPoint
    | with_reducible apply hB.pointFlagChange
    | with_reducible apply hB.rejudgePoint
    | with_reducible apply ite_keeps

theorem Effects.turnGood (hP : Effects P) (h : P s) (st : Nat) (a : Answer) : P (State.turnGood s st a) := by
  have hB := hP.toBlocks
  unfold State.turnGood
  dsimp only
  repeat' first
    | with_reducible assumption
    | with_reducible apply hP.station
    | with_reducible apply hP.clear
    | with_reducible apply hB.localAlarm
    | with_reducible apply hB.stationEvents
    | with_reducible apply hB.deliverReadings
    | with_reducible apply hB.adoptAll
    | with_reducible apply ite_keeps

theorem Effects.enterLost (hP : Effects P) (h : P s) (st : Nat) : P (State.enterLost s st) := by
  have hB := hP.toBlocks
  unfold State.enterLost
  dsimp only
  repeat' first
    | with_reducible assumption
    | with_reducible apply hP.station
    | with_reducible apply hP.raise
    | with_reducible apply hB.pointStale
    | with_reducible apply hB.lossEvents
    | with_reducible refine foldl_keeps (fun _ _ _ => ?_) _ ?_
    | with_reducible apply ite_keeps

theorem Effects.turnFailed (hP : Effects P) (h : P s) (st : Nat) : P (State.turnFailed s st) := by
  unfold State.turnFailed
  dsimp only
  repeat' first
    | with_reducible assumption
    | with_reducible apply hP.station
    | with_reducible apply hP.enterLost
    | with_reducible apply ite_keeps

theorem Effects.formatError (hP : Effects P) (h : P s) (st : Nat) : P (State.formatError s st) := by
  unfold State.formatError
  repeat' first
    | with_reducible assumption
    | with_reducible apply hP.station

theorem Effects.voidTurn (hP : Effects P) (h : P s) (st : Nat) : P (State.voidTurn s st) := by
  unfold State.voidTurn
  repeat' first
    | with_reducible assumption
    | with_reducible refine hP.flc _ ?_ ?_
    | with_reducible apply ite_keeps
    | exact List.Sublist.refl _
    | split

theorem Effects.stationAfresh (hP : Effects P) (h : P s) (st : Nat) (cfg : StationCfg) : P (State.stationAfresh s st cfg) := by
  have hB := hP.toBlocks
  unfold State.stationAfresh
  dsimp only
  repeat' first
    | with_reducible assumption
    | with_reducible apply hP.station
    | with_reducible apply hB.pointNone
    | with_reducible apply hB.clearStation
    | with_reducible apply hP.voidTurn
    | with_reducible apply hB.stationEvents
    | with_reducible apply hB.notifyPoint
    | with_reducible refine foldl_keeps (fun _ _ _ => ?_) _ ?_

theorem Effects.rewriteStation (hP : Effects P) (h : P s) (st : Nat) (cfg : StationCfg) : P (State.rewriteStation s st cfg) := by
  have hB := hP.toBlocks
  unfold State.rewriteStation
  dsimp only
  repeat' first
    | with_reducible assumption
    | with_reducible apply hP.station
    | with_reducible apply hB.stationEvents
    | with_reducible apply hP.stationAfresh
    | with_reducible apply hB.stationFlagChange
    | with_reducible apply ite_keeps

theorem Effects.clearMap (hP : Effects P) (h : P s) (st : Nat) : P (s.clearMap st) := by
  have hB := hP.toBlocks
  refine hB.lossEvents (hP.voidTurn (hB.clearStation (hP.without st ?_) st) st) _ _
  refine foldl_keeps (fun _ p h => ?_) _ ?_
  · exact hB.pointNone (hP.point p _ h) p
  · exact hP.station st _ h

theorem Effects.rewriteGroup (hP : Effects P) (h : P s) (g : Nat) (members : List Nat) (answering : Option Nat) : P (State.rewriteGroup s g members answering) := by
  have hB := hP.toBlocks
  unfold State.rewriteGroup
  repeat' first
    | with_reducible assumption
    | with_reducible apply hP.group
    | with_reducible apply hB.endLostPassages
    | with_reducible apply hB.rejudgeZones

theorem Effects.settlePass (hP : Effects P) (h : P s)  : P (State.settlePass s) := by
  unfold State.settlePass
  dsimp only
  repeat' first
    | with_reducible assumption
    | with_reducible refine hP.flc _ ?_ ?_
    | with_reducible apply hP.clear
    | with_reducible apply ite_keeps
    | exact List.Sublist.refl _
    | split

theorem Effects.startRound (hP : Effects P) (h : P s)  : P (State.startRound s) := by
  unfold State.startRound
  dsimp only
  repeat' first
    | with_reducible assumption
    | with_reducible refine hP.flc _ ?_ ?_
    | exact List.Sublist.refl _

theorem Effects.beginTurn (hP : Effects P) (h : P s) (fromRoster : Bool) (t : Target) (payload : Option Drive) : P (State.beginTurn s fromRoster t payload) := by
  unfold State.beginTurn
  dsimp only
  repeat' first
    | with_reducible assumption
    | with_reducible refine hP.flc _ ?_ ?_
    | with_reducible apply ite_keeps
    | exact List.Sublist.refl _
    | split

theorem Effects.rosterTurn (hP : Effects P) (h : P s)  : P (State.rosterTurn s) := by
  unfold State.rosterTurn
  dsimp only
  repeat' first
    | with_reducible assumption
    | with_reducible refine hP.flc _ ?_ ?_
    | with_reducible apply hP.beginTurn
    | exact List.Sublist.refl _
    | split

theorem Effects.expressTurn (hP : Effects P) (h : P s) {e : ExpressEntry} {rest : List ExpressEntry}
    (hs : rest.Sublist s.flc.express) : P (s.expressTurn e rest) :=
  hP.beginTurn (hP.flc _ hs h) _ _ _

theorem Effects.idleExpress (hP : Effects P) (h : P s) : P s.idleExpress := by
  unfold State.idleExpress
  split
  · exact hP.flc _ (List.nil_sublist _) h
  · rename_i e rest he
    exact hP.expressTurn h ((List.sublist_cons_self e rest).trans (he ▸ List.dropWhile_sublist _))

theorem Effects.gapExpress (hP : Effects P) (h : P s) : P s.gapExpress := by
  unfold State.gapExpress
  split
  · exact hP.flc _ (List.Sublist.refl _) h
  · rename_i e rest he
    have hs : rest.Sublist s.flc.express := he ▸ List.sublist_cons_self e rest
    exact ite_keeps (hP.flc _ hs h) (hP.expressTurn h hs)

theorem Effects.nextTurn (hP : Effects P) (h : P s) : P s.nextTurn := by
  unfold State.nextTurn
  dsimp only
  repeat' first
    | with_reducible assumption
    | with_reducible apply hP.settlePass
    | with_reducible apply hP.startRound
    | with_reducible apply hP.idleExpress
    | with_reducible apply hP.rosterTurn
    | with_reducible apply ite_keeps

theorem Effects.lineArbiter (hP : Effects P) (h : P s) : P s.lineArbiter :=
  have settled := hP.settlePass h
  ite_keeps h (hP.nextTurn (ite_keeps (hP.gapExpress settled) settled))

theorem Effects.roundExpiry (hP : Effects P) (h : P s)  : P (State.roundExpiry s) := by
  unfold State.roundExpiry
  dsimp only
  repeat' first
    | with_reducible assumption
    | with_reducible refine hP.flc _ ?_ ?_
    | with_reducible apply hP.raise
    | with_reducible apply ite_keeps
    | exact List.Sublist.refl _

theorem Effects.closeTurn (hP : Effects P) (h : P s) (t : Turn) : P (State.closeTurn s t) := by
  unfold State.closeTurn
  repeat' first
    | with_reducible assumption
    | with_reducible refine hP.flc _ ?_ ?_
    | exact List.Sublist.refl _

theorem Effects.pollSent (hP : Effects P) (h : P s)  : P (State.pollSent s) := by
  unfold State.pollSent
  repeat' first
    | with_reducible assumption
    | with_reducible refine hP.flc _ ?_ ?_
    | exact List.Sublist.refl _

theorem Effects.windowExpiry (hP : Effects P) (h : P s)  : P (State.windowExpiry s) := by
  unfold State.windowExpiry
  repeat' first
    | with_reducible assumption
    | with_reducible refine hP.flc _ ?_ ?_
    | with_reducible apply hP.closeTurn
    | with_reducible apply hP.turnFailed
    | with_reducible apply ite_keeps
    | exact List.Sublist.refl _
    | split

theorem Effects.badFieldFrame (hP : Effects P) (h : P s)  : P (State.badFieldFrame s) := by
  unfold State.badFieldFrame
  repeat' first
    | with_reducible assumption
    | with_reducible refine hP.flc _ ?_ ?_
    | with_reducible apply hP.formatError
    | exact List.Sublist.refl _
    | split

theorem Effects.fieldFrame (hP : Effects P) (h : P s) (chars : List Byte) : P (State.fieldFrame s chars) := by
  unfold State.fieldFrame
  repeat' first
    | with_reducible assumption
    | with_reducible apply hP.badFieldFrame
    | with_reducible apply hP.closeTurn
    | with_reducible apply hP.turnGood
    | split

theorem Effects.rewriteLane (hP : Effects P) (h : P s) (l : Nat) (c : LaneCfg) : P (State.rewriteLane s l c) := by
  have hB := hP.toBlocks
  unfold State.rewriteLane
  dsimp only
  repeat' first
    | with_reducible assumption
    | with_reducible apply hP.lane
    | with_reducible apply hB.moveBand
    | with_reducible apply hB.judgeLane
    | with_reducible apply ite_keeps
    | split

theorem Effects.freshBlower (hP : Effects P) (h : P s) (b : Nat) (c : BlowerCfg) : P (State.freshBlower s b c) := by
  unfold State.freshBlower
  repeat' first
    | with_reducible assumption
    | with_reducible refine hP.blower _ _ (fun hx => ?_) ?_
    | exact absurd hx (by simp [Blower.starting, Blower.start])

theorem Effects.forgetBlower (hP : Effects P) (h : P s) (b : Nat) (c : BlowerCfg) : P (State.forgetBlower s b c) := by
  have hB := hP.toBlocks
  unfold State.forgetBlower
  dsimp only
  repeat' first
    | with_reducible assumption
    | with_reducible apply hP.pool
    | with_reducible apply hP.freshBlower
    | with_reducible apply hB.tripAlarms
    | with_reducible apply hB.header

theorem Effects.rewriteBlower (hP : Effects P) (h : P s) (b : Nat) (c : BlowerCfg) : P (State.rewriteBlower s b c) := by
  have hB := hP.toBlocks
  have rewritten (hc : c.configured = true → (s.blower b).cfg.configured = true) :
      P (s.modBlower b fun x => { x with cfg := c }) := by
    refine hP.blower b _ (fun hx => ?_) h
    rw [starting_iff] at hx ⊢
    exact ⟨hc hx.1, hx.2⟩
  unfold State.rewriteBlower
  dsimp only
  split
  · rename_i hc
    exact ite_keeps (hP.forgetBlower h b c) (rewritten fun hx => by simp [hx] at hc)
  · split
    · exact hB.adoptIfReady (hP.pool _ (hP.freshBlower h b c)) b
    · rename_i hold
      have kept := rewritten fun _ => by simpa using hold
      have again : P (s.modBlower b fun x => { x with cfg := c, lastChange := s.uptime }) := by
        refine hP.blower b _ (fun hx => ?_) h
        rw [starting_iff] at hx ⊢
        exact ⟨by simpa using hold, hx.2⟩
      refine ite_keeps (ite_keeps (ite_keeps (hB.adopt again b) again) (hB.adoptIfReady ?_ b)) kept
      exact hB.enterBlower kept b _ _ (by decide)

theorem Effects.lockBlower (hP : Effects P) (h : P s) (b : Nat) : P (State.lockBlower s b) := by
  have hB := hP.toBlocks
  unfold State.lockBlower
  dsimp only
  repeat' first
    | with_reducible assumption
    | with_reducible refine hP.blower _ _ id ?_
    | with_reducible apply hB.changeBlower
    | with_reducible apply hB.stopBlower
    | with_reducible apply hB.header
    | split
    | decide

theorem Effects.unlockBlower (hP : Effects P) (h : P s) (b : Nat) : P (State.unlockBlower s b) := by
  have hB := hP.toBlocks
  unfold State.unlockBlower
  dsimp only
  repeat' first
    | with_reducible assumption
    | with_reducible refine hP.blower _ _ id ?_
    | with_reducible apply hB.changeBlower
    | split
    | decide

theorem Effects.rewritePool (hP : Effects P) (h : P s) (c : PoolCfg) : P (State.rewritePool s c) := by
  have hB := hP.toBlocks
  unfold State.rewritePool
  dsimp only
  repeat' first
    | with_reducible assumption
    | with_reducible apply hP.pool
    | with_reducible apply hB.dropPressure
    | with_reducible apply hB.judgePressure
    | with_reducible apply hB.judgeMinimum
    | with_reducible apply ite_keeps

theorem Effects.startPoint (hP : Effects P) (h : P s) (p : Nat) : P (State.startPoint p s) := by
  have hB := hP.toBlocks
  unfold State.startPoint
  repeat' first
    | with_reducible assumption
    | with_reducible apply hP.clear
    | with_reducible apply hB.pointStale
    | with_reducible apply ite_keeps

theorem Effects.startLane (hP : Effects P) (h : P s) (l : Nat) : P (State.startLane l s) := by
  have hB := hP.toBlocks
  unfold State.startLane
  dsimp only
  repeat' first
    | with_reducible assumption
    | with_reducible apply hP.lane
    | with_reducible apply hB.setAlarm

theorem Effects.startZone (hP : Effects P) (h : P s) (z : Nat) : P (State.startZone z s) := by
  unfold State.startZone
  repeat' first
    | with_reducible assumption
    | with_reducible apply hP.clear
    | with_reducible apply ite_keeps

theorem Effects.startStorm (hP : Effects P) (h : P s)  : P (State.startStorm s) := by
  have hB := hP.toBlocks
  unfold State.startStorm
  repeat' first
    | with_reducible assumption
    | with_reducible apply hB.setAlarm

theorem Effects.startChannelAlarms (hP : Effects P) (h : P s) (c : Nat) : P (State.startChannelAlarms c s) := by
  unfold State.startChannelAlarms
  repeat' first
    | with_reducible assumption
    | with_reducible apply hP.clear

theorem Effects.startBlower (hP : Effects P) (h : P s) (b : Nat) : P (State.startBlower b s) := by
  have hB := hP.toBlocks
  unfold State.startBlower
  dsimp only
  repeat' first
    | with_reducible assumption
    | with_reducible refine hP.blower _ _ (fun hx => ?_) ?_
    | exact absurd hx (by simp [Blower.starting])
    | with_reducible apply hB.tripAlarms
    | with_reducible apply ite_keeps

end Sys2Proof.Machine
end

