-- ==== Sys2Proof/Laws/Handlers.lean ====
section
/-! SUPPORT. Every request but SAVE and RESTART changes the state by `Effects` alone. -/

namespace Sys2Proof.Machine

open Sys2Proof

variable {P : State → Prop} {s : State}

theorem done_state (t : State) : t.done.state = t := rfl
theorem refused_state (t : State) : t.refused.state = t := rfl
theorem busy_state (t : State) : t.busy.state = t := rfl
theorem noObject_state (t : State) : t.noObject.state = t := rfl
theorem reported_state (t : State) (report : List Byte) : (t.reported report).state = t := rfl

theorem acceptIf_keeps {ok : Bool} {e : State} (h : P s) (he : P e) : P (s.acceptIf ok e).state := by
  unfold State.acceptIf
  split <;> assumption

theorem acceptIf_of {ok : Bool} {e : State} (h : P s) (he : ok = true → P e) : P (s.acceptIf ok e).state := by
  unfold State.acceptIf
  split
  · exact he ‹_›
  · exact h

theorem Effects.handDrive (hP : Effects P) (h : P s) (t : HandTarget) (demand : Drive) (timeout : TimeoutCode) :
    P (s.handDrive t demand timeout).state := by
  unfold State.handDrive
  repeat' split
  all_goals first
    | exact h
    | skip
  rename_i hfree hroom
  refine hP.holdTarget h t demand timeout ?_ (Bool.eq_false_iff.mpr hfree)
  by_contra hc
  rw [not_or, not_lt] at hc
  exact hroom ⟨by simpa using hc.1, hc.2⟩

theorem Effects.onIdentify (_hP : Effects P) (h : P s)  : P (handleIdentify s).state := h

theorem Effects.onMapWrite (hP : Effects P) (h : P s) (st : Nat) (addr : Nat) (role : Coded Role) (legacy : Bool) (alarm : Bool) : P (handleMapWrite st addr role legacy alarm s).state := by
  unfold handleMapWrite
  repeat' first
    | with_reducible assumption
    | rw [refused_state]
    | with_reducible apply hP.rewriteStation
    | with_reducible refine acceptIf_keeps ?_ ?_
    | split

theorem Effects.onMapRead (_hP : Effects P) (h : P s) (st : Nat) : P (handleMapRead st s).state := by
  unfold handleMapRead
  repeat' first
    | with_reducible assumption
    | rw [refused_state]
    | rw [reported_state]
    | with_reducible apply ite_keeps
    | split

theorem Effects.onMapClear (hP : Effects P) (h : P s) (st : Nat) : P (handleMapClear st s).state := by
  unfold handleMapClear
  repeat' first
    | with_reducible assumption
    | rw [done_state]
    | rw [refused_state]
    | rw [noObject_state]
    | with_reducible apply hP.clearMap
    | with_reducible apply ite_keeps
    | split

theorem Effects.onGroupWrite (hP : Effects P) (h : P s) (g : Nat) (members : List Nat) (answering : Option Nat) : P (handleGroupWrite g members answering s).state := by
  unfold handleGroupWrite
  repeat' first
    | with_reducible assumption
    | with_reducible apply hP.rewriteGroup
    | with_reducible refine acceptIf_keeps ?_ ?_

theorem Effects.onPointWrite (hP : Effects P) (h : P s) (p : Nat) (c : PointCfg) : P (handlePointWrite p c s).state := by
  unfold handlePointWrite
  repeat' first
    | with_reducible assumption
    | with_reducible apply hP.rewritePoint
    | with_reducible refine acceptIf_keeps ?_ ?_

theorem Effects.onPointRead (_hP : Effects P) (h : P s) (p : Nat) : P (handlePointRead p s).state := by
  unfold handlePointRead
  repeat' first
    | with_reducible assumption
    | rw [refused_state]
    | rw [reported_state]
    | with_reducible apply ite_keeps
    | split

theorem Effects.onRosterLoad (hP : Effects P) (h : P s) (entries : List RosterEntry) : P (handleRosterLoad entries s).state := by
  unfold handleRosterLoad
  repeat' first
    | with_reducible assumption
    | with_reducible refine hP.flc _ ?_ ?_
    | with_reducible refine acceptIf_keeps ?_ ?_
    | exact List.Sublist.refl _

theorem Effects.onRosterRead (_hP : Effects P) (h : P s)  : P (handleRosterRead s).state := h

theorem Effects.onExpressRead (hP : Effects P) (h : P s) (st : Nat) : P (handleExpressRead st s).state := by
  unfold handleExpressRead
  dsimp only
  repeat' first
    | with_reducible assumption
    | rw [done_state]
    | rw [refused_state]
    | rw [busy_state]
    | with_reducible apply hP.express
    | with_reducible apply ite_keeps
    | split

theorem Effects.onStationCounters (hP : Effects P) (h : P s) (st : Nat) (reset : Bool) : P (handleStationCounters st reset s).state := by
  unfold handleStationCounters
  repeat' first
    | with_reducible assumption
    | rw [done_state]
    | rw [refused_state]
    | with_reducible apply hP.station
    | with_reducible apply ite_keeps
    | split

theorem Effects.onLaneWrite (hP : Effects P) (h : P s) (l : Nat) (c : LaneCfg) : P (handleLaneWrite l c s).state := by
  unfold handleLaneWrite
  repeat' first
    | with_reducible assumption
    | with_reducible apply hP.rewriteLane
    | with_reducible refine acceptIf_keeps ?_ ?_

theorem Effects.onLaneService (hP : Effects P) (h : P s) (l : Nat) (on : Bool) : P (handleLaneService l on s).state := by
  unfold handleLaneService
  repeat' first
    | with_reducible assumption
    | rw [done_state]
    | rw [refused_state]
    | with_reducible apply hP.laneOn
    | with_reducible apply hP.laneOff
    | with_reducible apply ite_keeps
    | split

theorem Effects.onZoneWrite (hP : Effects P) (h : P s) (z : Nat) (c : ZoneCfg) : P (handleZoneWrite z c s).state := by
  unfold handleZoneWrite
  repeat' first
    | with_reducible assumption
    | with_reducible apply hP.rewriteZone
    | with_reducible refine acceptIf_keeps ?_ ?_

theorem Effects.onZoneRead (_hP : Effects P) (h : P s) (z : Nat) : P (handleZoneRead z s).state := by
  unfold handleZoneRead
  repeat' first
    | with_reducible assumption
    | rw [refused_state]
    | rw [reported_state]
    | with_reducible apply ite_keeps
    | split

theorem Effects.onBlowerWrite (hP : Effects P) (h : P s) (b : Nat) (c : BlowerCfg) : P (handleBlowerWrite b c s).state := by
  unfold handleBlowerWrite
  repeat' first
    | with_reducible assumption
    | rw [refused_state]
    | rw [busy_state]
    | with_reducible apply hP.rewriteBlower
    | with_reducible refine acceptIf_keeps ?_ ?_
    | with_reducible apply ite_keeps
    | split

theorem Effects.onBlowerRead (_hP : Effects P) (h : P s) (b : Nat) : P (handleBlowerRead b s).state := by
  unfold handleBlowerRead
  repeat' first
    | with_reducible assumption
    | rw [refused_state]
    | rw [reported_state]
    | with_reducible apply ite_keeps
    | split

theorem Effects.onBlowerLockout (hP : Effects P) (h : P s) (b : Nat) (on : Bool) : P (handleBlowerLockout b on s).state := by
  unfold handleBlowerLockout
  repeat' first
    | with_reducible assumption
    | rw [done_state]
    | rw [refused_state]
    | rw [noObject_state]
    | with_reducible apply hP.lockBlower
    | with_reducible apply hP.unlockBlower
    | with_reducible apply ite_keeps
    | split

theorem Effects.onBlowerReset (hP : Effects P) (h : P s) (b : Nat) : P (handleBlowerReset b s).state := by
  unfold handleBlowerReset
  dsimp only
  repeat' first
    | with_reducible assumption
    | rw [refused_state]
    | rw [noObject_state]
    | with_reducible apply hP.toBlocks.changeBlower
    | with_reducible apply restState_ne
    | with_reducible refine acceptIf_keeps ?_ ?_
    | with_reducible apply ite_keeps
    | split

theorem Effects.onPoolWrite (hP : Effects P) (h : P s) (c : PoolCfg) : P (handlePoolWrite c s).state := by
  unfold handlePoolWrite
  repeat' first
    | with_reducible assumption
    | with_reducible apply hP.rewritePool
    | with_reducible refine acceptIf_keeps ?_ ?_

theorem Effects.onDutyOrder (hP : Effects P) (h : P s) (order : List Nat) : P (handleDutyOrder order s).state := by
  unfold handleDutyOrder
  repeat' first
    | with_reducible assumption
    | with_reducible apply hP.pool
    | with_reducible refine acceptIf_keeps ?_ ?_

theorem Effects.onGrantsRead (_hP : Effects P) (h : P s)  : P (handleGrantsRead s).state := h

theorem Effects.onChannelWrite (hP : Effects P) (h : P s) (i : Nat) (c : ChannelCfg) :
    P (handleChannelWrite i c s).state := by
  unfold handleChannelWrite State.acceptIf
  split_ifs with hi hd hs ok
  · exact h
  · exact h
  · exact h
  · rw [done_state]
    exact hP.rewriteChannel i c (by omega) (Bool.eq_false_iff.mpr hd) (by simpa using hs) ok h
  · exact h

theorem Effects.onChannelStart (hP : Effects P) (h : P s) (i : Nat) : P (handleChannelStart i s).state := by
  unfold handleChannelStart
  split_ifs with _ _ hc
  · exact h
  · exact h
  · exact h
  · exact h
  · exact hP.toBlocks.syncCommands (hP.startChannel i (by simpa using hc) h) s

theorem Effects.onChannelStop (hP : Effects P) (h : P s) (i : Nat) : P (handleChannelStop i s).state := by
  unfold handleChannelStop
  repeat' first
    | with_reducible assumption
    | rw [done_state]
    | rw [refused_state]
    | rw [noObject_state]
    | with_reducible refine hP.toBlocks.withCommands ?_ (fun _ _ => ?_)
    | with_reducible apply hP.toBlocks.disableChannel
    | with_reducible refine hP.channel _ _ ?_ ?_
    | exact ⟨rfl, rfl, rfl, rfl, rfl, rfl, Classical.em _⟩
    | with_reducible apply ite_keeps
    | split

theorem Effects.onChannelRead (_hP : Effects P) (h : P s) (i : Nat) : P (handleChannelRead i s).state := by
  unfold handleChannelRead
  repeat' first
    | with_reducible assumption
    | rw [refused_state]
    | rw [reported_state]
    | with_reducible apply ite_keeps
    | split

theorem Effects.onPairSet (hP : Effects P) (h : P s) (k : Nat) (join : Bool) : P (handlePairSet k join s).state := by
  have joins (ok : (s.channel (2 * k)).cfg.configured && (s.channel (2 * k + 1)).cfg.configured) :
      P (s.joinPair k).judgeChannels := by
    rw [Bool.and_eq_true] at ok
    exact hP.toBlocks.judgeChannels (hP.joinPair k ok.1 ok.2 h)
  have parts : P (s.partPair k).judgeChannels := hP.toBlocks.judgeChannels (hP.partPair k h)
  unfold handlePairSet
  repeat' first
    | with_reducible assumption
    | rw [done_state]
    | rw [refused_state]
    | rw [busy_state]
    | with_reducible refine acceptIf_of ?_ joins
    | split

theorem Effects.onDutySwap (hP : Effects P) (h : P s) (k : Nat) : P (handleDutySwap k s).state := by
  unfold handleDutySwap
  dsimp only
  repeat' first
    | with_reducible assumption
    | rw [done_state]
    | rw [refused_state]
    | with_reducible refine hP.toBlocks.withCommands ?_ (fun _ _ => ?_)
    | with_reducible apply hP.toBlocks.moveDuty
    | with_reducible apply hP.toBlocks.judgeChannels
    | with_reducible apply ite_keeps
    | split

theorem Effects.onStormWrite (hP : Effects P) (h : P s) (c : StormCfg) : P (handleStormWrite c s).state := by
  unfold handleStormWrite
  repeat' first
    | with_reducible assumption
    | with_reducible apply hP.rewriteStorm
    | with_reducible refine acceptIf_keeps ?_ ?_

theorem Effects.onStormForce (hP : Effects P) (h : P s) (f : Coded Force) : P (handleStormForce f s).state := by
  unfold handleStormForce
  repeat' first
    | with_reducible assumption
    | rw [done_state]
    | rw [refused_state]
    | with_reducible apply hP.takeForce
    | with_reducible apply ite_keeps
    | split

theorem Effects.onStormRead (_hP : Effects P) (h : P s)  : P (handleStormRead s).state := h

theorem Effects.onHandDrive (hP : Effects P) (h : P s) (kind : Coded HandKind) (index : Nat) (command : Coded Command)
    (value : Nat) (timeout : Coded TimeoutCode) : P (handleHandDrive kind index command value timeout s).state := by
  unfold handleHandDrive
  repeat' first
    | with_reducible assumption
    | with_reducible apply hP.handDrive
    | rw [refused_state]
    | split

theorem Effects.onHandRelease (hP : Effects P) (h : P s) (kind : Coded HandKind) (index : Nat) : P (handleHandRelease kind index s).state := by
  unfold handleHandRelease
  repeat' first
    | with_reducible assumption
    | rw [done_state]
    | rw [refused_state]
    | rw [noObject_state]
    | with_reducible apply hP.toBlocks.endPassage
    | with_reducible apply ite_keeps
    | split

theorem Effects.onHandRead (_hP : Effects P) (h : P s)  : P (handleHandRead s).state := h

theorem Effects.onAlarmList (_hP : Effects P) (h : P s) (start : Nat) : P (handleAlarmList start s).state := by
  unfold handleAlarmList
  repeat' first
    | with_reducible assumption
    | rw [refused_state]
    | rw [reported_state]
    | with_reducible apply ite_keeps
    | split

theorem Effects.onAlarmAck (hP : Effects P) (h : P s) (code : Coded AlarmCode) (kind : Nat) (index : Nat) : P (handleAlarmAck code kind index s).state := by
  unfold handleAlarmAck
  repeat' first
    | with_reducible assumption
    | rw [done_state]
    | rw [refused_state]
    | rw [noObject_state]
    | with_reducible apply hP.ack
    | with_reducible apply ite_keeps
    | split

theorem Effects.onAlarmAckClass (hP : Effects P) (h : P s) (cls : Coded AlarmClass) : P (handleAlarmAckClass cls s).state := by
  unfold handleAlarmAckClass
  dsimp only
  repeat' first
    | with_reducible assumption
    | rw [done_state]
    | rw [refused_state]
    | rw [noObject_state]
    | with_reducible apply hP.ack
    | with_reducible refine foldl_keeps (fun _ _ _ => ?_) _ ?_
    | with_reducible apply ite_keeps
    | split

theorem Effects.onClassMapWrite (hP : Effects P) (h : P s) (lines : LineMap) (classes : List (Coded AlarmClass)) : P (handleClassMapWrite lines classes s).state := by
  unfold handleClassMapWrite
  repeat' first
    | with_reducible assumption
    | rw [done_state]
    | rw [refused_state]
    | with_reducible refine hP.flags _ ?_ ?_
    | rfl
    | split

theorem Effects.onEscalationWrite (hP : Effects P) (h : P s) (minutes : Nat) : P (handleEscalationWrite minutes s).state := by
  unfold handleEscalationWrite
  repeat' first
    | with_reducible assumption
    | with_reducible refine hP.flags _ ?_ ?_
    | with_reducible refine acceptIf_keeps ?_ ?_
    | rfl

theorem Effects.onMalformed (_hP : Effects P) (h : P s)  : P (handleMalformed s).state := by
  unfold handleMalformed
  repeat' first
    | with_reducible assumption

theorem Effects.onUnreadable (_hP : Effects P) (h : P s)  : P (handleUnreadable s).state := by
  unfold handleUnreadable
  repeat' first
    | with_reducible assumption
    | rw [refused_state]

theorem Effects.onLineWrite (hP : Effects P) (h : P s) (l : LineSettings) : P (handleLineWrite l s).state := by
  unfold handleLineWrite
  repeat' first
    | with_reducible assumption
    | with_reducible refine hP.flc _ ?_ ?_
    | with_reducible refine acceptIf_keeps ?_ ?_
    | exact List.Sublist.refl _

theorem Effects.onDutyRotate (hP : Effects P) (h : P s)  : P (handleDutyRotate s).state := by
  unfold handleDutyRotate
  repeat' first
    | with_reducible assumption
    | rw [done_state]
    | with_reducible apply hP.pool

theorem Effects.onSilence (hP : Effects P) (h : P s)  : P (handleSilence s).state := by
  unfold handleSilence
  repeat' first
    | with_reducible assumption
    | rw [done_state]
    | with_reducible refine hP.flags _ ?_ ?_
    | rfl

theorem Effects.handle (hP : Effects P) (h : P s) (hdr : Hdr) {r : Req} (hs : r ≠ .save) (hr : r ≠ .restart) :
    P (handle hdr r s).1 := by
  cases r with
  | malformed => exact hP.onMalformed h
  | unreadableValue => exact hP.onUnreadable h
  | identify => exact hP.onIdentify h
  | mapWrite => exact hP.onMapWrite h _ _ _ _ _
  | mapRead => exact hP.onMapRead h _
  | mapClear => exact hP.onMapClear h _
  | groupWrite => exact hP.onGroupWrite h _ _ _
  | pointWrite => exact hP.onPointWrite h _ _
  | pointRead => exact hP.onPointRead h _
  | rosterLoad => exact hP.onRosterLoad h _
  | rosterRead => exact hP.onRosterRead h
  | lineWrite => exact hP.onLineWrite h _
  | expressRead => exact hP.onExpressRead h _
  | stationCounters => exact hP.onStationCounters h _ _
  | laneWrite => exact hP.onLaneWrite h _ _
  | laneService => exact hP.onLaneService h _ _
  | zoneWrite => exact hP.onZoneWrite h _ _
  | zoneRead => exact hP.onZoneRead h _
  | blowerWrite => exact hP.onBlowerWrite h _ _
  | blowerRead => exact hP.onBlowerRead h _
  | blowerLockout => exact hP.onBlowerLockout h _ _
  | blowerReset => exact hP.onBlowerReset h _
  | poolWrite => exact hP.onPoolWrite h _
  | dutyOrder => exact hP.onDutyOrder h _
  | dutyRotate => exact hP.onDutyRotate h
  | grantsRead => exact hP.onGrantsRead h
  | channelWrite => exact hP.onChannelWrite h _ _
  | channelStart => exact hP.onChannelStart h _
  | channelStop => exact hP.onChannelStop h _
  | channelRead => exact hP.onChannelRead h _
  | pairSet => exact hP.onPairSet h _ _
  | dutySwap => exact hP.onDutySwap h _
  | stormWrite => exact hP.onStormWrite h _
  | stormForce => exact hP.onStormForce h _
  | stormRead => exact hP.onStormRead h
  | handDrive => exact hP.onHandDrive h _ _ _ _ _
  | handRelease => exact hP.onHandRelease h _ _
  | handRead => exact hP.onHandRead h
  | alarmList => exact hP.onAlarmList h _
  | alarmAck => exact hP.onAlarmAck h _ _ _
  | alarmAckClass => exact hP.onAlarmAckClass h _
  | silence => exact hP.onSilence h
  | classMapWrite => exact hP.onClassMapWrite h _ _
  | escalationWrite => exact hP.onEscalationWrite h _
  | save => exact absurd rfl hs
  | restart => exact absurd rfl hr

end Sys2Proof.Machine
end

