-- ==== Sys2Proof/Laws/Queues.lean ====
section
/-! SUPPORT. What each offer to a queue and each change of the alarm list does, and that it keeps the bounds of `QueuesHold`. -/

namespace Sys2Proof.Machine

open Sys2Proof

variable {s : State}

/-- The bounds read three fields alone. -/
theorem State.QueuesHold.of_eq {t : State} (h : s.QueuesHold) (hn : t.port.notices = s.port.notices)
    (hf : t.port.forward = s.port.forward) (he : t.flc.express = s.flc.express) (ha : t.alarms = s.alarms) :
    t.QueuesHold :=
  ⟨hn ▸ h.notices, he ▸ h.express, he ▸ h.expressOnce, hf ▸ h.forward, hf ▸ h.forwardOnce, ha ▸ h.alarms⟩

/-! ### Notices -/

theorem offerNotice_added (n : Notice) (h : s.port.notices.length < 32) :
    (s.offerNotice n).port = { s.port with notices := s.port.notices ++ [n] } := by
  simp [State.offerNotice, h]

theorem offerNotice_lost (n : Notice) (h : 32 ≤ s.port.notices.length) :
    (s.offerNotice n).port = { s.port with noticesLost := holdAdd 65535 s.port.noticesLost 1 } := by
  simp [State.offerNotice, Nat.not_lt.mpr h]

/-- An offered notice leaves everything but the notice queue and its count as it is. -/
theorem offerNotice_eq (s : State) (n : Notice) :
    s.offerNotice n = { s with port := { s.port with
      notices := (s.offerNotice n).port.notices, noticesLost := (s.offerNotice n).port.noticesLost } } := by
  unfold State.offerNotice State.modPort
  dsimp only
  split <;> rfl

theorem State.QueuesHold.offerNotice (h : s.QueuesHold) (n : Notice) : (s.offerNotice n).QueuesHold := by
  have hn : (s.offerNotice n).port.notices.length ≤ 32 := by
    rcases Nat.lt_or_ge s.port.notices.length 32 with hl | hl
    · simpa [offerNotice_added n hl] using hl
    · simpa [offerNotice_lost n hl] using h.notices
  rw [offerNotice_eq]
  exact ⟨hn, h.express, h.expressOnce, h.forward, h.forwardOnce, h.alarms⟩

/-! ### Express entries -/

theorem same_of_coalesced {e x y : ExpressEntry} :
    (if x.same e then e else x).same (if y.same e then e else y) = x.same y := by
  unfold ExpressEntry.same
  split <;> split <;> simp_all

theorem State.QueuesHold.offerExpress (h : s.QueuesHold) (e : ExpressEntry) : (s.offerExpress e).QueuesHold := by
  unfold State.offerExpress State.modFlc
  dsimp only
  split
  · refine ⟨h.notices, by simpa using h.express, ?_, h.forward, h.forwardOnce, h.alarms⟩
    dsimp only
    rw [List.pairwise_map]
    exact h.expressOnce.imp fun hab => by rw [same_of_coalesced]; exact hab
  · split
    · rename_i hnone hlen
      refine ⟨h.notices, by simpa using hlen, ?_, h.forward, h.forwardOnce, h.alarms⟩
      refine List.pairwise_append.mpr ⟨h.expressOnce, List.pairwise_singleton _ _, ?_⟩
      intro a ha b hb
      obtain rfl := List.mem_singleton.mp hb
      simpa using fun hs => hnone (List.any_eq_true.mpr ⟨a, ha, hs⟩)
    · exact ⟨h.notices, h.express, h.expressOnce, h.forward, h.forwardOnce, h.alarms⟩

/-! ### Forwarded readings -/

theorem State.QueuesHold.offerForward (h : s.QueuesHold) (e : PendingPoint) : (s.offerForward e).QueuesHold := by
  unfold State.offerForward State.modPort
  dsimp only
  split
  · refine ⟨h.notices, h.express, h.expressOnce, by simpa using h.forward, ?_, h.alarms⟩
    have hpoints : (s.port.forward.map fun x => if x.point == e.point then e else x).map PendingPoint.point
        = s.port.forward.map PendingPoint.point := by
      rw [List.map_map]
      refine List.map_congr_left fun x _ => ?_
      by_cases hx : x.point = e.point <;> simp [hx]
    exact hpoints ▸ h.forwardOnce
  · split
    · rename_i hnone hlen
      refine ⟨h.notices, h.express, h.expressOnce, by simpa using hlen, ?_, h.alarms⟩
      rw [List.map_append, List.map_singleton]
      refine List.nodup_append.mpr ⟨h.forwardOnce, List.nodup_singleton _, ?_⟩
      intro a ha b hb hab
      obtain ⟨x, hx, rfl⟩ := List.mem_map.mp ha
      obtain rfl := List.mem_singleton.mp hb
      exact hnone (List.any_eq_true.mpr ⟨x, hx, by simpa using hab⟩)
    · exact ⟨h.notices, h.express, h.expressOnce, h.forward, h.forwardOnce, h.alarms⟩

/-! ### The alarm list -/

theorem is_of_key {x r : AlarmRecord} (h : x.is r.code r.source = true) : x.code = r.code ∧ x.source = r.source := by
  simpa [AlarmRecord.is] using h

theorem Alarms.Bounded.replace {a : Alarms} (h : a.Bounded) {r : AlarmRecord} (hc : 1 ≤ r.count ∧ r.count ≤ 255) :
    (a.replace r).Bounded := by
  refine ⟨by simpa [Alarms.replace] using h.atMost64, ?_, ?_⟩
  · unfold Alarms.replace
    rw [List.pairwise_map]
    refine h.oneEach.imp fun {x y} hxy => ?_
    have key : ∀ z : AlarmRecord, (if z.is r.code r.source then r else z).code = z.code
        ∧ (if z.is r.code r.source then r else z).source = z.source := by
      intro z
      split
      · rename_i hz; exact ⟨(is_of_key hz).1.symm, (is_of_key hz).2.symm⟩
      · exact ⟨rfl, rfl⟩
    unfold AlarmRecord.is at hxy
    rw [AlarmRecord.is, (key x).1, (key x).2, (key y).1, (key y).2]
    exact hxy
  · intro x hx
    obtain ⟨y, hy, rfl⟩ := List.mem_map.mp hx
    split
    · exact hc
    · exact h.counts y hy

theorem Alarms.Bounded.remove {a : Alarms} (h : a.Bounded) (code : AlarmCode) (src : Source) :
    (a.remove code src).Bounded :=
  ⟨(List.length_filter_le _ _).trans h.atMost64, h.oneEach.sublist List.filter_sublist,
    fun r hr => h.counts r (List.mem_filter.mp hr).1⟩

/-- Taking out a record that stands in the list leaves room for one. -/
theorem length_remove_lt {a : Alarms} {r : AlarmRecord} (hr : r ∈ a.records) :
    (a.remove r.code r.source).records.length < a.records.length := by
  refine List.length_filter_lt_length_iff_exists.mpr ⟨r, hr, ?_⟩
  simp [AlarmRecord.is]

theorem Alarms.Bounded.flags {a b : Alarms} (h : a.Bounded) (hr : b.records = a.records) : b.Bounded :=
  ⟨hr ▸ h.atMost64, hr ▸ h.oneEach, hr ▸ h.counts⟩

theorem hornHeard_records (a : Alarms) (c : AlarmClass) : (a.hornHeard c).records = a.records := by
  unfold Alarms.hornHeard; split <;> rfl

theorem State.QueuesHold.modAlarms (h : s.QueuesHold) {f : Alarms → Alarms} (hf : (f s.alarms).Bounded) :
    (s.modAlarms f).QueuesHold := ⟨h.notices, h.express, h.expressOnce, h.forward, h.forwardOnce, hf⟩

/-- No record has the code and source. -/
theorem record_none {code : AlarmCode} {src : Source} (h : s.record code src = none) :
    ∀ x ∈ s.alarms.records, x.is code src = false := by
  simpa [State.record] using h

theorem record_some {code : AlarmCode} {src : Source} {r : AlarmRecord} (h : s.record code src = some r) :
    r ∈ s.alarms.records ∧ r.code = code ∧ r.source = src :=
  ⟨List.mem_of_find?_eq_some h, by simpa [AlarmRecord.is] using List.find?_some h⟩

theorem State.QueuesHold.insertRecord (h : s.QueuesHold) {code : AlarmCode} {src : Source} (v : Option Nat)
    (hroom : s.alarms.records.length < 64) (hnone : ∀ x ∈ s.alarms.records, x.is code src = false) :
    (s.insertRecord code src v).QueuesHold := by
  refine (h.modAlarms ?_).offerNotice _
  refine Alarms.Bounded.flags (a := { s.alarms with records := s.alarms.records ++ [_] }) ?_ (hornHeard_records _ _)
  refine ⟨by simpa using hroom, ?_, ?_⟩
  · refine List.pairwise_append.mpr ⟨h.alarms.oneEach, List.pairwise_singleton _ _, ?_⟩
    intro a ha b hb
    obtain rfl := List.mem_singleton.mp hb
    exact hnone a ha
  · intro r hr
    rcases List.mem_append.mp hr with hr | hr
    · exact h.alarms.counts r hr
    · obtain rfl := List.mem_singleton.mp hr
      exact ⟨le_refl 1, show 1 ≤ 255 by decide⟩

theorem evictee_mem {code : AlarmCode} {src : Source} {r : AlarmRecord} (h : s.evictee code src = some r) :
    r ∈ s.alarms.records := by
  have hsub : ∀ x ∈ s.alarms.records.filter (fun r => !s.pinned r.code r.source), x ∈ s.alarms.records :=
    fun x hx => (List.mem_filter.mp hx).1
  unfold State.evictee at h
  dsimp only at h
  split at h
  · rename_i x hx
    obtain rfl := Option.some.inj h
    exact hsub _ (List.mem_of_find?_eq_some hx)
  · split at h
    · rename_i x hx
      obtain rfl := Option.some.inj h
      exact hsub _ (List.mem_of_find?_eq_some hx)
    · split at h
      · exact hsub _ (List.mem_of_mem_head? h)
      · simp at h

theorem State.QueuesHold.raiseAlarm (h : s.QueuesHold) (code : AlarmCode) (src : Source) (v : Option Nat) :
    (s.raiseAlarm code src v).QueuesHold := by
  unfold State.raiseAlarm
  split
  · rename_i r hr
    refine (h.modAlarms ?_).offerNotice _
    refine Alarms.Bounded.flags (a := s.alarms.replace (r.raisedAgain s.uptime v)) ?_ (hornHeard_records _ _)
    refine h.alarms.replace ?_
    simp only [AlarmRecord.raisedAgain, holdAdd]
    omega
  · rename_i hr
    split
    · rename_i hroom
      exact h.insertRecord v hroom (record_none hr)
    · split
      · rename_i x hx
        have hb := (h.modAlarms (f := (·.remove x.code x.source)) (h.alarms.remove _ _)).offerNotice
          (.alarmChange .evicted (s.modAlarms (·.remove x.code x.source)).alarms.full (s.view x))
        have ha := congrArg State.alarms (offerNotice_eq (s.modAlarms (·.remove x.code x.source))
          (.alarmChange .evicted (s.modAlarms (·.remove x.code x.source)).alarms.full (s.view x)))
        refine hb.insertRecord v ?_ ?_
        · rw [ha]
          exact (length_remove_lt (evictee_mem hx)).trans_le h.alarms.atMost64
        · rw [ha]
          exact fun y hy => record_none hr y (List.mem_filter.mp hy).1
      · exact h.modAlarms (h.alarms.flags rfl)

theorem State.QueuesHold.changed (h : s.QueuesHold) {code : AlarmCode} {src : Source} {r r' : AlarmRecord}
    (hr : s.record code src = some r) (hc : r'.count = r.count) (a : AlarmAction) :
    ((s.modAlarms (·.replace r')).noteAlarm a r' false).QueuesHold :=
  (h.modAlarms (h.alarms.replace (hc ▸ h.alarms.counts r (record_some hr).1))).offerNotice _

theorem State.QueuesHold.clearAlarm (h : s.QueuesHold) (code : AlarmCode) (src : Source) :
    (s.clearAlarm code src).QueuesHold := by
  unfold State.clearAlarm
  split
  · exact h
  · rename_i r hr
    dsimp only
    split
    · refine h.changed hr ?_ _
      rfl
    · exact (h.modAlarms (h.alarms.remove _ _)).offerNotice _
    · exact h

theorem State.QueuesHold.ackAlarm (h : s.QueuesHold) (code : AlarmCode) (src : Source) :
    (s.ackAlarm code src).QueuesHold := by
  unfold State.ackAlarm
  split
  · exact h
  · rename_i r hr
    dsimp only
    split
    · refine h.changed hr ?_ _
      rfl
    · exact (h.modAlarms (h.alarms.remove _ _)).offerNotice _
    · exact h

end Sys2Proof.Machine
end

