-- ==== Sys2Proof/Laws/Shell.lean ====
section
/-! SUPPORT. What any command does, said once: a property kept by `Effects`, by the plant port's own moves and by the loads of a
start (`Shell`) is kept by every command. -/

namespace Sys2Proof.Machine

open Sys2Proof

/-- Kept by every change any command makes. The port's queues only lose entries outside their offers, the image only becomes
the snapshot of a save. -/
structure Shell (P : State → Prop) : Prop extends Effects P where
  port : ∀ {s : State} (f : Port → Port), (f s.port).notices.Sublist s.port.notices →
    (f s.port).forward.Sublist s.port.forward →
    ((f s.port).image = s.port.image ∨ ∃ x, s.port.save = some x ∧ (f s.port).image = x.snapshot) →
    ((f s.port).save = s.port.save ∨ (f s.port).save = none) → P s → P (s.modPort f)
  save : ∀ {s : State} (h : Hdr), P s → P (s.beginSave h)
  load : ∀ {s : State} (kind : StartKind), P s → P (s.load kind)
  cold : ∀ {s : State} (straps : BitVec 3) (fast : Bool), P s →
    P { s with
      uptime := 0,
      alarms := { s.alarms with records := [], full := false },
      port := { s.port with plantAddr := 48 + straps.toNat, fastLine := fast } }
  warm : ∀ {s : State}, P s → P (s.modAlarms fun a =>
    { a with records := a.records.map fun (r : AlarmRecord) => r.restarted s.uptime })

variable {P : State → Prop} {s : State}

/-! ### The plant port -/

/-- A port change that keeps notices, pending points, image and save. -/
theorem Shell.quiet (hP : Shell P) (f : Port → Port) (hn : (f s.port).notices = s.port.notices)
    (hf : (f s.port).forward = s.port.forward) (hi : (f s.port).image = s.port.image)
    (hs : (f s.port).save = s.port.save) (h : P s) : P (s.modPort f) :=
  hP.port f (hn ▸ List.Sublist.refl _) (hf ▸ List.Sublist.refl _) (.inl hi) (.inl hs) h

theorem Shell.transmit (hP : Shell P) (h : P s) : P s.transmit := by
  unfold State.transmit
  refine ite_keeps h (hP.port _ ?_ ?_ ?_ ?_ h)
  · split
    · exact List.Sublist.refl _
    · rename_i hn; rw [hn]; exact List.sublist_cons_self _ _
    · exact List.Sublist.refl _
    · exact List.Sublist.refl _
  · split
    · exact List.Sublist.refl _
    · exact List.Sublist.refl _
    · rename_i hf; rw [hf]; exact List.sublist_cons_self _ _
    · exact List.Sublist.refl _
  · left; split <;> rfl
  · left; split <;> rfl

theorem Shell.updateLines (hP : Shell P) (h : P s) : P s.updateLines := hP.flags _ rfl h

theorem Shell.settleDown (hP : Shell P) (h : P s) : P s.lineArbiter.updateLines := hP.updateLines (hP.lineArbiter h)

theorem Shell.finish (hP : Shell P) (h : P s) : P s.finish := hP.transmit (hP.settleDown h)

theorem Shell.addReply (hP : Shell P) (h : P s) (r : Reply) : P (s.addReply r) := hP.quiet _ rfl rfl rfl rfl h

theorem Shell.addressed (hP : Shell P) (h : P s) (hdr : Hdr) : P (s.addressed hdr) := hP.quiet _ rfl rfl rfl rfl h

theorem Shell.handle (hP : Shell P) (h : P s) (hdr : Hdr) (r : Req) : P (handle hdr r s).1 := by
  by_cases hs : r = .save
  · subst hs
    change P (handleSave hdr s).1
    unfold handleSave
    split
    · exact h
    · exact hP.save hdr h
  · by_cases hr : r = .restart
    · subst hr
      change P (handleRestart s).state
      unfold handleRestart
      split
      · exact h
      · exact hP.quiet (fun p => { p with restartTaken := true }) rfl rfl rfl rfl h
    · exact hP.toEffects.handle h hdr hs hr

theorem Shell.take (hP : Shell P) (h : P s) (r : Request) : P (s.take r) := by
  have handled : P (Machine.handle r.hdr r.body (s.modPort fun p => { p with address := r.hdr.src })).1 :=
    hP.handle (hP.addressed h r.hdr) r.hdr r.body
  unfold State.take
  dsimp only
  split
  · rename_i t ht
    rw [ht] at handled
    exact hP.transmit (hP.settleDown handled)
  · rename_i t status report ht
    rw [ht] at handled
    exact hP.transmit (hP.addReply (hP.settleDown handled) _)

theorem Shell.serve (hP : Shell P) (n : Nat) (h : P s) : P (s.serve n) := by
  induction n generalizing s with
  | zero => exact h
  | succ n ih =>
    unfold State.serve
    split
    · exact h
    · exact ite_keeps (ih (hP.take (hP.quiet _ rfl rfl rfl rfl h) _)) h

theorem Shell.offerRequest (hP : Shell P) (h : P s) (r : Request) : P (s.offerRequest r) :=
  ite_keeps (hP.quiet _ rfl rfl rfl rfl h) (ite_keeps (hP.addReply h _) (hP.quiet _ rfl rfl rfl rfl h))

theorem Shell.receiveRequest (hP : Shell P) (h : P s) (r : Request) : P (s.receiveRequest r) :=
  hP.transmit (hP.serve _ (hP.offerRequest h r))

theorem Shell.checkError (hP : Shell P) (h : P s) : P s.checkError := hP.quiet _ rfl rfl rfl rfl h

theorem Shell.plantFrameIn (hP : Shell P) (h : P s) (chars : List Byte) : P (s.plantFrameIn chars) := by
  unfold State.plantFrameIn
  split
  · exact h
  · exact hP.checkError h
  · exact ite_keeps h (hP.receiveRequest h _)

theorem Shell.saveCompletes (hP : Shell P) (h : P s) (ok : Bool) : P (s.saveCompletes ok) := by
  unfold State.saveCompletes
  split
  · exact h
  · rename_i x hx
    have stored : P (s.modPort fun p => { p with image := x.snapshot, imageOk := ok, save := none }) :=
      hP.port _ (List.Sublist.refl _) (List.Sublist.refl _) (.inr ⟨x, hx, rfl⟩) (.inr rfl) h
    exact hP.transmit (hP.addReply (hP.settleDown (hP.toBlocks.setAlarm stored _ _ _ _)) _)

/-! ### Starts -/

theorem Shell.startUp (hP : Shell P) (h : P s) (kind : StartKind) : P (s.startUp kind) := by
  have hB := hP.toBlocks
  refine hP.finish (hB.header ?_)
  refine each_keeps 6 (fun b _ h => hP.startBlower h b) ?_
  refine each_keeps 4 (fun c _ h => hP.startChannelAlarms h c) ?_
  refine hP.startStorm ?_
  refine each_keeps 24 (fun z _ h => hP.startZone h z) ?_
  refine each_keeps 6 (fun l _ h => hP.startLane h l) ?_
  refine each_keeps 128 (fun p _ h => hP.startPoint h p) ?_
  exact hB.setAlarm (hP.load kind h) _ _ _ _

theorem Shell.coldStart (hP : Shell P) (h : P s) (kind : StartKind) (straps : BitVec 3) (fast : Bool) :
    P (s.coldStart kind straps fast) := hP.startUp (hP.cold straps fast h) kind

theorem Shell.warmStart (hP : Shell P) (h : P s) : P s.warmStart := hP.startUp (hP.warm h) _

theorem Shell.frameSent (hP : Shell P) (h : P s) : P s.frameSent := by
  unfold State.frameSent
  split
  · exact h
  · exact ite_keeps (hP.warmStart h) (hP.serve _ (hP.transmit (hP.quiet _ rfl rfl rfl rfl h)))

/-! ### Every command -/

theorem Shell.onlyIf (hP : Shell P) (h : P s) {e : State} (he : P e) (b : Bool) :
    ∃ t, s.onlyIf b e = .next t ∧ P t := ⟨_, rfl, ite_keeps (hP.finish he) h⟩

/-- Every command answers a next state, and keeps what the shell keeps. -/
theorem Shell.exec (hP : Shell P) (h : P s) (c : Instr) : ∃ t, exec c s = .next t ∧ P t := by
  have hB := hP.toBlocks
  cases c with
  | powerOn straps fast => exact ⟨_, rfl, hP.coldStart h _ _ _⟩
  | resetPin straps fast => exact ⟨_, rfl, hP.coldStart h _ _ _⟩
  | saveWriteComplete ok => exact ⟨_, rfl, hP.saveCompletes h ok⟩
  | plantFrameReceived chars => exact ⟨_, rfl, hP.plantFrameIn h chars⟩
  | plantFrameSent => exact ⟨_, rfl, hP.frameSent h⟩
  | framingIdleTimeout link =>
    cases link with
    | field => exact ⟨_, rfl, hP.badFieldFrame h⟩
    | plant => exact ⟨_, rfl, hP.checkError h⟩
  | pollSent => exact ⟨_, rfl, hP.pollSent h⟩
  | fieldFrameReceived chars => exact ⟨_, rfl, hP.finish (hP.fieldFrame h chars)⟩
  | answerWindowExpiry => exact hP.onlyIf h (hP.windowExpiry h) _
  | roundTimerExpiry => exact hP.onlyIf h (hP.roundExpiry h) _
  | staleTimerExpiry p => exact hP.onlyIf h (hB.staleExpiry h p) _
  | trimTimerExpiry z => exact hP.onlyIf h (hB.trimExpiry h z) _
  | startGraceExpiry l => exact hP.onlyIf h (hB.graceExpiry h l) _
  | rampTimeElapsed b => exact hP.onlyIf h (hB.judgeBlower h b) _
  | rampTimerExpiry b => exact hP.onlyIf h (hB.startFails h b) _
  | runDownEnd b => exact hP.onlyIf h (hB.runDownEnds h b) _
  | allocationTimerExpiry => exact hP.onlyIf h (hB.allocationExpiry h) _
  | pauseLimitExpiry c => exact hP.onlyIf h (hB.pauseExpiry h c) _
  | entryConfirmExpiry => exact hP.onlyIf h (hB.entryExpires h) _
  | holdTimerExpiry => exact hP.onlyIf h (hB.holdExpires h) _
  | exitConfirmExpiry => exact hP.onlyIf h (hB.exitExpires h) _
  | deadlineExpiry t => exact hP.onlyIf h (hB.endPassage h t false) _
  | escalationExpiry code src => exact hP.onlyIf h h _
  | _ => exact ⟨_, rfl, hP.receiveRequest h _⟩

end Sys2Proof.Machine
end

