-- ==== Sys2Proof/Laws/Invariants.lean ====
section
/-! SUPPORT. The parts of `Safe` that every command keeps, as instances of `Shell`, and the queue of waiting commands, which no
command touches. -/

namespace Sys2Proof.Machine

open Sys2Proof

variable {s : State}

/-! ### What an offer or an alarm leaves alone -/

theorem offerExpress_eq (s : State) (e : ExpressEntry) :
    s.offerExpress e = { s with flc := { s.flc with
      express := (s.offerExpress e).flc.express, expressDrops := (s.offerExpress e).flc.expressDrops } } := by
  unfold State.offerExpress State.modFlc
  dsimp only
  repeat' split
  all_goals rfl

theorem offerForward_eq (s : State) (e : PendingPoint) :
    s.offerForward e = { s with port := { s.port with forward := (s.offerForward e).port.forward } } := by
  unfold State.offerForward State.modPort
  dsimp only
  repeat' split
  all_goals rfl

/-- What an alarm's change leaves of the alarm list's settings: the records, the list-full flag and the horn-silenced flag may
differ, the maps and the escalation time stand. -/
def Alarms.Moved (a b : Alarms) : Prop := b = { a with records := b.records, full := b.full, silenced := b.silenced }

theorem Alarms.Moved.hornHeard {a b : Alarms} (h : a.Moved b) (c : AlarmClass) : a.Moved (b.hornHeard c) := by
  unfold Alarms.Moved at h ⊢
  unfold Alarms.hornHeard
  split <;> rw [h]

theorem Alarms.Moved.records {a b : Alarms} (h : a.Moved b) (l : List AlarmRecord) (full : Bool) :
    a.Moved { b with records := l, full := full } := by
  unfold Alarms.Moved at h ⊢
  rw [h]

/-- Two states that differ at most in the alarm list and in what notices change. -/
def AlarmsOnly (s t : State) : Prop :=
  s.alarms.Moved t.alarms ∧ t = { s with
    alarms := t.alarms, port := { s.port with notices := t.port.notices, noticesLost := t.port.noticesLost } }

theorem AlarmsOnly.refl (s : State) : AlarmsOnly s s := ⟨rfl, rfl⟩

theorem AlarmsOnly.modAlarms {t : State} (h : AlarmsOnly s t) {f : Alarms → Alarms} (hf : s.alarms.Moved (f t.alarms)) :
    AlarmsOnly s (t.modAlarms f) := by
  refine ⟨hf, ?_⟩
  have h2 := h.2
  rw [h2]
  rfl

theorem AlarmsOnly.offerNotice {t : State} (h : AlarmsOnly s t) (n : Notice) : AlarmsOnly s (t.offerNotice n) := by
  have ha : (t.offerNotice n).alarms = t.alarms := by rw [offerNotice_eq]
  refine ⟨ha ▸ h.1, ?_⟩
  have h2 := h.2
  rw [offerNotice_eq, h2]

theorem AlarmsOnly.insertRecord {t : State} (h : AlarmsOnly s t) (code : AlarmCode) (src : Source) (v : Option Nat) :
    AlarmsOnly s (t.insertRecord code src v) := by
  refine (h.modAlarms ?_).offerNotice _
  exact Alarms.Moved.hornHeard (b := { t.alarms with records := t.alarms.records ++ [_] }) (h.1.records _ t.alarms.full) _

theorem raiseAlarm_only (s : State) (code : AlarmCode) (src : Source) (v : Option Nat) :
    AlarmsOnly s (s.raiseAlarm code src v) := by
  have h := AlarmsOnly.refl s
  unfold State.raiseAlarm
  split
  · rename_i r _
    refine (h.modAlarms ?_).offerNotice _
    exact Alarms.Moved.hornHeard (b := s.alarms.replace (r.raisedAgain s.uptime v)) (h.1.records _ s.alarms.full) _
  · split
    · exact h.insertRecord _ _ _
    · split
      · exact ((h.modAlarms (h.1.records _ _)).offerNotice _).insertRecord _ _ _
      · exact h.modAlarms (h.1.records _ _)

theorem clearAlarm_only (s : State) (code : AlarmCode) (src : Source) : AlarmsOnly s (s.clearAlarm code src) := by
  have h := AlarmsOnly.refl s
  unfold State.clearAlarm
  split
  · exact h
  · split
    · exact (h.modAlarms (h.1.records _ _)).offerNotice _
    · exact (h.modAlarms (h.1.records _ _)).offerNotice _
    · exact h

theorem ackAlarm_only (s : State) (code : AlarmCode) (src : Source) : AlarmsOnly s (s.ackAlarm code src) := by
  have h := AlarmsOnly.refl s
  unfold State.ackAlarm
  split
  · exact h
  · split
    · exact (h.modAlarms (h.1.records _ _)).offerNotice _
    · exact (h.modAlarms (h.1.records _ _)).offerNotice _
    · exact h

theorem AlarmsOnly.pending {t : State} (h : AlarmsOnly s t) : t.pending = s.pending := by
  rw [h.2]

theorem AlarmsOnly.hand {t : State} (h : AlarmsOnly s t) : t.hand = s.hand := by
  rw [h.2]

theorem AlarmsOnly.port {t : State} (h : AlarmsOnly s t) :
    t.port = { s.port with notices := t.port.notices, noticesLost := t.port.noticesLost } := by
  rw [h.2]

/-! ### The waiting commands -/

theorem pending_changes (l : List Instr) : Changes (fun s => s.pending = l) where
  station _ _ h := h
  group _ _ h := h
  without _ h := h
  point _ _ h := h
  lane _ _ h := h
  zone _ _ h := h
  blower _ _ h := h
  channel _ _ h := h
  pair _ _ h := h
  storm _ h := h
  pool _ h := h
  flc _ _ h := h
  flags _ _ h := h
  notice n h := by rw [offerNotice_eq]; exact h
  express e h := by rw [offerExpress_eq]; exact h
  forward e h := by rw [offerForward_eq]; exact h
  raise code src v h := (raiseAlarm_only _ code src v).pending.trans h
  clear code src h := (clearAlarm_only _ code src).pending.trans h
  ack code src h := (ackAlarm_only _ code src).pending.trans h
  passage _ h := h
  put t d c _ h := by unfold State.putPassage; split <;> exact h
  demand _ _ h := h

theorem pending_shell (l : List Instr) : Shell (fun s => s.pending = l) where
  toEffects := (pending_changes l).toEffects
  port _ _ _ _ _ h := h
  save _ h := h
  load _ h := h
  cold _ _ h := h
  warm h := h

/-! ### Queues and the alarm list -/

theorem queuesHold_changes : Changes State.QueuesHold where
  station _ _ h := h.of_eq rfl rfl rfl rfl
  group _ _ h := h.of_eq rfl rfl rfl rfl
  without _ h := h.of_eq rfl rfl rfl rfl
  point _ _ h := h.of_eq rfl rfl rfl rfl
  lane _ _ h := h.of_eq rfl rfl rfl rfl
  zone _ _ h := h.of_eq rfl rfl rfl rfl
  blower _ _ h := h.of_eq rfl rfl rfl rfl
  channel _ _ h := h.of_eq rfl rfl rfl rfl
  pair _ _ h := h.of_eq rfl rfl rfl rfl
  storm _ h := h.of_eq rfl rfl rfl rfl
  pool _ h := h.of_eq rfl rfl rfl rfl
  flc _ hs h := ⟨h.notices, hs.length_le.trans h.express, h.expressOnce.sublist hs, h.forward, h.forwardOnce, h.alarms⟩
  flags _ hr h := h.modAlarms (h.alarms.flags hr)
  notice n h := h.offerNotice n
  express e h := h.offerExpress e
  forward e h := h.offerForward e
  raise code src v h := h.raiseAlarm code src v
  clear code src h := h.clearAlarm code src
  ack code src h := h.ackAlarm code src
  passage _ h := h.of_eq rfl rfl rfl rfl
  put t d c _ h := by unfold State.putPassage; split <;> exact h.of_eq rfl rfl rfl rfl
  demand _ _ h := h.of_eq rfl rfl rfl rfl

theorem queuesHold_shell : Shell State.QueuesHold where
  toEffects := queuesHold_changes.toEffects
  port _ hn hf _ _ h :=
    ⟨hn.length_le.trans h.notices, h.express, h.expressOnce, hf.length_le.trans h.forward,
      h.forwardOnce.sublist (hf.map _), h.alarms⟩
  save _ h := h.of_eq rfl rfl rfl rfl
  load _ h :=
    ⟨Nat.zero_le _, Nat.zero_le _, List.Pairwise.nil, Nat.zero_le _, List.nodup_nil, h.alarms.flags rfl⟩
  cold _ _ h :=
    ⟨h.notices, h.express, h.expressOnce, h.forward, h.forwardOnce, Nat.zero_le _, List.Pairwise.nil, by simp⟩
  warm h := by
    refine h.modAlarms ⟨?_, ?_, ?_⟩
    · simpa using h.alarms.atMost64
    · rw [List.pairwise_map]
      refine h.alarms.oneEach.imp fun {x y} hxy => ?_
      unfold AlarmRecord.restarted
      split <;> split <;> exact hxy
    · intro r hr
      obtain ⟨x, hx, rfl⟩ := List.mem_map.mp hr
      unfold AlarmRecord.restarted
      split <;> exact h.alarms.counts x hx

/-! ### Hand passages -/

theorem State.HandHolds.of_eq {t : State} (h : s.HandHolds) (hh : t.hand = s.hand) : t.HandHolds :=
  ⟨hh ▸ h.passages, hh ▸ h.oneEach⟩

theorem State.HandHolds.mapped (h : s.HandHolds) {f : Passage → Passage} (hf : ∀ p, (f p).target = p.target) :
    State.HandHolds { s with hand := s.hand.map f } := by
  refine ⟨by simpa using h.passages, ?_⟩
  have ht : (s.hand.map f).map Passage.target = s.hand.map Passage.target := by
    rw [List.map_map]
    exact List.map_congr_left fun p _ => hf p
  exact ht ▸ h.oneEach

theorem State.HandHolds.putPassage (h : s.HandHolds) (t : HandTarget) (d : Drive) (c : TimeoutCode)
    (hroom : (s.passage t).isSome ∨ s.hand.length < 8) : (s.putPassage t d c).HandHolds := by
  unfold State.putPassage
  split
  · refine h.mapped fun p => ?_
    split <;> rfl
  · rename_i hnone
    refine ⟨by simpa [hnone] using hroom, ?_⟩
    rw [List.map_append, List.map_singleton]
    refine List.nodup_append.mpr ⟨h.oneEach, List.nodup_singleton _, ?_⟩
    intro a ha b hb hab
    obtain ⟨p, hp, rfl⟩ := List.mem_map.mp ha
    obtain rfl := List.mem_singleton.mp hb
    exact hnone (List.find?_isSome.mpr ⟨p, hp, by simpa using hab⟩)

theorem handHolds_changes : Changes State.HandHolds where
  station _ _ h := h.of_eq rfl
  group _ _ h := h.of_eq rfl
  without _ h := h.of_eq rfl
  point _ _ h := h.of_eq rfl
  lane _ _ h := h.of_eq rfl
  zone _ _ h := h.of_eq rfl
  blower _ _ h := h.of_eq rfl
  channel _ _ h := h.of_eq rfl
  pair _ _ h := h.of_eq rfl
  storm _ h := h.of_eq rfl
  pool _ h := h.of_eq rfl
  flc _ _ h := h.of_eq rfl
  flags _ _ h := h.of_eq rfl
  notice n h := h.of_eq (by rw [offerNotice_eq])
  express e h := h.of_eq (by rw [offerExpress_eq])
  forward e h := h.of_eq (by rw [offerForward_eq])
  raise code src v h := h.of_eq (raiseAlarm_only _ code src v).hand
  clear code src h := h.of_eq (clearAlarm_only _ code src).hand
  ack code src h := h.of_eq (ackAlarm_only _ code src).hand
  passage t h := ⟨(List.length_filter_le _ _).trans h.passages, h.oneEach.sublist (List.filter_sublist.map _)⟩
  put t d c hroom h := h.putPassage t d c hroom
  demand f hf h := h.mapped hf

theorem handHolds_shell : Shell State.HandHolds where
  toEffects := handHolds_changes.toEffects
  port _ _ _ _ _ h := h.of_eq rfl
  save _ h := h.of_eq rfl
  load _ _ := ⟨Nat.zero_le _, List.nodup_nil⟩
  cold _ _ h := h.of_eq rfl
  warm h := h.of_eq rfl

/-! ### Banks and the settings image -/

/-- The banks, the image and the snapshot of a save have their sizes. -/
structure Stored (s : State) : Prop where
  banks : s.settings.sized
  image : s.port.image.sized
  snapshot : ∀ x, s.port.save = some x → x.snapshot.sized

theorem settings_sized_iff (s : State) : s.settings.sized ↔
    s.stations.length = 48 ∧ s.groups.length = 8 ∧ s.points.length = 128 ∧ s.lanes.length = 6 ∧ s.zones.length = 24
      ∧ s.blowers.length = 6 ∧ s.channels.length = 4 ∧ s.pairs.length = 2 := by
  simp [Settings.sized, State.settings]

/-- The sizes follow those of the banks, the image and the save alone. -/
theorem Stored.of_eq {t : State} (h : Stored s) (h1 : t.stations.length = s.stations.length)
    (h2 : t.groups.length = s.groups.length) (h3 : t.points.length = s.points.length)
    (h4 : t.lanes.length = s.lanes.length) (h5 : t.zones.length = s.zones.length)
    (h6 : t.blowers.length = s.blowers.length) (h7 : t.channels.length = s.channels.length)
    (h8 : t.pairs.length = s.pairs.length) (hi : t.port.image = s.port.image) (hs : t.port.save = s.port.save) :
    Stored t := by
  refine ⟨(settings_sized_iff t).mpr ?_, hi ▸ h.image, hs ▸ h.snapshot⟩
  rw [h1, h2, h3, h4, h5, h6, h7, h8]
  exact (settings_sized_iff s).mp h.banks

theorem Stored.alarmsOnly {t : State} (h : Stored s) (ht : AlarmsOnly s t) : Stored t := by
  refine h.of_eq ?_ ?_ ?_ ?_ ?_ ?_ ?_ ?_ ?_ ?_ <;> rw [ht.2]

theorem stored_changes : Changes Stored where
  station i f h := h.of_eq (by simp) rfl rfl rfl rfl rfl rfl rfl rfl rfl
  group g f h := h.of_eq rfl (by simp) rfl rfl rfl rfl rfl rfl rfl rfl
  without st h := h.of_eq rfl (by simp) rfl rfl rfl rfl rfl rfl rfl rfl
  point p f h := h.of_eq rfl rfl (by simp) rfl rfl rfl rfl rfl rfl rfl
  lane l f h := h.of_eq rfl rfl rfl (by simp) rfl rfl rfl rfl rfl rfl
  zone z f h := h.of_eq rfl rfl rfl rfl (by simp) rfl rfl rfl rfl rfl
  blower b f h := h.of_eq rfl rfl rfl rfl rfl (by simp) rfl rfl rfl rfl
  channel c f h := h.of_eq rfl rfl rfl rfl rfl rfl (by simp) rfl rfl rfl
  pair k f h := h.of_eq rfl rfl rfl rfl rfl rfl rfl (by simp) rfl rfl
  storm _ h := h.of_eq rfl rfl rfl rfl rfl rfl rfl rfl rfl rfl
  pool _ h := h.of_eq rfl rfl rfl rfl rfl rfl rfl rfl rfl rfl
  flc _ _ h := h.of_eq rfl rfl rfl rfl rfl rfl rfl rfl rfl rfl
  flags _ _ h := h.of_eq rfl rfl rfl rfl rfl rfl rfl rfl rfl rfl
  notice n h := by rw [offerNotice_eq]; exact h.of_eq rfl rfl rfl rfl rfl rfl rfl rfl rfl rfl
  express e h := by rw [offerExpress_eq]; exact h.of_eq rfl rfl rfl rfl rfl rfl rfl rfl rfl rfl
  forward e h := by rw [offerForward_eq]; exact h.of_eq rfl rfl rfl rfl rfl rfl rfl rfl rfl rfl
  raise code src v h := h.alarmsOnly (raiseAlarm_only _ code src v)
  clear code src h := h.alarmsOnly (clearAlarm_only _ code src)
  ack code src h := h.alarmsOnly (ackAlarm_only _ code src)
  passage _ h := h.of_eq rfl rfl rfl rfl rfl rfl rfl rfl rfl rfl
  put t d c _ h := by
    unfold State.putPassage
    split <;> exact h.of_eq rfl rfl rfl rfl rfl rfl rfl rfl rfl rfl
  demand _ _ h := h.of_eq rfl rfl rfl rfl rfl rfl rfl rfl rfl rfl

theorem stored_shell : Shell Stored where
  toEffects := stored_changes.toEffects
  port f _ _ hi hs h := by
    refine ⟨h.banks, ?_, fun x hx => ?_⟩
    · rcases hi with hi | ⟨x, hx, hi⟩
      · exact hi ▸ h.image
      · exact hi ▸ h.snapshot x hx
    · rcases hs with hs | hs
      · exact h.snapshot x (hs ▸ hx)
      · simp [hs] at hx
  save hdr h := ⟨h.banks, h.image, fun x hx => by cases hx; exact h.banks⟩
  load := fun {s} kind h => by
    have image : (if s.port.imageOk then s.port.image else Settings.blank).sized := by
      split
      · exact h.image
      · simp [Settings.sized, Settings.blank]
    obtain ⟨h1, h2, h3, h4, h5, h6, h7, h8⟩ := image
    refine ⟨(settings_sized_iff _).mpr ?_, h.image, fun x hx => by cases hx⟩
    unfold State.load startZones startChannels
    simp [h1, h2, h3, h4, h6, h8]
  cold _ _ h := h.of_eq rfl rfl rfl rfl rfl rfl rfl rfl rfl rfl
  warm h := h.of_eq rfl rfl rfl rfl rfl rfl rfl rfl rfl rfl

/-! ### Request queue and reply list -/

/-- The port's fields that no handling touches: all but the queues every block offers to. -/
def Port.own (p : Port) : Port := { p with notices := [], noticesLost := 0, forward := [] }

/-- A handling leaves the port's own fields alone. -/
theorem ownPort_changes (q : Port) : Changes (fun s => s.port.own = q) where
  station _ _ h := h
  group _ _ h := h
  without _ h := h
  point _ _ h := h
  lane _ _ h := h
  zone _ _ h := h
  blower _ _ h := h
  channel _ _ h := h
  pair _ _ h := h
  storm _ h := h
  pool _ h := h
  flc _ _ h := h
  flags _ _ h := h
  notice n h := by rw [offerNotice_eq]; exact h
  express e h := by rw [offerExpress_eq]; exact h
  forward e h := by rw [offerForward_eq]; exact h
  raise code src v h := by rw [(raiseAlarm_only _ code src v).port]; exact h
  clear code src h := by rw [(clearAlarm_only _ code src).port]; exact h
  ack code src h := by rw [(ackAlarm_only _ code src).port]; exact h
  passage _ h := h
  put t d c _ h := by unfold State.putPassage; split <;> exact h
  demand _ _ h := h

theorem ownPort_effects (q : Port) : Effects (fun s => s.port.own = q) := (ownPort_changes q).toEffects

theorem Port.requests_of_own {p q : Port} (h : q.own = p.own) : q.requests = p.requests := by
  have := congrArg Port.requests h
  exact this

theorem Port.replies_of_own {p q : Port} (h : q.own = p.own) : q.replies = p.replies := by
  have := congrArg Port.replies h
  exact this

theorem Port.save_of_own {p q : Port} (h : q.own = p.own) : q.save = p.save := by
  have := congrArg Port.save h
  exact this

theorem Port.Holds.of_own {p q : Port} (h : p.Holds) (hq : q.own = p.own) : q.Holds := by
  have hr : q.requests = p.requests := Port.requests_of_own hq
  have hl : q.replies = p.replies := Port.replies_of_own hq
  have hs : q.save = p.save := Port.save_of_own hq
  exact ⟨hr ▸ h.requests, hl ▸ h.replies, by rw [hl, hs]; exact h.saveFinds⟩

/-- A handling keeps the bounds of the request queue and the reply list. -/
theorem Port.Holds.effects {t : State} (h : s.port.Holds) (ht : t.port.own = s.port.own) : t.port.Holds := h.of_own ht

theorem transmit_own (s : State) : s.transmit.port.replies.length ≤ s.port.replies.length
    ∧ s.transmit.port.requests = s.port.requests ∧ s.transmit.port.save = s.port.save
    ∧ s.transmit.port.restartTaken = s.port.restartTaken := by
  unfold State.transmit
  split
  · exact ⟨le_refl _, rfl, rfl, rfl⟩
  · simp only [State.modPort_port]
    split
    · rename_i hr; exact ⟨by simp [hr], rfl, rfl, rfl⟩
    · exact ⟨le_refl _, rfl, rfl, rfl⟩
    · exact ⟨le_refl _, rfl, rfl, rfl⟩
    · exact ⟨le_refl _, rfl, rfl, rfl⟩

theorem transmit_holds (h : s.port.Holds) : s.transmit.port.Holds := by
  obtain ⟨hr, hq, hs, _⟩ := transmit_own s
  exact ⟨hq ▸ h.requests, hr.trans h.replies, fun hx => hr.trans (h.saveFinds (hs ▸ hx))⟩

/-- The end of a handling, with its reply where one is formed, from a state with room for it. -/
theorem answered_holds {u : State} (hq : u.port.requests.length ≤ 4) (hr : u.port.replies.length ≤ 7)
    (hs : u.port.save.isSome → u.port.replies.length ≤ 6) (r : Reply) :
    (u.lineArbiter.updateLines.addReply r).transmit.port.Holds := by
  have own : u.lineArbiter.updateLines.port.own = u.port.own :=
    (ownPort_effects _).flags _ rfl ((ownPort_effects _).lineArbiter rfl)
  have hq' : u.lineArbiter.updateLines.port.requests = u.port.requests := Port.requests_of_own own
  have hr' : u.lineArbiter.updateLines.port.replies = u.port.replies := Port.replies_of_own own
  have hs' : u.lineArbiter.updateLines.port.save = u.port.save := Port.save_of_own own
  refine transmit_holds ⟨?_, ?_, ?_⟩
  · simpa [State.addReply, hq'] using hq
  · simpa [State.addReply, hr'] using Nat.lt_succ_of_le hr
  · simpa [State.addReply, hr', hs'] using fun hx => Nat.lt_succ_of_le (hs hx)

/-- The handling of a request keeps the request queue and the reply list. -/
theorem handle_port (s : State) (hdr : Hdr) (r : Req) :
    (handle hdr r s).1.port.requests = s.port.requests ∧ (handle hdr r s).1.port.replies = s.port.replies := by
  by_cases hs : r = .save
  · subst hs
    change (handleSave hdr s).1.port.requests = _ ∧ (handleSave hdr s).1.port.replies = _
    unfold handleSave
    split <;> exact ⟨rfl, rfl⟩
  · by_cases hr : r = .restart
    · subst hr
      change (handleRestart s).state.port.requests = _ ∧ (handleRestart s).state.port.replies = _
      unfold handleRestart
      split <;> exact ⟨rfl, rfl⟩
    · have own := (ownPort_effects s.port.own).handle (s := s) rfl hdr hs hr
      exact ⟨Port.requests_of_own own, Port.replies_of_own own⟩

/-- Taking a request leaves the request queue as it is. -/
theorem take_requests (s : State) (r : Request) : (s.take r).port.requests = s.port.requests := by
  obtain ⟨hq, _⟩ := handle_port (s.modPort fun p => { p with address := r.hdr.src }) r.hdr r.body
  have own : ∀ t : State, t.lineArbiter.updateLines.port.own = t.port.own := fun t =>
    (ownPort_effects _).flags _ rfl ((ownPort_effects _).lineArbiter rfl)
  unfold State.take
  dsimp only
  split
  · rename_i t ht
    rw [ht] at hq
    exact (transmit_own _).2.1.trans ((Port.requests_of_own (own t)).trans hq)
  · rename_i t status report ht
    rw [ht] at hq
    exact (transmit_own _).2.1.trans ((Port.requests_of_own (own t)).trans hq)

theorem take_holds (h : s.port.Holds) (hroom : s.port.replies.length < 7) (r : Request) : (s.take r).port.Holds := by
  obtain ⟨hq, hr⟩ := handle_port (s.modPort fun p => { p with address := r.hdr.src }) r.hdr r.body
  unfold State.take
  dsimp only
  split
  · rename_i t ht
    rw [ht] at hq hr
    change t.port.requests = s.port.requests at hq
    change t.port.replies = s.port.replies at hr
    have own : t.lineArbiter.updateLines.port.own = t.port.own :=
      (ownPort_effects _).flags _ rfl ((ownPort_effects _).lineArbiter rfl)
    have ht : t.port.Holds :=
      ⟨hq ▸ h.requests, hr ▸ h.replies, fun _ => hr ▸ hroom.le⟩
    exact transmit_holds (ht.effects own)
  · rename_i t status report ht
    rw [ht] at hq hr
    change t.port.requests = s.port.requests at hq
    change t.port.replies = s.port.replies at hr
    exact answered_holds (hq ▸ h.requests) (hr ▸ hroom.le) (fun _ => hr ▸ Nat.le_of_lt_succ hroom) _

theorem serve_holds (n : Nat) (h : s.port.Holds) : (s.serve n).port.Holds := by
  induction n generalizing s with
  | zero => exact h
  | succ n ih =>
    unfold State.serve
    split
    · exact h
    · rename_i r rest hq
      split
      · rename_i hroom
        have hroom : s.port.replies.length < 7 := by simpa [State.mayTake] using (Bool.and_eq_true_iff.mp hroom).2
        have h4 : rest.length ≤ 4 := by
          have := h.requests
          simp only [hq, List.length_cons] at this
          omega
        exact ih (take_holds (s := s.modPort fun p => { p with requests := rest }) ⟨h4, h.replies, h.saveFinds⟩ hroom _)
      · exact h

theorem offerRequest_holds (h : s.port.Holds) (r : Request) : (s.offerRequest r).port.Holds := by
  unfold State.offerRequest
  split
  · rename_i hq
    exact ⟨by simpa using hq, h.replies, h.saveFinds⟩
  · split
    · rename_i hr
      refine ⟨h.requests, ?_, fun _ => ?_⟩ <;> simp [State.addReply] <;> omega
    · exact ⟨h.requests, h.replies, h.saveFinds⟩

theorem receiveRequest_holds (h : s.port.Holds) (r : Request) : (s.receiveRequest r).port.Holds :=
  transmit_holds (serve_holds _ (offerRequest_holds h r))

theorem saveCompletes_holds (h : s.port.Holds) (ok : Bool) : (s.saveCompletes ok).port.Holds := by
  unfold State.saveCompletes
  split
  · exact h
  · rename_i x hx
    have room := h.saveFinds (by simp [hx])
    dsimp only
    have own := (ownPort_effects _).toBlocks.setAlarm (s := s.modPort fun p =>
      { p with image := x.snapshot, imageOk := ok, save := none }) rfl .settingsInvalid .works (!ok) none
    have hq := Port.requests_of_own own
    have hr := Port.replies_of_own own
    have hs := Port.save_of_own own
    refine answered_holds ?_ ?_ ?_ _
    · exact hq ▸ h.requests
    · exact hr ▸ room
    · intro hy
      rw [hs] at hy
      cases hy

theorem finish_holds (h : s.port.Holds) : s.finish.port.Holds :=
  transmit_holds (h.effects ((ownPort_effects _).flags _ rfl ((ownPort_effects _).lineArbiter rfl)))

/-- A start leaves the port with nothing but what the start itself offers. -/
theorem startUp_holds (s : State) (kind : StartKind) : (s.startUp kind).port.Holds := by
  have hE := ownPort_effects (s.load kind).port.own
  have hB := hE.toBlocks
  have loaded : (s.load kind).port.Holds := ⟨Nat.zero_le _, Nat.zero_le _, fun _ => Nat.zero_le _⟩
  refine finish_holds (loaded.effects (hB.header ?_))
  refine each_keeps (P := fun t => t.port.own = (s.load kind).port.own) 6 (fun b _ h => hE.startBlower h b) ?_
  refine each_keeps (P := fun t => t.port.own = (s.load kind).port.own) 4 (fun c _ h => hE.startChannelAlarms h c) ?_
  refine hE.startStorm ?_
  refine each_keeps (P := fun t => t.port.own = (s.load kind).port.own) 24 (fun z _ h => hE.startZone h z) ?_
  refine each_keeps (P := fun t => t.port.own = (s.load kind).port.own) 6 (fun l _ h => hE.startLane h l) ?_
  refine each_keeps (P := fun t => t.port.own = (s.load kind).port.own) 128 (fun p _ h => hE.startPoint h p) ?_
  exact hB.setAlarm rfl _ _ _ _

theorem frameSent_holds (h : s.port.Holds) : s.frameSent.port.Holds := by
  unfold State.frameSent
  split
  · exact h
  · split
    · exact startUp_holds _ _
    · exact serve_holds _ (transmit_holds ⟨h.requests, h.replies, h.saveFinds⟩)

end Sys2Proof.Machine
end

