-- ==== Sys2Proof/Laws/Plant.lean ====
section
/-! SUPPORT. What the events of the field line and of the timers do, said once (`Plant`), and that none of them changes the
configuration. -/

namespace Sys2Proof.Machine

open Sys2Proof

/-- Kept by every change an event of the field line or of a timer makes. -/
structure Plant (P : State → Prop) : Prop extends PointBlocks P where
  station : ∀ {s : State} (i : Nat) (f : Station → Station), (∀ x, (f x).cfg = x.cfg) → P s → P (s.modStation i f)
  flc : ∀ {s : State} (f : Flc → Flc), (f s.flc).line = s.flc.line → P s → P (s.modFlc f)
  lines : ∀ {s : State}, P s → P s.updateLines
  send : ∀ {s : State}, P s → P s.transmit
  checkError : ∀ {s : State}, P s → P s.checkError

variable {P : State → Prop} {s : State}

theorem answered_cfg (x : Station) (a : Answer) : (x.answered a).cfg = x.cfg := by
  unfold Station.answered Station.judged
  split <;> rfl

theorem Plant.turnGood (hP : Plant P) (h : P s) (st : Nat) (a : Answer) : P (State.turnGood s st a) := by
  unfold State.turnGood
  dsimp only
  repeat' first
    | with_reducible assumption
    | with_reducible refine hP.station _ _ (fun _ => ?_) ?_
    | with_reducible apply hP.clear
    | with_reducible apply hP.localAlarm
    | with_reducible apply hP.stationEvents
    | with_reducible apply hP.deliverReadings
    | with_reducible apply hP.adoptAll
    | with_reducible apply ite_keeps
    | exact answered_cfg _ _

theorem Plant.enterLost (hP : Plant P) (h : P s) (st : Nat) : P (State.enterLost s st) := by
  unfold State.enterLost
  dsimp only
  repeat' first
    | with_reducible assumption
    | with_reducible refine hP.station _ _ (fun _ => ?_) ?_
    | with_reducible apply hP.raise
    | with_reducible apply hP.pointStale
    | with_reducible apply hP.lossEvents
    | with_reducible refine foldl_keeps (fun _ _ _ => ?_) _ ?_
    | with_reducible apply ite_keeps
    | rfl

theorem Plant.turnFailed (hP : Plant P) (h : P s) (st : Nat) : P (State.turnFailed s st) := by
  unfold State.turnFailed
  dsimp only
  repeat' first
    | with_reducible assumption
    | with_reducible refine hP.station _ _ (fun _ => ?_) ?_
    | with_reducible apply hP.enterLost
    | with_reducible apply ite_keeps
    | rfl

theorem Plant.formatError (hP : Plant P) (h : P s) (st : Nat) : P (State.formatError s st) := by
  unfold State.formatError
  repeat' first
    | with_reducible assumption
    | with_reducible refine hP.station _ _ (fun _ => ?_) ?_
    | rfl

theorem Plant.settlePass (hP : Plant P) (h : P s)  : P (State.settlePass s) := by
  unfold State.settlePass
  dsimp only
  repeat' first
    | with_reducible assumption
    | with_reducible refine hP.flc _ ?_ ?_
    | with_reducible apply hP.clear
    | with_reducible apply ite_keeps
    | rfl
    | split

theorem Plant.startRound (hP : Plant P) (h : P s)  : P (State.startRound s) := by
  unfold State.startRound
  dsimp only
  repeat' first
    | with_reducible assumption
    | with_reducible refine hP.flc _ ?_ ?_
    | rfl

theorem Plant.beginTurn (hP : Plant P) (h : P s) (fromRoster : Bool) (t : Target) (payload : Option Drive) : P (State.beginTurn s fromRoster t payload) := by
  unfold State.beginTurn
  dsimp only
  repeat' first
    | with_reducible assumption
    | with_reducible refine hP.flc _ ?_ ?_
    | with_reducible apply ite_keeps
    | rfl
    | split

theorem Plant.rosterTurn (hP : Plant P) (h : P s)  : P (State.rosterTurn s) := by
  unfold State.rosterTurn
  dsimp only
  repeat' first
    | with_reducible assumption
    | with_reducible refine hP.flc _ ?_ ?_
    | with_reducible apply hP.beginTurn
    | rfl
    | split

theorem Plant.expressTurn (hP : Plant P) (h : P s) (e : ExpressEntry) (rest : List ExpressEntry) : P (State.expressTurn s e rest) := by
  unfold State.expressTurn
  repeat' first
    | with_reducible assumption
    | with_reducible refine hP.flc _ ?_ ?_
    | with_reducible apply hP.beginTurn
    | rfl

theorem Plant.idleExpress (hP : Plant P) (h : P s)  : P (State.idleExpress s) := by
  unfold State.idleExpress
  repeat' first
    | with_reducible assumption
    | with_reducible refine hP.flc _ ?_ ?_
    | with_reducible apply hP.expressTurn
    | rfl
    | split

theorem Plant.gapExpress (hP : Plant P) (h : P s)  : P (State.gapExpress s) := by
  unfold State.gapExpress
  repeat' first
    | with_reducible assumption
    | with_reducible refine hP.flc _ ?_ ?_
    | with_reducible apply hP.expressTurn
    | with_reducible apply ite_keeps
    | rfl
    | split

theorem Plant.nextTurn (hP : Plant P) (h : P s) : P s.nextTurn := by
  unfold State.nextTurn
  dsimp only
  repeat' first
    | with_reducible assumption
    | with_reducible apply hP.settlePass
    | with_reducible apply hP.startRound
    | with_reducible apply hP.idleExpress
    | with_reducible apply hP.rosterTurn
    | with_reducible apply ite_keeps

theorem Plant.lineArbiter (hP : Plant P) (h : P s) : P s.lineArbiter :=
  have settled := hP.settlePass h
  ite_keeps h (hP.nextTurn (ite_keeps (hP.gapExpress settled) settled))

theorem Plant.roundExpiry (hP : Plant P) (h : P s)  : P (State.roundExpiry s) := by
  unfold State.roundExpiry
  dsimp only
  repeat' first
    | with_reducible assumption
    | with_reducible refine hP.flc _ ?_ ?_
    | with_reducible apply hP.raise
    | with_reducible apply ite_keeps
    | rfl

theorem Plant.closeTurn (hP : Plant P) (h : P s) (t : Turn) : P (State.closeTurn s t) := by
  unfold State.closeTurn
  repeat' first
    | with_reducible assumption
    | with_reducible refine hP.flc _ ?_ ?_
    | rfl

theorem Plant.pollSent (hP : Plant P) (h : P s)  : P (State.pollSent s) := by
  unfold State.pollSent
  repeat' first
    | with_reducible assumption
    | with_reducible refine hP.flc _ ?_ ?_
    | rfl

theorem Plant.windowExpiry (hP : Plant P) (h : P s)  : P (State.windowExpiry s) := by
  unfold State.windowExpiry
  repeat' first
    | with_reducible assumption
    | with_reducible refine hP.flc _ ?_ ?_
    | with_reducible apply hP.closeTurn
    | with_reducible apply hP.turnFailed
    | with_reducible apply ite_keeps
    | rfl
    | split

theorem Plant.badFieldFrame (hP : Plant P) (h : P s)  : P (State.badFieldFrame s) := by
  unfold State.badFieldFrame
  repeat' first
    | with_reducible assumption
    | with_reducible refine hP.flc _ ?_ ?_
    | with_reducible apply hP.formatError
    | rfl
    | split

theorem Plant.fieldFrame (hP : Plant P) (h : P s) (chars : List Byte) : P (State.fieldFrame s chars) := by
  unfold State.fieldFrame
  repeat' first
    | with_reducible assumption
    | with_reducible apply hP.badFieldFrame
    | with_reducible apply hP.closeTurn
    | with_reducible apply hP.turnGood
    | split

theorem Plant.finish (hP : Plant P) (h : P s) : P s.finish := hP.send (hP.lines (hP.lineArbiter h))

theorem Plant.onlyIf (hP : Plant P) (h : P s) {e : State} (he : P e) (b : Bool) :
    ∃ t, s.onlyIf b e = .next t ∧ P t := ⟨_, rfl, ite_keeps (hP.finish he) h⟩

/-- An event of the field line or of a timer keeps what `Plant` keeps. -/
theorem Plant.exec (hP : Plant P) (h : P s) {c : Instr} (hc : c.isPlantEvent = true) :
    ∃ t, exec c s = .next t ∧ P t := by
  cases c with
  | framingIdleTimeout link =>
    cases link with
    | field => exact ⟨_, rfl, hP.badFieldFrame h⟩
    | plant => exact ⟨_, rfl, hP.checkError h⟩
  | pollSent => exact ⟨_, rfl, hP.pollSent h⟩
  | fieldFrameReceived chars => exact ⟨_, rfl, hP.finish (hP.fieldFrame h chars)⟩
  | answerWindowExpiry => exact hP.onlyIf h (hP.windowExpiry h) _
  | roundTimerExpiry => exact hP.onlyIf h (hP.roundExpiry h) _
  | staleTimerExpiry p => exact hP.onlyIf h (hP.staleExpiry h p) _
  | trimTimerExpiry z => exact hP.onlyIf h (hP.trimExpiry h z) _
  | startGraceExpiry l => exact hP.onlyIf h (hP.graceExpiry h l) _
  | rampTimeElapsed b => exact hP.onlyIf h (hP.judgeBlower h b) _
  | rampTimerExpiry b => exact hP.onlyIf h (hP.startFails h b) _
  | runDownEnd b => exact hP.onlyIf h (hP.runDownEnds h b) _
  | allocationTimerExpiry => exact hP.onlyIf h (hP.allocationExpiry h) _
  | pauseLimitExpiry c => exact hP.onlyIf h (hP.pauseExpiry h c) _
  | entryConfirmExpiry => exact hP.onlyIf h (hP.entryExpires h) _
  | holdTimerExpiry => exact hP.onlyIf h (hP.holdExpires h) _
  | exitConfirmExpiry => exact hP.onlyIf h (hP.exitExpires h) _
  | deadlineExpiry t => exact hP.onlyIf h (hP.endPassage h t false) _
  | escalationExpiry code src => exact hP.onlyIf h h _
  | _ => exact absurd hc (by simp [Instr.isPlantEvent])

/-! ### The configuration -/

/-- Two states with the same configuration, bank by bank. -/
theorem config_congr {s t : State} {c : Settings} (h : s.config = c)
    (h1 : t.stations.map Station.cfg = s.stations.map Station.cfg) (h2 : t.groups = s.groups)
    (h3 : t.points.map Point.cfg = s.points.map Point.cfg) (h4 : t.flc.line = s.flc.line)
    (h5 : t.lanes.map (fun (x : Lane) => (x.inService, x.cfg)) = s.lanes.map fun (x : Lane) => (x.inService, x.cfg))
    (h6 : t.zones.map Zone.cfg = s.zones.map Zone.cfg)
    (h7 : t.blowers.map (fun (x : Blower) => (x.lockout, x.cfg)) = s.blowers.map fun (x : Blower) => (x.lockout, x.cfg))
    (h8 : t.pool.cfg = s.pool.cfg) (h9 : t.pool.dutyOrder = s.pool.dutyOrder)
    (h10 : t.channels.map Channel.cfg = s.channels.map Channel.cfg)
    (h11 : t.pairs.map (fun (p : Pair) => (⟨p.joined, .first⟩ : Pair)) = s.pairs.map fun (p : Pair) => ⟨p.joined, .first⟩)
    (h12 : t.storm.cfg = s.storm.cfg) (h13 : t.storm.force = s.storm.force) (h14 : t.alarms.lineMap = s.alarms.lineMap)
    (h15 : t.alarms.codeClasses = s.alarms.codeClasses) (h16 : t.alarms.escalation = s.alarms.escalation) :
    t.config = c := by
  rw [← h]
  unfold State.config State.settings
  simp only [Settings.mk.injEq]
  exact ⟨h1, h2, h3, trivial, h4, h5, h6, h7, h8, h9, h10, h11, h12, h13, h14, h15, h16⟩

theorem AlarmsOnly.config {s t : State} (h : AlarmsOnly s t) : t.config = s.config := by
  have ha := h.1
  unfold Alarms.Moved at ha
  have h2 := h.2
  refine config_congr rfl ?_ ?_ ?_ ?_ ?_ ?_ ?_ ?_ ?_ ?_ ?_ ?_ ?_ ?_ ?_ ?_
  all_goals first
    | rw [ha]
    | rw [h2]

theorem transmit_eq (s : State) : s.transmit = { s with port := s.transmit.port } := by
  unfold State.transmit State.modPort
  split <;> rfl

theorem channelCfgs_keeps {s : State} {c : Nat} {f : Channel → Channel} (hf : (s.channel c).Keeps (f (s.channel c))) :
    (s.modChannel c f).channels.map Channel.cfg = s.channels.map Channel.cfg := by
  refine List.ext_getElem? fun i => ?_
  simp only [State.modChannel, List.getElem?_map, List.getElem?_modify]
  by_cases hi : c = i
  · subst hi
    cases hx : s.channels[c]? with
    | none => simp
    | some x =>
      have hc : s.channel c = x := by simp [State.channel, List.getD_eq_getElem?_getD, hx]
      simpa using hc ▸ hf.1
  · cases s.channels[i]? <;> simp [hi]

theorem config_anyChannel (conf : Settings) : AnyChannel (fun s => s.config = conf) where
  channel c f hf h := config_congr h rfl rfl rfl rfl rfl rfl rfl rfl rfl (map_modify_of_fix _ _ hf _ _) rfl rfl rfl rfl rfl
    rfl
  pair k f hf h := config_congr h rfl rfl rfl rfl rfl rfl rfl rfl rfl rfl (map_modify_of_fix _ _ (fun x => by rw [hf x]) _ _)
    rfl rfl rfl rfl rfl
  notice n h := by rw [offerNotice_eq]; exact h
  raise code src v h := (raiseAlarm_only _ code src v).config.trans h
  clear code src h := (clearAlarm_only _ code src).config.trans h

/-- No event of the field line or of a timer changes the configuration. -/
theorem config_plant (conf : Settings) : Plant (fun s => s.config = conf) where
  zone z f hf h := config_congr h rfl rfl rfl rfl rfl (map_modify_of_fix _ _ hf _ _) rfl rfl rfl rfl rfl rfl rfl rfl rfl
    rfl
  lane l f hf h := config_congr h rfl rfl rfl rfl (map_modify_of_fix _ _ (fun x => by rw [(hf x).1, (hf x).2]) _ _) rfl rfl
    rfl rfl rfl rfl rfl rfl rfl rfl rfl
  blower b f hf h := config_congr h rfl rfl rfl rfl rfl rfl (map_modify_of_fix _ _ (fun x => by rw [(hf x).1, (hf x).2.1]) _ _)
    rfl rfl rfl rfl rfl rfl rfl rfl rfl
  start := fun {s} b speed _ h => config_congr h rfl rfl rfl rfl rfl rfl
    (map_modify_of_fix _ (fun x : Blower => x.entered s.uptime .starting none speed) (fun _ => rfl) _ _) rfl rfl rfl rfl rfl rfl rfl rfl rfl
  channel c f hf h := config_congr h rfl rfl rfl rfl rfl rfl rfl rfl rfl (channelCfgs_keeps hf) rfl rfl rfl rfl rfl rfl
  startChannel c _ h := (config_anyChannel conf).startChannel h c
  meter c v h := (config_anyChannel conf).meter h c v
  pair k f hf h := (config_anyChannel conf).pair k f hf h
  storm f hf h := config_congr h rfl rfl rfl rfl rfl rfl rfl rfl rfl rfl rfl (hf _).1 (hf _).2 rfl rfl rfl
  pool f hf h := config_congr h rfl rfl rfl rfl rfl rfl rfl (hf _).1 (hf _).2 rfl rfl rfl rfl rfl rfl rfl
  stepped p h := config_congr h rfl rfl (map_modify_of_fix Point.cfg (fun x => { x with fresh := false }) (fun _ => rfl) _ _) rfl rfl rfl rfl rfl rfl rfl rfl
    rfl rfl rfl rfl rfl
  point p f hf h := config_congr h rfl rfl (map_modify_of_fix _ _ hf _ _) rfl rfl rfl rfl rfl rfl rfl rfl rfl rfl rfl rfl
    rfl
  station i f hf h := config_congr h (map_modify_of_fix _ _ hf _ _) rfl rfl rfl rfl rfl rfl rfl rfl rfl rfl rfl rfl rfl rfl
    rfl
  flc f hf h := config_congr h rfl rfl rfl hf rfl rfl rfl rfl rfl rfl rfl rfl rfl rfl rfl rfl
  notice n h := by rw [offerNotice_eq]; exact h
  express e h := by rw [offerExpress_eq]; exact h
  forward e h := by rw [offerForward_eq]; exact h
  raise code src v h := (raiseAlarm_only _ code src v).config.trans h
  clear code src h := (clearAlarm_only _ code src).config.trans h
  passage _ h := h
  lines h := h
  send h := by rw [transmit_eq]; exact h
  checkError h := h

end Sys2Proof.Machine
end

