-- ==== Sys2Proof/Laws/Answers.lean ====
section
/-! SUPPORT. What a request does that the port takes the moment it arrives: its handling, then its answer. What the answer, and
the end of any handling, leave alone. -/

namespace Sys2Proof.Machine

open Sys2Proof

variable {s : State}

/-! ### The transmitter -/

/-- A transmitter that has been served has a frame, or nothing to send. -/
theorem transmit_again (s : State) : s.transmit.transmit = s.transmit := by
  have key : ∀ t : State, (t.port.tx.isSome ∨ (t.port.replies = [] ∧ t.port.notices = [] ∧ t.port.forward = [])) →
      t.transmit = t := by
    intro t ht
    unfold State.transmit
    split
    · rfl
    · rename_i hn
      obtain ⟨h1, h2, h3⟩ := ht.resolve_left (by simpa using hn)
      unfold State.modPort
      dsimp only
      rw [h1, h2, h3]
  apply key
  unfold State.transmit
  split
  · rename_i h; exact .inl h
  · simp only [State.modPort_port]
    split <;> first | exact .inl rfl | exact .inr ⟨‹_›, ‹_›, ‹_›⟩

/-- The reply added last stands where `replied` says. -/
theorem transmit_replied {u : State} (ht : u.port.tx = s.port.tx) (hr : u.port.replies = s.port.replies) (r : Reply) :
    s.replied (u.addReply r).transmit r := by
  unfold State.replied State.transmit State.addReply
  simp only [State.modPort_port, ht, hr]
  cases hx : s.port.tx with
  | some f => simp [hx, ht, hr]
  | none => cases hl : s.port.replies <;> simp [hx, ht, hr, hl]

/-! ### The end of a handling -/

/-- A property of everything but the field line controller, the alarms and the port. -/
theorem lineArbiter_eq (s : State) :
    s.lineArbiter = { s with
      flc := s.lineArbiter.flc, alarms := s.lineArbiter.alarms, port := s.lineArbiter.port } := by
  have alarm : ∀ (t : State) (code : AlarmCode) (src : Source), t.clearAlarm code src = { t with
      flc := (t.clearAlarm code src).flc, alarms := (t.clearAlarm code src).alarms,
      port := (t.clearAlarm code src).port } := by
    intro t code src
    have h := (clearAlarm_only t code src).2
    rw [h]
  let P : State → Prop := fun t => t = { s with flc := t.flc, alarms := t.alarms, port := t.port }
  have flc : ∀ {t : State} (f : Flc → Flc), P t → P (t.modFlc f) := by
    intro t f h
    change _ = _
    have h' : t = _ := h
    rw [h']
    rfl
  have clear : ∀ {t : State} (code : AlarmCode) (src : Source), P t → P (t.clearAlarm code src) := by
    intro t code src h
    change _ = _
    have h' : t = _ := h
    rw [alarm t code src, h']
  have settle : ∀ {t : State}, P t → P t.settlePass := by
    intro t h
    unfold State.settlePass
    split
    · exact h
    · split
      · exact h
      · dsimp only
        split
        · exact clear _ _ (flc _ h)
        · exact flc _ h
  have turn : ∀ {t : State} (b : Bool) (g : Target) (d : Option Drive), P t → P (t.beginTurn b g d) := by
    intro t b g d h
    unfold State.beginTurn
    split
    · exact h
    · exact flc _ h
  have roster : ∀ {t : State}, P t → P t.rosterTurn := by
    intro t h
    unfold State.rosterTurn
    split
    · exact h
    · exact turn _ _ _ (flc _ h)
  have express : ∀ {t : State} (e : ExpressEntry) (l : List ExpressEntry), P t → P (t.expressTurn e l) :=
    fun e l h => turn _ _ _ (flc _ h)
  have start : P s := rfl
  have all : P s.lineArbiter := by
    unfold State.lineArbiter
    split
    · exact start
    · have h1 := settle start
      have h3 : ∀ {t : State}, P t → P t.idleExpress := by
        intro t h
        unfold State.idleExpress
        split
        · exact flc _ h
        · exact express _ _ h
      have h4 : ∀ {t : State}, P t → P t.gapExpress := by
        intro t h
        unfold State.gapExpress
        split
        · exact flc _ h
        · exact ite_keeps (flc _ h) (express _ _ h)
      have h5 : ∀ {t : State}, P t → P t.nextTurn := by
        intro t h
        unfold State.nextTurn
        have round : P (if t.flc.passEnded && t.flc.roundTimer.isNone then t.startRound.settlePass else t) :=
          ite_keeps (settle (flc _ h)) h
        exact ite_keeps h (ite_keeps (h3 round) (roster round))
      exact h5 (ite_keeps (h4 h1) h1)
  exact all

/-- What the end of a handling leaves alone. -/
structure Settled (u t : State) : Prop where
  uptime : t.uptime = u.uptime
  stations : t.stations = u.stations
  groups : t.groups = u.groups
  points : t.points = u.points
  lanes : t.lanes = u.lanes
  zones : t.zones = u.zones
  blowers : t.blowers = u.blowers
  pool : t.pool = u.pool
  channels : t.channels = u.channels
  pairs : t.pairs = u.pairs
  storm : t.storm = u.storm
  hand : t.hand = u.hand
  pending : t.pending = u.pending
  config : t.config = u.config

theorem Settled.refl (u : State) : Settled u u := ⟨rfl, rfl, rfl, rfl, rfl, rfl, rfl, rfl, rfl, rfl, rfl, rfl, rfl, rfl⟩

theorem Settled.trans {a b c : State} (h : Settled a b) (k : Settled b c) : Settled a c :=
  ⟨k.uptime.trans h.uptime, k.stations.trans h.stations, k.groups.trans h.groups, k.points.trans h.points,
    k.lanes.trans h.lanes, k.zones.trans h.zones, k.blowers.trans h.blowers, k.pool.trans h.pool,
    k.channels.trans h.channels, k.pairs.trans h.pairs, k.storm.trans h.storm, k.hand.trans h.hand,
    k.pending.trans h.pending, k.config.trans h.config⟩

theorem Settled.lineArbiter (u : State) : Settled u u.lineArbiter := by
  have hc : u.lineArbiter.config = u.config := (config_plant u.config).lineArbiter rfl
  refine ⟨?_, ?_, ?_, ?_, ?_, ?_, ?_, ?_, ?_, ?_, ?_, ?_, ?_, hc⟩ <;> rw [lineArbiter_eq]

theorem Settled.updateLines (u : State) : Settled u u.updateLines :=
  ⟨rfl, rfl, rfl, rfl, rfl, rfl, rfl, rfl, rfl, rfl, rfl, rfl, rfl, rfl⟩

theorem Settled.addReply (u : State) (r : Reply) : Settled u (u.addReply r) :=
  ⟨rfl, rfl, rfl, rfl, rfl, rfl, rfl, rfl, rfl, rfl, rfl, rfl, rfl, rfl⟩

theorem Settled.transmit (u : State) : Settled u u.transmit := by
  have hc : u.transmit.config = u.config := (config_plant u.config).send rfl
  refine ⟨?_, ?_, ?_, ?_, ?_, ?_, ?_, ?_, ?_, ?_, ?_, ?_, ?_, hc⟩ <;> rw [transmit_eq]

theorem Settled.finish (u : State) : Settled u u.finish :=
  ((Settled.lineArbiter u).trans (Settled.updateLines _)).trans (Settled.transmit _)

theorem Settled.answered (u : State) (h : Hdr) (code : Nat) (status : Status) (report : List Byte) :
    Settled u (u.answered h code status report) :=
  (((Settled.lineArbiter u).trans (Settled.updateLines _)).trans (Settled.addReply _ _)).trans (Settled.transmit _)

theorem Settled.addressed (s : State) (h : Hdr) : Settled s (s.addressed h) :=
  ⟨rfl, rfl, rfl, rfl, rfl, rfl, rfl, rfl, rfl, rfl, rfl, rfl, rfl, rfl⟩

/-! ### Requests -/

/-- A request row is the arrival of its request. -/
theorem exec_request {c : Instr} {q : Request} (hq : c.request = some q) (s : State) :
    exec c s = .next (s.receiveRequest q) := by
  cases c <;> simp only [Instr.request, Option.some.injEq, reduceCtorEq] at hq <;> subst hq <;> rfl

/-- The transmitter has been served when a request has been taken. -/
theorem take_again (s : State) (q : Request) : (s.take q).transmit = s.take q := by
  unfold State.take
  dsimp only
  split <;> exact transmit_again _

/-- A request that finds the port ready is taken at once. -/
theorem receiveRequest_ready (hs : s.ready) (q : Request) : s.receiveRequest q = (s.take q).transmit := by
  obtain ⟨hq, hr, hl⟩ := hs
  have hoff : s.offerRequest q = s.modPort fun p => { p with requests := [q] } := by
    unfold State.offerRequest
    rw [hq, if_pos (by decide)]
    unfold State.modPort
    dsimp only
    rw [hq]
    rfl
  have hback : ((s.modPort fun p => { p with requests := [q] }).modPort fun p => { p with requests := [] }) = s := by
    change { s with port := { s.port with requests := [] } } = s
    rw [← hq]
  unfold State.receiveRequest
  rw [hoff]
  change (State.serve 1 _).transmit = _
  unfold State.serve
  simp only [State.modPort_port]
  have hmay : (s.modPort fun p => { p with requests := [q] }).mayTake = true := by
    simp [State.mayTake, hr, hl]
  rw [if_pos hmay]
  change State.transmit (State.serve 0 (State.take ((s.modPort fun p => { p with requests := [q] }).modPort fun p =>
    { p with requests := [] }) q)) = _
  rw [hback]
  rfl

/-- A request that finds the port ready, and whose handling replies at once: its handling, its answer. -/
theorem exec_ready {c : Instr} {q : Request} (hq : c.request = some q) (hs : s.ready) {u : State} {status : Status}
    {report : List Byte} (hh : handle q.hdr q.body (s.addressed q.hdr) = (u, some (status, report))) :
    exec c s = .next (u.answered q.hdr q.body.code status (if status = .done then report else [])) := by
  rw [exec_request hq, receiveRequest_ready hs]
  have : s.take q = u.answered q.hdr q.body.code status (if status = .done then report else []) := by
    unfold State.take
    have hh' : handle q.hdr q.body (s.modPort fun p => { p with address := q.hdr.src }) = (u, some (status, report)) := hh
    dsimp only
    rw [hh']
    rfl
  rw [this]
  unfold State.answered
  rw [transmit_again]

/-- The reply of a request that leaves `u`, where `u` keeps the port's own fields. -/
theorem answered_replied {u : State} {hdr : Hdr} (hu : u.port.own = (s.addressed hdr).port.own) (code : Nat) (status : Status)
    (report : List Byte) : s.replied (u.answered hdr code status report) ⟨hdr.src, hdr.tag, code, status, report⟩ := by
  have own : u.lineArbiter.updateLines.port.own = u.port.own :=
    (ownPort_effects _).flags _ rfl ((ownPort_effects _).lineArbiter rfl)
  have ht := congrArg Port.tx (own.trans hu)
  have hr := congrArg Port.replies (own.trans hu)
  exact transmit_replied ht hr _

end Sys2Proof.Machine
end

