-- ==== Sys2Proof/Laws/Interlocks.lean ====
section
/-! SUPPORT. The two interlocks of `Safe` that every command keeps, as instances of `Shell`: at most one blower STARTING (R77),
and at most one pump of a paired channel commanded RUN (R110, R138). -/

namespace Sys2Proof.Machine

open Sys2Proof

variable {s t : State}

/-! ### What a pump's passages and the pairs' rewritings leave alone -/

theorem offerDrive_eq (s : State) (x : Target) (d : Drive) : ∃ f, s.offerDrive x d = { s with flc := f } :=
  ⟨_, offerExpress_eq s ⟨x, some d⟩⟩

/-- The offers that follow a change of a command touch the field line controller alone. -/
theorem syncCommands_eq (before s : State) : ∃ f, before.syncCommands s = { s with flc := f } := by
  have offers : ∀ (u : State) (run : Bool) (st : Nat), (∃ f, u = { s with flc := f }) →
      ∃ f, u.offerDrive (.station st) (pumpDrive run) = { s with flc := f } := by
    rintro _ run st ⟨f, rfl⟩
    exact offerDrive_eq _ _ _
  unfold State.syncCommands
  exact foldl_keeps (fun u st h => offers u _ st h) _ (foldl_keeps (fun u st h => offers u _ st h) _ ⟨s.flc, rfl⟩)

/-- A pump's passage that ends leaves the table, and the field line may be offered a DRIVE. -/
theorem endPassage_pump (s : State) (st : Nat) (byLoss : Bool) :
    ∃ f, s.endPassage ⟨.pump, st⟩ byLoss = { s with hand := s.hand.filter (·.target != ⟨.pump, st⟩), flc := f } := by
  unfold State.endPassage
  split
  · rename_i hn
    refine ⟨s.flc, ?_⟩
    rw [List.filter_eq_self.mpr]
    intro p hp
    simpa using List.find?_eq_none.mp hn p hp
  · dsimp only
    obtain ⟨f, hf⟩ : ∃ f, (if byLoss then s.dropPassage ⟨.pump, st⟩ else (s.dropPassage ⟨.pump, st⟩).offerDrive (.station st)
        (pumpDrive ((s.dropPassage ⟨.pump, st⟩).pumpRun st))) = { s.dropPassage ⟨.pump, st⟩ with flc := f } := by
      split
      · exact ⟨s.flc, rfl⟩
      · exact offerDrive_eq _ _ _
    obtain ⟨g, hg⟩ := syncCommands_eq s { s.dropPassage ⟨.pump, st⟩ with flc := f }
    exact ⟨g, by rw [hf, hg]; rfl⟩

/-- The passages on some pumps end. -/
theorem endPassages_pump (s : State) (sts : List Nat) :
    ∃ f, sts.foldl (fun s st => s.endPassage ⟨.pump, st⟩ false) s
      = { s with hand := s.hand.filter fun p => !(p.target.kind == .pump && sts.contains p.target.index), flc := f } := by
  induction sts generalizing s with
  | nil => exact ⟨s.flc, by simp⟩
  | cons st sts ih =>
    obtain ⟨f, hf⟩ := endPassage_pump s st false
    obtain ⟨g, hg⟩ := ih (s.endPassage ⟨.pump, st⟩ false)
    refine ⟨g, ?_⟩
    rw [List.foldl_cons, hg, hf]
    congr 1
    rw [List.filter_filter]
    refine List.filter_congr fun p _ => ?_
    obtain ⟨⟨kind, index⟩, _⟩ := p
    rw [Bool.eq_iff_iff]
    cases kind <;> simp [and_comm]

/-- R108, R142: an accepted CHANNEL_WRITE rewrites the record and ends the passages on its former pumps. -/
theorem rewriteChannel_eq (s : State) (i : Nat) (c : ChannelCfg) :
    ∃ f, s.rewriteChannel i c = { s.modChannel i (·.rewritten c) with
      hand := s.hand.filter fun p => !(p.target.kind == .pump && (s.formerPumps i).contains p.target.index), flc := f } :=
  endPassages_pump _ _

/-- R138: where both pumps are held at RUN, the partner's demand becomes STOP. -/
theorem joinHandStop_eq (s : State) (first partner : Nat) :
    ∃ f, s.joinHandStop first partner = { s with
      hand := if s.pumpHeldRun first && s.pumpHeldRun partner then
          s.hand.map fun p => if p.target == ⟨.pump, partner⟩ then { p with demand := .stop 0 } else p
        else s.hand,
      flc := f } := by
  unfold State.joinHandStop
  split
  · exact offerDrive_eq _ _ _
  · exact ⟨s.flc, rfl⟩

theorem channelCfg_modChannel {s : State} {c : Nat} {f : Channel → Channel} (hf : ∀ x, (f x).cfg = x.cfg) (i : Nat) :
    ((s.modChannel c f).channel i).cfg = (s.channel i).cfg := by
  rw [State.channel_modChannel]
  split
  · exact hf _
  · rfl

/-- R121: a join. -/
theorem joinPair_eq (s : State) (k : Nat) :
    ∃ f, s.joinPair k = { (s.modPair k fun p => { p with joined := true }).modChannel (2 * k + 1) fun x =>
        { x with autoPending := false } with
      hand := if s.pumpHeldRun (s.channel (2 * k)).cfg.pump && s.pumpHeldRun (s.channel (2 * k + 1)).cfg.pump then
          s.hand.map fun p => if p.target == ⟨.pump, (s.channel (2 * k + 1)).cfg.pump⟩ then { p with demand := .stop 0 } else p
        else s.hand,
      flc := f } := by
  let joined := (s.modPair k fun p => { p with joined := true }).modChannel (2 * k + 1) fun x => { x with autoPending := false }
  have cfg : ∀ i, (joined.channel i).cfg = (s.channel i).cfg := channelCfg_modChannel fun _ => rfl
  obtain ⟨f, hf⟩ := joinHandStop_eq joined (joined.channel (2 * k)).cfg.pump (joined.channel (2 * k + 1)).cfg.pump
  have synced : ∃ g, s.joinPair k
      = { joined.joinHandStop (joined.channel (2 * k)).cfg.pump (joined.channel (2 * k + 1)).cfg.pump with flc := g } :=
    syncCommands_eq s _
  obtain ⟨g, hg⟩ := synced
  rw [hf, cfg, cfg] at hg
  exact ⟨g, hg⟩

/-- R121: a parting. -/
theorem partPair_eq (s : State) (k : Nat) :
    ∃ f, s.partPair k = { (s.modPair k fun p => { p with joined := false }).modChannel (2 * k + 1) fun x =>
      Channel.start x.cfg with flc := f } :=
  syncCommands_eq _ _

/-! ### One blower STARTING -/

theorem State.OneStarts.of_imp (h : s.OneStarts)
    (hb : ∀ a, (t.blower a).starting = true → (s.blower a).starting = true) : t.OneStarts :=
  fun a ha b hb' hsa hsb => h a ha b hb' (hb a hsa) (hb b hsb)

theorem State.OneStarts.of_eq (h : s.OneStarts) (hb : t.blowers = s.blowers) : t.OneStarts :=
  h.of_imp fun a ha => by simpa [State.blower, hb] using ha

theorem State.OneStarts.modBlower (h : s.OneStarts) (b : Nat) (f : Blower → Blower)
    (hf : (f (s.blower b)).starting = true → (s.blower b).starting = true) : (s.modBlower b f).OneStarts := by
  refine h.of_imp fun a ha => ?_
  rw [State.blower_modBlower] at ha
  split at ha
  · rename_i hab
    obtain rfl := hab.1
    exact hf ha
  · exact ha

/-- A start made while no blower is STARTING leaves one at most. -/
theorem State.OneStarts.started (h : s.someStarting = false) (b : Nat) (f : Blower → Blower) :
    (s.modBlower b f).OneStarts := by
  have only : ∀ a < 6, ((s.modBlower b f).blower a).starting = true → a = b := fun a ha hs => by
    by_contra hab
    rw [State.blower_modBlower, if_neg fun hc => hab hc.1.symm] at hs
    unfold State.someStarting at h
    rw [List.any_eq_false] at h
    exact h a (List.mem_range.mpr ha) hs
  exact fun a ha c hc hsa hsc => (only a ha hsa).trans (only c hc hsc).symm

theorem oneStarts_anyChannel : AnyChannel State.OneStarts where
  channel _ _ _ h := h.of_eq rfl
  pair _ _ _ h := h.of_eq rfl
  notice n h := h.of_eq (by rw [offerNotice_eq])
  raise code src v h := h.of_eq (by rw [(raiseAlarm_only _ code src v).2])
  clear code src h := h.of_eq (by rw [(clearAlarm_only _ code src).2])

theorem oneStarts_shell : Shell State.OneStarts where
  station _ _ h := h.of_eq rfl
  group _ _ h := h.of_eq rfl
  without _ h := h.of_eq rfl
  point _ _ h := h.of_eq rfl
  lane _ _ h := h.of_eq rfl
  zone _ _ h := h.of_eq rfl
  blower b f hf h := h.modBlower b f hf
  start b _ hs _ := State.OneStarts.started hs b _
  channel _ _ _ h := h.of_eq rfl
  startChannel c _ h := oneStarts_anyChannel.startChannel h c
  meter c v h := oneStarts_anyChannel.meter h c v
  pair _ _ _ h := h.of_eq rfl
  storm _ h := h.of_eq rfl
  pool _ h := h.of_eq rfl
  flc _ _ h := h.of_eq rfl
  flags _ _ h := h.of_eq rfl
  notice n h := h.of_eq (by rw [offerNotice_eq])
  express e h := h.of_eq (by rw [offerExpress_eq])
  forward e h := h.of_eq (by rw [offerForward_eq])
  raise code src v h := h.of_eq (by rw [(raiseAlarm_only _ code src v).2])
  clear code src h := h.of_eq (by rw [(clearAlarm_only _ code src).2])
  ack code src h := h.of_eq (by rw [(ackAlarm_only _ code src).2])
  passage _ h := h.of_eq rfl
  put t d c _ _ h := h.of_eq (by unfold State.putPassage; split <;> rfl)
  rewriteChannel i c _ _ _ _ h := by
    obtain ⟨f, hf⟩ := rewriteChannel_eq _ i c
    exact h.of_eq (hf ▸ rfl)
  joinPair k _ _ h := by
    obtain ⟨f, hf⟩ := joinPair_eq _ k
    exact h.of_eq (hf ▸ rfl)
  partPair k h := by
    obtain ⟨f, hf⟩ := partPair_eq _ k
    exact h.of_eq (hf ▸ rfl)
  port _ _ _ _ _ h := h.of_eq rfl
  save _ h := h.of_eq rfl
  load := fun {s} kind _ => by
    have fresh : ∀ a, ((s.load kind).blower a).starting = false := fun a => by
      simp only [Blower.starting, State.blower, State.load, List.getD_eq_getElem?_getD, List.getElem?_map]
      cases (if s.port.imageOk then s.port.image else Settings.blank).blowers[a]? <;> simp [Blower.start]
    exact fun a _ b _ hs _ => by simp [fresh a] at hs
  cold _ _ h := h.of_eq rfl
  warm h := h.of_eq rfl

/-! ### One pump of a pair at RUN -/

theorem channelCfg_settings (s : State) (i : Nat) : s.settings.channels.getD i .blank = (s.channel i).cfg := by
  simp only [State.settings, State.channel, List.getD_eq_getElem?_getD, List.getElem?_map]
  cases s.channels[i]? <;> rfl

theorem pair_settings (s : State) (k : Nat) : s.settings.pairs.getD k ⟨false, .first⟩ = s.pair k := rfl

theorem passage_target {x : HandTarget} {p : Passage} (h : s.passage x = some p) : p.target = x := by
  unfold State.passage at h
  simpa using List.find?_some h

/-- The passage that holds a target, when those on another have gone. -/
theorem passage_dropPassage (x t : HandTarget) : (s.dropPassage x).passage t = if t = x then none else s.passage t := by
  unfold State.passage State.dropPassage
  dsimp only
  rw [List.find?_filter]
  split
  · rename_i htx
    subst htx
    exact List.find?_eq_none.mpr fun p _ => by simp
  · rename_i htx
    congr 1
    funext p
    by_cases hp : p.target = t
    · simp [hp, htx]
    · simp [hp]

/-- A passage put holds its target with its demand, and leaves the others as they are. -/
theorem passage_putPassage (x t : HandTarget) (d : Drive) (c : TimeoutCode) :
    if t = x then ∃ p, (s.putPassage x d c).passage t = some p ∧ p.demand = d
    else (s.putPassage x d c).passage t = s.passage t := by
  have kept (p : Passage) : (if p.target == x then p.refreshed s.uptime d c else p).target = p.target := by
    split <;> rfl
  unfold State.putPassage
  by_cases hx : (s.passage x).isSome
  · rw [if_pos hx]
    have mapped : State.passage { s with hand := s.hand.map fun p => if p.target == x then p.refreshed s.uptime d c else p } t
        = (s.passage t).map fun p => if p.target == x then p.refreshed s.uptime d c else p := by
      unfold State.passage
      dsimp only
      rw [List.find?_map]
      congr 2
      funext p
      simp only [Function.comp, kept]
    rw [mapped]
    split
    · rename_i htx
      subst htx
      obtain ⟨p, hp⟩ := Option.isSome_iff_exists.mp hx
      exact ⟨_, by rw [hp]; rfl, by simp [passage_target hp, Passage.refreshed]⟩
    · rename_i htx
      cases hp : s.passage t with
      | none => rfl
      | some p => simp [passage_target hp, htx]
  · rw [if_neg hx]
    have absent : s.passage x = none := by simpa using hx
    unfold State.passage at absent ⊢
    dsimp only
    simp only [List.find?_append]
    split
    · rename_i htx
      subst htx
      refine ⟨⟨t, d, c, (timeoutSeconds c).map (s.uptime + ·), s.uptime, 0⟩, ?_, rfl⟩
      rw [absent]
      simp
    · rename_i htx
      cases hp : s.hand.find? (·.target == t) <;> simp [Ne.symm htx]

theorem pumpHeldRun_iff (st : Nat) :
    s.pumpHeldRun st = true ↔ ∃ p v, s.passage ⟨.pump, st⟩ = some p ∧ p.demand = .run v := by
  unfold State.pumpHeldRun
  split
  · rename_i p hp
    split <;> simp_all
  · simp_all

/-- No two pumps of a paired channel are held at RUN. -/
def State.HeldApart (s : State) : Prop :=
  ∀ k < 2, (s.pair k).joined = true → (s.channel (2 * k)).cfg.configured = true →
    ¬ (s.pumpHeldRun (s.channel (2 * k)).cfg.pump = true ∧ s.pumpHeldRun (s.channel (2 * k + 1)).cfg.pump = true)

/-- The channels' pumps stand apart: in the configuration, in the image and the snapshot of a save, and in hand. -/
structure State.PumpsHold (s : State) : Prop where
  banks : s.settings.PumpsApart
  image : s.port.image.PumpsApart
  snapshot : ∀ x, s.port.save = some x → x.snapshot.PumpsApart
  held : s.HeldApart

/-- The pumps of two states that agree on the channels' configuration and the pairs' flags stand apart alike. -/
theorem Settings.PumpsApart.of_cfg (h : s.settings.PumpsApart) (hc : ∀ i, (t.channel i).cfg = (s.channel i).cfg)
    (hj : ∀ k, (t.pair k).joined = (s.pair k).joined) : t.settings.PumpsApart := by
  constructor
  · intro i hi j hj'
    simpa only [channelCfg_settings, hc] using h.own i hi j hj'
  · intro k hk
    simpa only [channelCfg_settings, pair_settings, hc, hj] using h.joined k hk

theorem State.PumpsHold.of_cfg (h : s.PumpsHold) (hc : ∀ i, (t.channel i).cfg = (s.channel i).cfg)
    (hj : ∀ k, (t.pair k).joined = (s.pair k).joined) (hh : ∀ st, t.pumpHeldRun st = true → s.pumpHeldRun st = true)
    (hi : t.port.image = s.port.image) (hs : t.port.save = s.port.save) : t.PumpsHold := by
  refine ⟨h.banks.of_cfg hc hj, hi ▸ h.image, hs ▸ h.snapshot, fun k hk hj' hcf hr => ?_⟩
  rw [hj] at hj'
  rw [hc] at hcf
  rw [hc, hc] at hr
  exact h.held k hk hj' hcf ⟨hh _ hr.1, hh _ hr.2⟩

theorem State.PumpsHold.of_eq (h : s.PumpsHold) (hc : t.channels = s.channels) (hp : t.pairs = s.pairs)
    (hh : t.hand = s.hand) (hi : t.port.image = s.port.image) (hs : t.port.save = s.port.save) : t.PumpsHold := by
  refine h.of_cfg (fun i => by unfold State.channel; rw [hc]) (fun k => by unfold State.pair; rw [hp]) (fun st ht => ?_) hi hs
  unfold State.pumpHeldRun State.passage at ht ⊢
  rwa [hh] at ht

theorem State.PumpsHold.alarmsOnly (h : s.PumpsHold) (ht : AlarmsOnly s t) : t.PumpsHold := by
  refine h.of_eq ?_ ?_ ?_ ?_ ?_ <;> rw [ht.2]

/-- A configuration of which only one channel's record changes, to one whose pump no other configured channel names. -/
theorem own_of (h : s.settings.PumpsApart) {i j : Nat} (hi : i < 4) (hj : j < 4) (hij : i ≠ j)
    (ci : (s.channel i).cfg.configured = true) (cj : (s.channel j).cfg.configured = true) :
    (s.channel i).cfg.pump ≠ (s.channel j).cfg.pump := by
  simpa only [channelCfg_settings] using h.own i hi j hj hij (by simpa only [channelCfg_settings] using ci)
    (by simpa only [channelCfg_settings] using cj)

theorem upper_of (h : s.settings.PumpsApart) {k : Nat} (hk : k < 2) (hj : (s.pair k).joined = true) :
    (s.channel (2 * k + 1)).cfg.configured = true := by
  simpa only [channelCfg_settings] using h.joined k hk hj

theorem pumps_of_pair {k : Nat} (hj : (s.pair k).joined = true) (hc : (s.channel (2 * k)).cfg.configured = true) :
    s.pumps (2 * k) = [(s.channel (2 * k)).cfg.pump, (s.channel (2 * k + 1)).cfg.pump] := by
  have hp : s.paired (2 * k) = true := by simp [State.paired, hj]
  simp [State.pumps, hc, hp]

/-- A pump of a channel is named by a configured channel of its pair. -/
theorem owner_of_pump (h : s.settings.PumpsApart) {c st : Nat} (hc : c < 4) (hst : st ∈ s.pumps c) :
    ∃ j < 4, j / 2 = c / 2 ∧ (s.channel j).cfg.configured = true ∧ (s.channel j).cfg.pump = st := by
  unfold State.pumps at hst
  split at hst
  · simp at hst
  · rename_i own
    have own : (s.channel c).cfg.configured = true := by simpa using own
    split at hst
    · rename_i hp
      simp only [State.paired, Bool.and_eq_true, beq_iff_eq] at hp
      have hk : c = 2 * (c / 2) := by omega
      have upper := upper_of h (k := c / 2) (by omega) hp.2
      rw [← hk] at upper
      rcases List.mem_pair.mp hst with rfl | rfl
      · exact ⟨c, hc, rfl, own, rfl⟩
      · exact ⟨c + 1, by omega, by omega, upper, rfl⟩
    · obtain rfl := List.mem_singleton.mp hst
      exact ⟨c, hc, rfl, own, rfl⟩

/-- Both pumps of a paired channel are that channel's, and no other's (R107). -/
theorem channelOfPump_of_pair (h : s.settings.PumpsApart) {k : Nat} (hk : k < 2)
    (hc : (s.channel (2 * k)).cfg.configured = true) {st : Nat} (hst : st ∈ s.pumps (2 * k)) :
    s.channelOfPump st = some (2 * k) := by
  have live : s.liveChannel (2 * k) = true := by simp [State.liveChannel, State.dormant, hc]
  have below : ∀ c < 2 * k, st ∉ s.pumps c := fun c hck hmem => by
    obtain ⟨i, hi, hik, ci, rfl⟩ := owner_of_pump h (by omega) hst
    obtain ⟨j, hj, hjc, cj, hji⟩ := owner_of_pump h (by omega) hmem
    exact own_of h hj hi (by omega) cj ci hji
  unfold State.channelOfPump
  rw [List.find?_eq_some_iff_getElem]
  refine ⟨by simp [live, hst], 2 * k, by simp; omega, by simp, fun j hj => ?_⟩
  simp [below j hj]

/-- Each pump of a paired channel is the other's mate. -/
theorem mates_of_pair (h : s.settings.PumpsApart) {k : Nat} (hk : k < 2) (hj : (s.pair k).joined = true)
    (hc : (s.channel (2 * k)).cfg.configured = true) :
    s.mateOfPump (s.channel (2 * k)).cfg.pump = some (s.channel (2 * k + 1)).cfg.pump
      ∧ s.mateOfPump (s.channel (2 * k + 1)).cfg.pump = some (s.channel (2 * k)).cfg.pump
      ∧ (s.channel (2 * k)).cfg.pump ≠ (s.channel (2 * k + 1)).cfg.pump := by
  have pumps := pumps_of_pair hj hc
  have apart := own_of h (by omega) (by omega) (by omega) hc (upper_of h hk hj)
  have hp : s.paired (2 * k) = true := by simp [State.paired, hj]
  have first := channelOfPump_of_pair h hk hc (st := (s.channel (2 * k)).cfg.pump) (by simp [pumps])
  have partner := channelOfPump_of_pair h hk hc (st := (s.channel (2 * k + 1)).cfg.pump) (by simp [pumps])
  refine ⟨?_, ?_, apart⟩
  · simp [State.mateOfPump, first, hp, pumps, apart.symm]
  · simp [State.mateOfPump, partner, hp, pumps, apart]

theorem pumpCommandedRun_of_held {st : Nat} (h : s.pumpHeldRun st = true) : s.pumpCommandedRun st = true := by
  have held : s.pumpHeld st = true := by
    obtain ⟨p, _, hp, _⟩ := (pumpHeldRun_iff st).mp h
    simp [State.pumpHeld, hp]
  simp [State.pumpCommandedRun, held, h]

/-- R110, R138: where the pumps stand apart, at most one of a paired channel's is commanded RUN. -/
theorem State.PumpsHold.onePumpRuns (h : s.PumpsHold) : s.OnePumpRuns := by
  intro k hk hj hc ⟨hf, hp⟩
  obtain ⟨mf, mp, apart⟩ := mates_of_pair h.banks hk hj hc
  have notBoth := h.held k hk hj hc
  have pumps := pumps_of_pair hj hc
  have first := channelOfPump_of_pair h.banks hk hc (st := (s.channel (2 * k)).cfg.pump) (by simp [pumps])
  have partner := channelOfPump_of_pair h.banks hk hc (st := (s.channel (2 * k + 1)).cfg.pump) (by simp [pumps])
  unfold State.pumpCommandedRun State.pumpRun at hf hp
  simp only [first, mf] at hf
  simp only [partner, mp] at hp
  have duty : ∀ a b : Nat, a = s.dutyPump (2 * k) → b = s.dutyPump (2 * k) → a = b := fun _ _ ha hb => ha.trans hb.symm
  have d := duty (s.channel (2 * k)).cfg.pump (s.channel (2 * k + 1)).cfg.pump
  have held (st : Nat) : s.pumpHeld st = false → s.pumpHeldRun st = false := fun hn => by
    simp only [State.pumpHeld, Option.isSome_eq_false_iff, Option.isNone_iff_eq_none] at hn
    simp [State.pumpHeldRun, hn]
  split at hf <;> split at hp <;> simp_all

theorem State.OnePumpRuns.heldApart (h : s.OnePumpRuns) : s.HeldApart := fun k hk hj hc hr =>
  h k hk hj hc ⟨pumpCommandedRun_of_held hr.1, pumpCommandedRun_of_held hr.2⟩

/-! ### The changes that reach the pumps -/

theorem State.PumpsHold.drop (h : s.PumpsHold) (x : HandTarget) : (s.dropPassage x).PumpsHold := by
  refine h.of_cfg (fun _ => rfl) (fun _ => rfl) (fun st hr => ?_) rfl rfl
  obtain ⟨p, v, hp, hv⟩ := (pumpHeldRun_iff st).mp hr
  rw [passage_dropPassage] at hp
  split at hp
  · cases hp
  · exact (pumpHeldRun_iff st).mpr ⟨p, v, hp, hv⟩

/-- A passage put at RUN that the interlock does not refuse leaves the mate not held at RUN. -/
theorem mate_not_held {st mate v : Nat} (hm : s.mateOfPump st = some mate)
    (h : s.interlocked ⟨.pump, st⟩ (.run v) = false) : s.pumpHeldRun mate = false := by
  by_contra hr
  simp [State.interlocked, hm, pumpCommandedRun_of_held (Bool.eq_true_of_not_eq_false hr)] at h

/-- Held at RUN after a put: the target put, at RUN, or held at RUN before. -/
theorem held_after_put {x : HandTarget} {d : Drive} {c : TimeoutCode} {st : Nat}
    (h : (s.putPassage x d c).pumpHeldRun st = true) :
    (x = ⟨.pump, st⟩ ∧ ∃ v, d = .run v) ∨ (x ≠ ⟨.pump, st⟩ ∧ s.pumpHeldRun st = true) := by
  obtain ⟨p, v, hp, hv⟩ := (pumpHeldRun_iff st).mp h
  have put := passage_putPassage (s := s) x ⟨.pump, st⟩ d c
  split at put
  · rename_i hx
    obtain ⟨q, hq, hd⟩ := put
    obtain rfl := Option.some.inj (hp.symm.trans hq)
    exact .inl ⟨hx.symm, v, hd ▸ hv⟩
  · rename_i hx
    exact .inr ⟨Ne.symm hx, (pumpHeldRun_iff st).mpr ⟨p, v, put ▸ hp, hv⟩⟩

theorem State.PumpsHold.put (h : s.PumpsHold) (x : HandTarget) (d : Drive) (c : TimeoutCode)
    (hfree : s.interlocked x d = false) : (s.putPassage x d c).PumpsHold := by
  have rest : (s.putPassage x d c).channels = s.channels ∧ (s.putPassage x d c).pairs = s.pairs
      ∧ (s.putPassage x d c).port = s.port := by
    unfold State.putPassage
    split <;> exact ⟨rfl, rfl, rfl⟩
  have hc : ∀ i, (s.putPassage x d c).channel i = s.channel i := fun i => by unfold State.channel; rw [rest.1]
  have hp : ∀ k, (s.putPassage x d c).pair k = s.pair k := fun k => by unfold State.pair; rw [rest.2.1]
  refine ⟨h.banks.of_cfg (fun i => by rw [hc]) fun k => by rw [hp], by rw [rest.2.2]; exact h.image,
    by rw [rest.2.2]; exact h.snapshot, fun k hk hj hcf hr => ?_⟩
  rw [hp] at hj
  rw [hc] at hcf
  rw [hc, hc] at hr
  obtain ⟨mf, mp, _⟩ := mates_of_pair h.banks hk hj hcf
  rcases held_after_put hr.1 with ⟨rfl, v, rfl⟩ | ⟨hne, hf⟩
  · rcases held_after_put hr.2 with ⟨heq, _⟩ | ⟨_, hb⟩
    · simp_all
    · simp [mate_not_held mf hfree] at hb
  · rcases held_after_put hr.2 with ⟨rfl, v, rfl⟩ | ⟨_, hb⟩
    · simp [mate_not_held mp hfree] at hf
    · exact h.held k hk hj hcf ⟨hf, hb⟩

theorem State.PumpsHold.rewriteChannel (h : s.PumpsHold) {i : Nat} {c : ChannelCfg} (hi : i < 4)
    (hd : s.dormant i = false) (ok : s.channelOk i c = true) : (s.rewriteChannel i c).PumpsHold := by
  obtain ⟨f, hf⟩ := rewriteChannel_eq s i c
  have hp : ∀ k, (s.rewriteChannel i c).pair k = s.pair k := fun k => by rw [hf]; rfl
  have hne : ∀ j ≠ i, ((s.rewriteChannel i c).channel j).cfg = (s.channel j).cfg := fun j hj => by
    have : (s.rewriteChannel i c).channel j = (s.modChannel i (·.rewritten c)).channel j := by rw [hf]; rfl
    rw [this, State.channel_modChannel, if_neg fun hc => hj hc.1.symm]
  have heq : ((s.rewriteChannel i c).channel i).cfg = c ∨ ((s.rewriteChannel i c).channel i).cfg = (s.channel i).cfg := by
    have : (s.rewriteChannel i c).channel i = (s.modChannel i (·.rewritten c)).channel i := by rw [hf]; rfl
    rw [this, State.channel_modChannel]
    split
    · exact .inl rfl
    · exact .inr rfl
  -- the new record names no other configured channel's pump
  have apart : ∀ j < 4, j ≠ i → ((s.rewriteChannel i c).channel i).cfg.configured = true →
      (s.channel j).cfg.configured = true → ((s.rewriteChannel i c).channel i).cfg.pump ≠ (s.channel j).cfg.pump := by
    intro j hj hji hci hcj
    rcases heq with heq | heq
    · rw [heq] at hci ⊢
      simp only [State.channelOk, hci, Bool.not_true, Bool.false_or, Bool.and_eq_true, List.all_eq_true,
        List.mem_range] at ok
      have := ok.1.1.1.2 j hj
      simp [hji, hcj] at this
      exact fun h => this h.symm
    · rw [heq] at hci ⊢
      exact own_of h.banks hi hj (Ne.symm hji) hci hcj
  have banks : (s.rewriteChannel i c).settings.PumpsApart := by
    constructor
    · intro a ha b hb hab ca cb
      rw [channelCfg_settings] at ca cb ⊢
      rw [channelCfg_settings]
      by_cases hai : a = i
      · subst hai
        rw [hne b hab.symm] at cb ⊢
        exact apart b hb hab.symm ca cb
      · rw [hne a hai] at ca ⊢
        by_cases hbi : b = i
        · subst hbi
          exact (apart a ha hai cb ca).symm
        · rw [hne b hbi] at cb ⊢
          exact own_of h.banks ha hb hab ca cb
    · intro k hk hj
      rw [channelCfg_settings]
      rw [pair_settings, hp] at hj
      rw [hne]
      · exact upper_of h.banks hk hj
      · rintro rfl
        simp [State.dormant, hj, show (2 * k + 1) / 2 = k by omega, show (2 * k + 1) % 2 = 1 by omega] at hd
  -- a passage that stands was there before, and is on no former pump
  have held : ∀ st, (s.rewriteChannel i c).pumpHeldRun st = true → s.pumpHeldRun st = true ∧ st ∉ s.formerPumps i := by
    intro st hr
    obtain ⟨p, v, hq, hv⟩ := (pumpHeldRun_iff st).mp hr
    have target := passage_target hq
    rw [hf] at hq
    unfold State.passage at hq
    dsimp only at hq
    have hmem := List.mem_of_find?_eq_some hq
    rw [List.find?_filter] at hq
    have hst : st ∉ s.formerPumps i := by
      have := (List.mem_filter.mp hmem).2
      simpa [target] using this
    refine ⟨(pumpHeldRun_iff st).mpr ⟨p, v, ?_, hv⟩, hst⟩
    rw [← hq]
    unfold State.passage
    congr 1
    funext q
    by_cases hqt : q.target = ⟨.pump, st⟩
    · simp [hqt, hst]
    · simp [hqt]
  refine ⟨banks, by rw [hf]; exact h.image, by rw [hf]; exact h.snapshot, fun k hk hj hcf hr => ?_⟩
  rw [hp] at hj
  by_cases hki : i = 2 * k
  · subst hki
    have paired : s.paired (2 * k) = true := by simp [State.paired, hj]
    have partner := (held _ hr.2).2
    rw [hne _ (by omega)] at partner
    simp [State.formerPumps, paired] at partner
  · have upper : 2 * k + 1 ≠ i := by
      rintro rfl
      simp [State.dormant, hj, show (2 * k + 1) / 2 = k by omega, show (2 * k + 1) % 2 = 1 by omega] at hd
    rw [hne _ (Ne.symm hki)] at hcf hr
    rw [hne _ upper] at hr
    exact h.held k hk hj hcf ⟨(held _ hr.1).1, (held _ hr.2).1⟩

theorem State.PumpsHold.joinPair (h : s.PumpsHold) {k : Nat}
    (hu : (s.channel (2 * k + 1)).cfg.configured = true) : (s.joinPair k).PumpsHold := by
  obtain ⟨f, hf⟩ := joinPair_eq s k
  have hc : ∀ i, ((s.joinPair k).channel i).cfg = (s.channel i).cfg := fun i => by
    rw [hf]
    exact channelCfg_modChannel (s := s.modPair k fun p => { p with joined := true })
      (f := fun x => { x with autoPending := false }) (fun _ => rfl) i
  have hp : ∀ j ≠ k, (s.joinPair k).pair j = s.pair j := fun j hj => by
    have : (s.joinPair k).pair j = (s.modPair k fun p => { p with joined := true }).pair j := by rw [hf]; rfl
    rw [this, State.pair_modPair, if_neg fun hc => hj hc.1.symm]
  have hand : (s.joinPair k).hand =
      if s.pumpHeldRun (s.channel (2 * k)).cfg.pump && s.pumpHeldRun (s.channel (2 * k + 1)).cfg.pump then
        s.hand.map fun p => if p.target == ⟨.pump, (s.channel (2 * k + 1)).cfg.pump⟩ then { p with demand := .stop 0 } else p
      else s.hand := by rw [hf]
  -- a pump held at RUN after the join was held so before; after a stop the partner is not
  have held : ∀ st, (s.joinPair k).pumpHeldRun st = true → s.pumpHeldRun st = true
      ∧ ¬ (s.pumpHeldRun (s.channel (2 * k)).cfg.pump = true ∧ s.pumpHeldRun (s.channel (2 * k + 1)).cfg.pump = true
        ∧ st = (s.channel (2 * k + 1)).cfg.pump) := by
    intro st hr
    obtain ⟨p, v, hq, hv⟩ := (pumpHeldRun_iff st).mp hr
    unfold State.passage at hq
    rw [hand] at hq
    split at hq
    · rw [List.find?_map] at hq
      obtain ⟨q, hqf, rfl⟩ := Option.map_eq_some_iff.mp hq
      have same : (fun x : Passage => (if x.target == ⟨.pump, (s.channel (2 * k + 1)).cfg.pump⟩ then
          { x with demand := .stop 0 } else x).target == (⟨.pump, st⟩ : HandTarget)) = fun x => x.target == ⟨.pump, st⟩ := by
        funext x
        split <;> rfl
      have hqs : s.passage ⟨.pump, st⟩ = some q := by
        rw [← hqf]
        exact congrArg (s.hand.find? ·) same.symm
      have target := passage_target hqs
      split at hv
      · cases hv
      · rename_i hne
        refine ⟨(pumpHeldRun_iff st).mpr ⟨q, v, hqs, hv⟩, fun hb => hne ?_⟩
        simp [target, hb.2.2]
    · rename_i hn
      refine ⟨(pumpHeldRun_iff st).mpr ⟨p, v, hq, hv⟩, fun hb => hn ?_⟩
      simp [hb.1, hb.2.1]
  refine ⟨⟨?_, ?_⟩, by rw [hf]; exact h.image, by rw [hf]; exact h.snapshot, fun j hj hjj hcf hr => ?_⟩
  · intro a ha b hb
    simpa only [channelCfg_settings, hc] using h.banks.own a ha b hb
  · intro j hj hjj
    rw [channelCfg_settings, hc]
    by_cases hjk : j = k
    · exact hjk ▸ hu
    · rw [pair_settings, hp j hjk] at hjj
      exact upper_of h.banks hj hjj
  · rw [hc] at hcf
    rw [hc, hc] at hr
    by_cases hjk : j = k
    · subst hjk
      exact (held _ hr.2).2 ⟨(held _ hr.1).1, (held _ hr.2).1, rfl⟩
    · rw [hp j hjk] at hjj
      exact h.held j hj hjj hcf ⟨(held _ hr.1).1, (held _ hr.2).1⟩

theorem State.PumpsHold.partPair (h : s.PumpsHold) (k : Nat) : (s.partPair k).PumpsHold := by
  obtain ⟨f, hf⟩ := partPair_eq s k
  have hc : ∀ i, ((s.partPair k).channel i).cfg = (s.channel i).cfg := fun i => by
    rw [hf]
    exact channelCfg_modChannel (s := s.modPair k fun p => { p with joined := false })
      (f := fun x => Channel.start x.cfg) (fun _ => rfl) i
  have hp : ∀ j, ((s.partPair k).pair j).joined = true → (s.pair j).joined = true := fun j hj => by
    have : (s.partPair k).pair j = (s.modPair k fun p => { p with joined := false }).pair j := by rw [hf]; rfl
    rw [this, State.pair_modPair] at hj
    split at hj
    · cases hj
    · exact hj
  have hh : ∀ st, (s.partPair k).pumpHeldRun st = s.pumpHeldRun st := fun st => by rw [hf]; rfl
  refine ⟨⟨?_, ?_⟩, by rw [hf]; exact h.image, by rw [hf]; exact h.snapshot, fun j hj hjj hcf hr => ?_⟩
  · intro a ha b hb
    simpa only [channelCfg_settings, hc] using h.banks.own a ha b hb
  · intro j hj hjj
    rw [channelCfg_settings, hc]
    exact upper_of h.banks hj (hp j hjj)
  · rw [hc] at hcf
    rw [hc, hc, hh, hh] at hr
    exact h.held j hj (hp j hjj) hcf hr

theorem blank_apart : Settings.blank.PumpsApart := by
  have none : ∀ i < 4, (Settings.blank.channels.getD i .blank).configured = false := by decide
  exact ⟨fun i hi _ _ _ hc => absurd ((none i hi).symm.trans hc) Bool.false_ne_true, by decide⟩

/-- A start loads pumps that stand apart, and an empty passage table. -/
theorem State.PumpsHold.load (h : s.PumpsHold) (kind : StartKind) : (s.load kind).PumpsHold := by
  have image : (if s.port.imageOk then s.port.image else Settings.blank).PumpsApart := by
    split
    · exact h.image
    · exact blank_apart
  have hc : ∀ i < 4, ((s.load kind).channel i).cfg
      = (if s.port.imageOk then s.port.image else Settings.blank).channels.getD i .blank := fun i hi => by
    simp [State.channel, State.load, startChannels, List.getD_eq_getElem?_getD, hi, Channel.start]
  refine ⟨⟨?_, ?_⟩, h.image, fun x hx => (by cases hx), fun k _ _ _ hr => ?_⟩
  · intro i hi j hj
    simpa only [channelCfg_settings, hc i hi, hc j hj] using image.own i hi j hj
  · intro k hk hj
    rw [channelCfg_settings, hc _ (by omega)]
    exact image.joined k hk hj
  · obtain ⟨p, v, hp, _⟩ := (pumpHeldRun_iff _).mp hr.1
    cases hp

theorem channelCfg_keeps {c : Nat} {f : Channel → Channel} (hf : (s.channel c).Keeps (f (s.channel c))) (i : Nat) :
    ((s.modChannel c f).channel i).cfg = (s.channel i).cfg := by
  rw [State.channel_modChannel]
  split
  · rename_i hi
    obtain rfl := hi.1
    exact hf.1
  · rfl

theorem pumpsHold_anyChannel : AnyChannel State.PumpsHold where
  channel _ _ hf h := h.of_cfg (channelCfg_modChannel hf) (fun _ => rfl) (fun _ hr => hr) rfl rfl
  pair k f hf h := h.of_cfg (fun _ => rfl) (fun j => by
    rw [State.pair_modPair]
    split
    · exact hf _
    · rfl) (fun _ hr => hr) rfl rfl
  notice n h := by rw [offerNotice_eq]; exact h.of_eq rfl rfl rfl rfl rfl
  raise code src v h := h.alarmsOnly (raiseAlarm_only _ code src v)
  clear code src h := h.alarmsOnly (clearAlarm_only _ code src)

theorem pumpsHold_shell : Shell State.PumpsHold where
  station _ _ h := h.of_eq rfl rfl rfl rfl rfl
  group _ _ h := h.of_eq rfl rfl rfl rfl rfl
  without _ h := h.of_eq rfl rfl rfl rfl rfl
  point _ _ h := h.of_eq rfl rfl rfl rfl rfl
  lane _ _ h := h.of_eq rfl rfl rfl rfl rfl
  zone _ _ h := h.of_eq rfl rfl rfl rfl rfl
  blower _ _ _ h := h.of_eq rfl rfl rfl rfl rfl
  start _ _ _ h := h.of_eq rfl rfl rfl rfl rfl
  channel c f hf h := h.of_cfg (channelCfg_keeps hf) (fun _ => rfl) (fun _ hr => hr) rfl rfl
  startChannel c _ h := pumpsHold_anyChannel.startChannel h c
  meter c v h := pumpsHold_anyChannel.meter h c v
  pair k f hf h := pumpsHold_anyChannel.pair k f hf h
  storm _ h := h.of_eq rfl rfl rfl rfl rfl
  pool _ h := h.of_eq rfl rfl rfl rfl rfl
  flc _ _ h := h.of_eq rfl rfl rfl rfl rfl
  flags _ _ h := h.of_eq rfl rfl rfl rfl rfl
  notice n h := pumpsHold_anyChannel.notice n h
  express e h := by rw [offerExpress_eq]; exact h.of_eq rfl rfl rfl rfl rfl
  forward e h := by rw [offerForward_eq]; exact h.of_eq rfl rfl rfl rfl rfl
  raise code src v h := h.alarmsOnly (raiseAlarm_only _ code src v)
  clear code src h := h.alarmsOnly (clearAlarm_only _ code src)
  ack code src h := h.alarmsOnly (ackAlarm_only _ code src)
  passage x h := h.drop x
  put x d c _ hfree h := h.put x d c hfree
  rewriteChannel _ _ hi hd _ ok h := h.rewriteChannel hi hd ok
  joinPair _ _ hu h := h.joinPair hu
  partPair k h := h.partPair k
  port _ _ _ hi hs h := by
    refine ⟨h.banks, ?_, fun x hx => ?_, h.held⟩
    · rcases hi with hi | ⟨x, hx, hi⟩
      · exact hi ▸ h.image
      · exact hi ▸ h.snapshot x hx
    · rcases hs with hs | hs
      · exact h.snapshot x (hs ▸ hx)
      · simp [hs] at hx
  save _ h := ⟨h.banks, h.image, fun x hx => by cases hx; exact h.banks, h.held⟩
  load kind h := h.load kind
  cold _ _ h := h.of_eq rfl rfl rfl rfl rfl
  warm h := h.of_eq rfl rfl rfl rfl rfl

end Sys2Proof.Machine
end

