-- ==== Sys2Proof/Laws/Meters.lean ====
section
/-! SUPPORT. The figures of the return channels that every command keeps (R111, R115), as an instance of `Shell`: a start sets them,
a metered reading moves them, and nothing else touches them while a channel is not DISABLED. -/

namespace Sys2Proof.Machine

open Sys2Proof

variable {s t u : State} {c : Nat} {x y : Channel}

/-! ### One channel's record -/

/-- Between `s` and `t` the record of channel `c` became `y`; the other channels, the image and the save stand as they were. -/
structure Became (s t : State) (c : Nat) (y : Channel) : Prop where
  self : t.channel c = y
  rest : ∀ i, i ≠ c → t.channel i = s.channel i
  length : t.channels.length = s.channels.length
  image : t.port.image = s.port.image
  save : t.port.save = s.port.save

theorem Became.refl (s : State) (c : Nat) : Became s s c (s.channel c) := ⟨rfl, fun _ _ => rfl, rfl, rfl, rfl⟩

theorem Became.of_eq (h : Became s t c y) (hc : u.channels = t.channels) (hi : u.port.image = t.port.image)
    (hs : u.port.save = t.port.save) : Became s u c y := by
  have hch : ∀ i, u.channel i = t.channel i := fun i => by unfold State.channel; rw [hc]
  exact ⟨(hch c).trans h.self, fun i hi => (hch i).trans (h.rest i hi), by rw [hc]; exact h.length, hi.trans h.image,
    hs.trans h.save⟩

theorem Became.alarmsOnly (h : Became s t c y) (hu : AlarmsOnly t u) : Became s u c y := by
  refine h.of_eq ?_ ?_ ?_ <;> rw [hu.2]

theorem Became.notice (h : Became s t c y) (n : Notice) : Became s (t.offerNotice n) c y := by
  rw [offerNotice_eq]
  exact h.of_eq rfl rfl rfl

theorem Became.mod (h : Became s t c y) (hc : c < s.channels.length) (f : Channel → Channel) :
    Became s (t.modChannel c f) c (f y) := by
  refine ⟨?_, fun i hi => ?_, by simpa [State.modChannel] using h.length, h.image, h.save⟩
  · rw [State.channel_modChannel, if_pos ⟨rfl, h.length ▸ hc⟩, h.self]
  · rw [State.channel_modChannel, if_neg fun hci => hi hci.1.symm]
    exact h.rest i hi

/-- The record of a channel after its entry to a state. -/
def Channel.inState (x : Channel) (now : Nat) (st : ChannelState) : Channel :=
  { x with
    state := st, pauseStart := if st = .paused then some now else none,
    pauseDeadline := if st = .paused then some (now + x.cfg.pauseLimit * 60) else none }

theorem Became.enterChannel (h : Became s t c y) (hc : c < s.channels.length) (st : ChannelState) :
    Became s (t.enterChannel c st) c (y.inState t.uptime st) := by
  have entered := h.mod hc (·.inState t.uptime st)
  unfold State.enterChannel
  dsimp only
  split
  · exact entered.alarmsOnly (clearAlarm_only _ _ _)
  · exact entered

theorem Became.disableChannel (h : Became s t c y) (hc : c < s.channels.length) :
    Became s (t.disableChannel c) c { y.inState t.uptime .disabled with autoPending := false } :=
  ((((h.enterChannel hc .disabled).mod hc fun x => { x with autoPending := false }).alarmsOnly
    (clearAlarm_only _ _ _)).alarmsOnly (clearAlarm_only _ _ _))

theorem Became.moveDuty (h : Became s t c y) (i : Nat) : Became s (t.moveDuty i) c y := h.of_eq rfl rfl rfl

/-! ### The law of the figures -/

/-- The figures stand where they stood, under the same configuration. -/
theorem Channel.Counts.keeps (h : x.Counts) (hk : x.Keeps y) : y.Counts := by
  obtain ⟨hcfg, ht, hr, hn, hcy, ho, hst⟩ := hk
  have on : y.state ≠ .disabled → x.state ≠ .disabled := fun hy => hst.resolve_left hy
  have metered : ∀ sum, x.Metered sum → y.Metered sum := fun sum hm => by
    unfold Channel.Metered at hm ⊢
    rwa [ht, hr, hn, ho]
  refine ⟨by rw [ht, hr]; exact h.within, fun hy => ?_, fun hy hz => ?_, fun hy hm => ?_, fun hy hm => ?_⟩
  · rw [ho, hr, hcfg]
    exact h.started (on hy)
  · exact metered _ (h.first (on hy) (hcy ▸ hz))
  · rw [hcy, ht, hcfg]
    exact h.batch (on hy) (hcfg ▸ hm)
  · rw [hcy, ht, hcfg]
    obtain ⟨htc, hlaw⟩ := h.cycle (on hy) (hcfg ▸ hm)
    exact ⟨htc, fun hlt => metered _ (hlaw hlt)⟩

/-- A DISABLED channel's figures need only lie within its target. -/
theorem Channel.Counts.disabled (hs : x.state = .disabled) (hw : x.remaining ≤ x.target) : x.Counts :=
  ⟨hw, fun h => absurd hs h, fun h => absurd hs h, fun h => absurd hs h, fun h => absurd hs h⟩

/-- The figures of a channel just started on a target. -/
theorem Channel.Counts.fresh (hc : 1 ≤ x.cfg.target) (ht : 1 ≤ x.target) (hr : x.remaining = x.target) (hn : x.counted = 0)
    (hcy : x.cycles = 0) (ho : x.overshoot = 0) (hm : x.cfg.mode ≠ .val .ratio → x.target = x.cfg.target) : x.Counts := by
  have metered : x.Metered 0 := ⟨by simp [hr, hn, ho], hr.le⟩
  refine ⟨hr.le, fun _ => ⟨ho, by omega, hc⟩, fun _ _ => metered, fun _ hb => ⟨hcy, hm (by rw [hb]; decide)⟩,
    fun _ hb => ⟨hm (by rw [hb]; decide), fun _ => ?_⟩⟩
  rw [hcy, Nat.zero_mul]
  exact metered

/-! ### Targets -/

theorem nextTarget_pos (hc : 1 ≤ (s.channel c).cfg.target) : 1 ≤ s.nextTarget c := by
  unfold State.nextTarget
  dsimp only
  split
  · exact le_max_left _ _
  · exact hc

theorem nextTarget_cfg (hm : (s.channel c).cfg.mode ≠ .val .ratio) : s.nextTarget c = (s.channel c).cfg.target := by
  unfold State.nextTarget
  dsimp only
  split
  · rename_i h
    exact absurd h hm
  · rfl

/-- R111: the record after a target is loaded. -/
theorem Became.loadTarget (h : Became s t c y) (hc : c < s.channels.length) :
    ∃ a, Became s (t.loadTarget c) c { y with target := t.nextTarget c, accumulator := a } := by
  have loaded := h.mod hc fun x => { x with
    target := t.nextTarget c,
    accumulator := match x.cfg.mode with
      | .val .ratio => 0
      | _ => x.accumulator }
  exact ⟨_, loaded⟩

/-! ### The invariant -/

/-- The channels' figures, and the targets in the configuration, in the image and in the snapshot of a save. -/
structure State.MetersHold (s : State) : Prop where
  targets : ∀ c, (s.channel c).cfg.configured = true → 1 ≤ (s.channel c).cfg.target
  image : s.port.image.TargetsHold
  snapshot : ∀ x, s.port.save = some x → x.snapshot.TargetsHold
  counts : ∀ c, (s.channel c).Counts

theorem State.MetersHold.banks (h : s.MetersHold) : s.settings.TargetsHold := fun i _ hcf => by
  rw [channelCfg_settings] at hcf ⊢
  exact h.targets i hcf

theorem channel_beyond (hc : s.channels.length ≤ c) : s.channel c = Channel.start .blank := by
  rw [State.channel, List.getD_eq_getElem?_getD, List.getElem?_eq_none hc, Option.getD_none]

/-- What `Safe` says of the channels, said of every index. -/
theorem State.MetersHold.of_banks (hl : s.channels.length = 4) (hb : s.settings.TargetsHold) (hi : s.port.image.TargetsHold)
    (hs : ∀ x, s.port.save = some x → x.snapshot.TargetsHold) (hc : ∀ c < 4, (s.channel c).Counts) : s.MetersHold := by
  refine ⟨fun c hcf => ?_, hi, hs, fun c => ?_⟩
  · by_cases h4 : c < 4
    · have := hb c h4
      rw [channelCfg_settings] at this
      exact this hcf
    · rw [channel_beyond (by omega)] at hcf
      cases hcf
  · by_cases h4 : c < 4
    · exact hc c h4
    · rw [channel_beyond (by omega)]
      exact .disabled rfl le_rfl

theorem State.MetersHold.of_eq (h : s.MetersHold) (hc : t.channels = s.channels) (hi : t.port.image = s.port.image)
    (hs : t.port.save = s.port.save) : t.MetersHold := by
  have hch : ∀ i, t.channel i = s.channel i := fun i => by unfold State.channel; rw [hc]
  exact ⟨fun i => (hch i) ▸ h.targets i, hi ▸ h.image, hs ▸ h.snapshot, fun i => (hch i) ▸ h.counts i⟩

theorem State.MetersHold.alarmsOnly (h : s.MetersHold) (ht : AlarmsOnly s t) : t.MetersHold := by
  refine h.of_eq ?_ ?_ ?_ <;> rw [ht.2]

/-- One channel's record becomes another whose target and figures hold. -/
theorem State.MetersHold.became (h : s.MetersHold) (hb : Became s t c y) (ht : y.cfg.configured = true → 1 ≤ y.cfg.target)
    (hy : y.Counts) : t.MetersHold := by
  refine ⟨fun i => ?_, hb.image ▸ h.image, hb.save ▸ h.snapshot, fun i => ?_⟩ <;> by_cases hi : i = c
  · rw [hi, hb.self]; exact ht
  · rw [hb.rest i hi]; exact h.targets i
  · rw [hi, hb.self]; exact hy
  · rw [hb.rest i hi]; exact h.counts i

/-- A record that is changed within its bank. -/
theorem State.MetersHold.modified (h : s.MetersHold) (c : Nat) {f : Channel → Channel}
    (ht : (f (s.channel c)).cfg.configured = true → 1 ≤ (f (s.channel c)).cfg.target) (hf : (f (s.channel c)).Counts) :
    (s.modChannel c f).MetersHold := by
  by_cases hc : c < s.channels.length
  · exact h.became ((Became.refl s c).mod hc f) ht hf
  · exact h.of_eq (List.modify_eq_self (by omega)) rfl rfl

theorem State.MetersHold.modChannel (h : s.MetersHold) {f : Channel → Channel}
    (hf : (s.channel c).Keeps (f (s.channel c))) : (s.modChannel c f).MetersHold :=
  h.modified c (by rw [hf.1]; exact h.targets c) ((h.counts c).keeps hf)

/-! ### A start -/

theorem length_of_configured (hcf : (s.channel c).cfg.configured = true) : c < s.channels.length := by
  by_contra hc
  rw [channel_beyond (by omega)] at hcf
  cases hcf

/-- R112: the figures after a start, whatever state it enters. -/
theorem startChannel_became (hcf : (s.channel c).cfg.configured = true) :
    ∃ a st now, Became s (s.startChannel c) c (Channel.inState { s.channel c with
      target := s.nextTarget c, remaining := s.nextTarget c, counted := 0, cycles := 0, overshoot := 0, lastMeter := none,
      autoPending := false, accumulator := a } now st) := by
  have hc := length_of_configured hcf
  obtain ⟨a, loaded⟩ := (Became.refl s c).loadTarget hc
  have begun := loaded.mod hc fun x =>
    { x with remaining := x.target, counted := 0, cycles := 0, overshoot := 0, lastMeter := none, autoPending := false }
  unfold State.startChannel
  dsimp only
  split
  · exact ⟨a, _, _, begun.enterChannel hc _⟩
  · split
    · exact ⟨a, _, _, (begun.moveDuty c).enterChannel hc _⟩
    · exact ⟨a, _, _, (begun.enterChannel hc _).alarmsOnly (raiseAlarm_only _ _ _ _)⟩

theorem State.MetersHold.startChannel (h : s.MetersHold) (hcf : (s.channel c).cfg.configured = true) :
    (s.startChannel c).MetersHold := by
  obtain ⟨a, st, now, hb⟩ := startChannel_became hcf
  have pos := h.targets c hcf
  refine h.became hb (fun _ => pos) ?_
  exact .fresh pos (nextTarget_pos pos) rfl rfl rfl rfl fun hm => nextTarget_cfg hm

/-! ### A metered reading -/

/-- What the figures say while `excess` of a reading is still to be set against the next target: the cycle just ended is not yet
counted. -/
structure Channel.Ended (x : Channel) (excess : Nat) : Prop where
  running : x.state ≠ .disabled
  started : x.overshoot = 0 ∧ 1 ≤ x.cfg.target
  batch : x.cfg.mode = .val .batch → x.cycles = 0
  cycle : x.cfg.mode = .val .cycle → x.target = x.cfg.target ∧ (x.cycles < 65535 →
    x.counted % 4294967296 = (x.cycles * x.target + x.target + excess) % 4294967296)

theorem Became.countCycle (h : Became s t c y) (hc : c < s.channels.length) :
    Became s (t.countCycle c) c { y with cycles := holdAdd 65535 y.cycles 1 } := by
  have counted := h.mod hc fun x => { x with cycles := holdAdd 65535 x.cycles 1 }
  unfold State.countCycle
  dsimp only
  split
  · exact counted.notice _
  · exact counted

/-- R111, R115: a cycle is counted and the next target loaded. -/
theorem Became.nextCycle (h : Became s t c y) (hc : c < s.channels.length) (hpos : 1 ≤ y.cfg.target) :
    ∃ z, Became s ((t.countCycle c).loadTarget c) c z ∧ z.cfg = y.cfg ∧ z.state = y.state ∧ z.counted = y.counted
      ∧ z.overshoot = y.overshoot ∧ z.cycles = min 65535 (y.cycles + 1) ∧ 1 ≤ z.target
      ∧ (y.cfg.mode ≠ .val .ratio → z.target = y.cfg.target) := by
  have counted := h.countCycle hc
  obtain ⟨a, loaded⟩ := counted.loadTarget hc
  refine ⟨_, loaded, rfl, rfl, rfl, rfl, rfl, nextTarget_pos ?_, fun hm => ?_⟩
  · rw [counted.self]; exact hpos
  · exact (nextTarget_cfg (by rw [counted.self]; exact hm)).trans (by rw [counted.self])

/-- R115: cycles complete while the excess covers the target last loaded. -/
theorem Became.completeCycles {n excess : Nat} (h : Became s t c y) (hc : c < s.channels.length) (he : y.Ended excess)
    (hn : excess < n) : ∃ z, Became s (t.completeCycles n c excess) c z ∧ z.cfg = y.cfg ∧ z.Counts := by
  induction n generalizing excess t y with
  | zero => omega
  | succ n ih =>
    obtain ⟨z, next, hcfg, hst, hcount, hover, hcycles, pos, onCfg⟩ := h.nextCycle hc he.started.2
    unfold State.completeCycles
    dsimp only
    rw [next.self, (h.countCycle hc).self]
    split
    · exact ⟨_, ((h.countCycle hc).mod hc fun x => { x with overshoot := excess, target := 0, remaining := 0 }).disableChannel hc,
        rfl, .disabled rfl le_rfl⟩
    · rename_i hb
      have hb : y.cfg.mode ≠ .val .batch := hb
      have law : y.cfg.mode = .val .cycle → z.target = z.cfg.target ∧ (z.cycles < 65535 →
          z.counted % 4294967296 = (z.cycles * z.target + excess) % 4294967296) := fun hm => by
        obtain ⟨ht, hlaw⟩ := he.cycle hm
        have hz : z.target = y.target := (onCfg (by rw [hm]; decide)).trans ht.symm
        refine ⟨by rw [hz, hcfg, ht], fun hlt => ?_⟩
        have hy : z.cycles = y.cycles + 1 := by omega
        rw [hcount, hlaw (by omega), hy, hz, Nat.succ_mul]
      split
      · rename_i hle
        obtain ⟨w, hw, hwcfg, hwc⟩ := ih (excess := excess - z.target) next
          ⟨hst ▸ he.running, by rw [hover, hcfg]; exact he.started, fun hm => absurd (hcfg ▸ hm) hb, fun hm => by
            obtain ⟨ht, hlaw⟩ := law (hcfg ▸ hm)
            refine ⟨ht, fun hlt => ?_⟩
            rw [hlaw hlt, Nat.add_assoc, Nat.add_sub_cancel' hle]⟩ (by omega)
        exact ⟨w, hw, hwcfg.trans hcfg, hwc⟩
      · rename_i hlt
        refine ⟨_, next.mod hc fun x => { x with remaining := z.target - excess }, hcfg, ?_⟩
        refine ⟨Nat.sub_le _ _, fun _ => ⟨hover.trans he.started.1, by dsimp only; omega, by dsimp only; rw [hcfg]; exact he.started.2⟩,
          fun _ hz => ?_, fun _ hm => absurd (hcfg ▸ hm) hb, fun _ hm => ?_⟩
        · have hz : z.cycles = 0 := hz
          omega
        · obtain ⟨ht, hlaw⟩ := law (hcfg ▸ hm)
          refine ⟨ht, fun hlt' => ⟨?_, Nat.sub_le _ _⟩⟩
          have := hlaw hlt'
          have ho := hover.trans he.started.1
          dsimp only
          rw [ho]
          generalize z.cycles * z.target = sum at *
          omega

/-- R114, R115: a metered reading leaves figures that hold. -/
theorem meter_became (h : (s.channel c).Counts) (v : Nat) :
    s.meter c v = s ∨ ∃ z, Became s (s.meter c v) c z ∧ z.cfg = (s.channel c).cfg ∧ z.Counts := by
  unfold State.meter
  dsimp only
  split
  · exact .inl rfl
  · rename_i hs
    have hc : c < s.channels.length := by
      by_contra hc
      rw [channel_beyond (by omega)] at hs
      exact hs rfl
    have noted := (Became.refl s c).mod hc fun x => { x with lastMeter := some v }
    right
    split
    · exact ⟨_, noted, rfl, h.keeps ⟨rfl, rfl, rfl, rfl, rfl, rfl, .inr hs⟩⟩
    · rename_i last _
      have summed := noted.mod hc fun x => { x with counted := (x.counted + (v + 65536 - last) % 65536) % 4294967296 }
      unfold State.meterDelta
      dsimp only
      rw [summed.self]
      generalize (v + 65536 - last) % 65536 = delta at *
      split
      · rename_i hlt
        have hlt : delta < (s.channel c).remaining := hlt
        have moved : ∀ sum, (s.channel c).Metered sum →
            ((s.channel c).counted + delta) % 4294967296 % 4294967296 = ((s.channel c).counted + delta) % 4294967296
            ∧ (((s.channel c).counted + delta) % 4294967296 + ((s.channel c).remaining - delta)) % 4294967296
              = (sum + (s.channel c).target + (s.channel c).overshoot) % 4294967296 := fun sum hm => by
          have := hm.1
          omega
        have hw := h.within
        have hr := h.started hs
        refine ⟨_, summed.mod hc fun x => { x with remaining := (s.channel c).remaining - delta }, rfl, ⟨?_, ?_, ?_, ?_, ?_⟩⟩
        · show (s.channel c).remaining - delta ≤ (s.channel c).target
          omega
        · exact fun _ => ⟨hr.1, by dsimp only; omega, hr.2.2⟩
        · exact fun _ hz => ⟨(moved 0 (h.first hs hz)).2, by dsimp only; omega⟩
        · exact fun _ hm => h.batch hs hm
        · exact fun _ hm => ⟨(h.cycle hs hm).1, fun hlt' => ⟨(moved _ ((h.cycle hs hm).2 hlt')).2, by dsimp only; omega⟩⟩
      · rename_i hge
        have hge : ¬ delta < (s.channel c).remaining := hge
        refine summed.completeCycles hc ⟨hs, ⟨(h.started hs).1, (h.started hs).2.2⟩, fun hm => (h.batch hs hm).1, fun hm => ?_⟩
          (Nat.lt_succ_self _)
        obtain ⟨ht, hlaw⟩ := h.cycle hs hm
        refine ⟨ht, fun hlt => ?_⟩
        have := (hlaw hlt).1
        have ho := (h.started hs).1
        have hw := h.within
        dsimp only
        generalize (s.channel c).cycles * (s.channel c).target = sum at *
        rw [ho] at this
        omega

theorem State.MetersHold.meter (h : s.MetersHold) (c v : Nat) : (s.meter c v).MetersHold := by
  rcases meter_became (h.counts c) v with heq | ⟨z, hb, hcfg, hz⟩
  · rwa [heq]
  · exact h.became hb (by rw [hcfg]; exact h.targets c) hz

/-! ### Every command -/

theorem blank_targets : Settings.blank.TargetsHold := by
  unfold Settings.TargetsHold
  decide

theorem State.MetersHold.rewriteChannel (h : s.MetersHold) {i : Nat} {cfg : ChannelCfg} (hs : (s.channel i).state = .disabled)
    (ok : s.channelOk i cfg = true) : (s.rewriteChannel i cfg).MetersHold := by
  obtain ⟨f, hf⟩ := rewriteChannel_eq s i cfg
  have written : (s.modChannel i (·.rewritten cfg)).MetersHold := by
    refine h.modified i (fun hcf => ?_) (.disabled hs (h.counts i).within)
    have hcf : cfg.configured = true := hcf
    simp only [State.channelOk, hcf, Bool.not_true, Bool.false_or, Bool.and_eq_true, channelRanges, within,
      decide_eq_true_eq] at ok
    exact ok.1.1.1.1.1.1.1.1.1.1.1.2.1
  exact written.of_eq (by rw [hf]) (by rw [hf]) (by rw [hf])

theorem State.MetersHold.joinPair (h : s.MetersHold) (k : Nat) : (s.joinPair k).MetersHold := by
  obtain ⟨f, hf⟩ := joinPair_eq s k
  have joined : ((s.modPair k fun p => { p with joined := true }).modChannel (2 * k + 1) fun x =>
      { x with autoPending := false }).MetersHold :=
    (h.of_eq (t := s.modPair k fun p => { p with joined := true }) rfl rfl rfl).modChannel
      ⟨rfl, rfl, rfl, rfl, rfl, rfl, Classical.em _⟩
  exact joined.of_eq (by rw [hf]) (by rw [hf]) (by rw [hf])

theorem State.MetersHold.partPair (h : s.MetersHold) (k : Nat) : (s.partPair k).MetersHold := by
  obtain ⟨f, hf⟩ := partPair_eq s k
  have parted : ((s.modPair k fun p => { p with joined := false }).modChannel (2 * k + 1) fun x =>
      Channel.start x.cfg).MetersHold :=
    (h.of_eq (t := s.modPair k fun p => { p with joined := false }) rfl rfl rfl).modified (2 * k + 1)
      (h.targets (2 * k + 1)) (.disabled rfl le_rfl)
  exact parted.of_eq (by rw [hf]) (by rw [hf]) (by rw [hf])

/-- A start loads DISABLED channels with no figures. -/
theorem State.MetersHold.load (h : s.MetersHold) (kind : StartKind) : (s.load kind).MetersHold := by
  have image : (if s.port.imageOk then s.port.image else Settings.blank).TargetsHold := by
    split
    · exact h.image
    · exact blank_targets
  have hl : (s.load kind).channels.length = 4 := by simp [State.load, startChannels]
  have hc : ∀ i < 4, ((s.load kind).channel i).cfg
        = (if s.port.imageOk then s.port.image else Settings.blank).channels.getD i .blank
      ∧ ((s.load kind).channel i).state = .disabled ∧ ((s.load kind).channel i).remaining = 0 := fun i hi => by
    simp [State.channel, State.load, startChannels, List.getD_eq_getElem?_getD, hi, Channel.start]
  refine .of_banks hl (fun i hi => ?_) h.image (fun x hx => by cases hx) fun i hi =>
    .disabled (hc i hi).2.1 ((hc i hi).2.2 ▸ Nat.zero_le _)
  rw [channelCfg_settings, (hc i hi).1]
  exact image i hi

theorem metersHold_shell : Shell State.MetersHold where
  station _ _ h := h.of_eq rfl rfl rfl
  group _ _ h := h.of_eq rfl rfl rfl
  without _ h := h.of_eq rfl rfl rfl
  point _ _ h := h.of_eq rfl rfl rfl
  lane _ _ h := h.of_eq rfl rfl rfl
  zone _ _ h := h.of_eq rfl rfl rfl
  blower _ _ _ h := h.of_eq rfl rfl rfl
  start _ _ _ h := h.of_eq rfl rfl rfl
  channel _ _ hf h := h.modChannel hf
  startChannel _ hcf h := h.startChannel hcf
  meter c v h := h.meter c v
  pair _ _ _ h := h.of_eq rfl rfl rfl
  storm _ h := h.of_eq rfl rfl rfl
  pool _ h := h.of_eq rfl rfl rfl
  flc _ _ h := h.of_eq rfl rfl rfl
  flags _ _ h := h.of_eq rfl rfl rfl
  notice n h := by rw [offerNotice_eq]; exact h.of_eq rfl rfl rfl
  express e h := by rw [offerExpress_eq]; exact h.of_eq rfl rfl rfl
  forward e h := by rw [offerForward_eq]; exact h.of_eq rfl rfl rfl
  raise code src v h := h.alarmsOnly (raiseAlarm_only _ code src v)
  clear code src h := h.alarmsOnly (clearAlarm_only _ code src)
  ack code src h := h.alarmsOnly (ackAlarm_only _ code src)
  passage _ h := h.of_eq rfl rfl rfl
  put t d c _ _ h := by unfold State.putPassage; split <;> exact h.of_eq rfl rfl rfl
  rewriteChannel _ _ _ _ hs ok h := h.rewriteChannel hs ok
  joinPair k _ _ h := h.joinPair k
  partPair k h := h.partPair k
  port _ _ _ hi hs h := by
    refine ⟨h.targets, ?_, fun x hx => ?_, h.counts⟩
    · rcases hi with hi | ⟨x, hx, hi⟩
      · exact hi ▸ h.image
      · exact hi ▸ h.snapshot x hx
    · rcases hs with hs | hs
      · exact h.snapshot x (hs ▸ hx)
      · simp [hs] at hx
  save _ h := ⟨h.targets, h.image, fun x hx => by cases hx; exact h.banks, h.counts⟩
  load kind h := h.load kind
  cold _ _ h := h.of_eq rfl rfl rfl
  warm h := h.of_eq rfl rfl rfl

end Sys2Proof.Machine
end

