-- ==== Sys2Proof/Laws/PerInstr.lean ====
section
/-! SUPPORT. Facts stated of every command, one lemma for each constructor. -/

namespace Sys2Proof.Laws.RequestFitsItsFrame

open Sys2Proof Sys2Proof.Machine

/-- A well-formed command that stands for a request stands for one whose arguments fit a REQUEST payload (R179). -/
def Statement (i : Instr) : Prop := i.wf = true → ∀ q, i.request = some q → q.body.wf = true

theorem powerOn : ∀ a b, Statement (.powerOn a b) :=
  fun _ _ _ _ hq => by cases hq

theorem resetPin : ∀ a b, Statement (.resetPin a b) :=
  fun _ _ _ _ hq => by cases hq

theorem saveWriteComplete : ∀ a, Statement (.saveWriteComplete a) :=
  fun _ _ _ hq => by cases hq

theorem plantFrameReceived : ∀ a, Statement (.plantFrameReceived a) :=
  fun _ _ _ hq => by cases hq

theorem plantFrameSent : Statement (.plantFrameSent) :=
  fun _ _ hq => by cases hq

theorem framingIdleTimeout : ∀ a, Statement (.framingIdleTimeout a) :=
  fun _ _ _ hq => by cases hq

theorem pollSent : Statement (.pollSent) :=
  fun _ _ hq => by cases hq

theorem fieldFrameReceived : ∀ a, Statement (.fieldFrameReceived a) :=
  fun _ _ _ hq => by cases hq

theorem answerWindowExpiry : Statement (.answerWindowExpiry) :=
  fun _ _ hq => by cases hq

theorem roundTimerExpiry : Statement (.roundTimerExpiry) :=
  fun _ _ hq => by cases hq

theorem staleTimerExpiry : ∀ a, Statement (.staleTimerExpiry a) :=
  fun _ _ _ hq => by cases hq

theorem trimTimerExpiry : ∀ a, Statement (.trimTimerExpiry a) :=
  fun _ _ _ hq => by cases hq

theorem startGraceExpiry : ∀ a, Statement (.startGraceExpiry a) :=
  fun _ _ _ hq => by cases hq

theorem rampTimeElapsed : ∀ a, Statement (.rampTimeElapsed a) :=
  fun _ _ _ hq => by cases hq

theorem rampTimerExpiry : ∀ a, Statement (.rampTimerExpiry a) :=
  fun _ _ _ hq => by cases hq

theorem runDownEnd : ∀ a, Statement (.runDownEnd a) :=
  fun _ _ _ hq => by cases hq

theorem allocationTimerExpiry : Statement (.allocationTimerExpiry) :=
  fun _ _ hq => by cases hq

theorem pauseLimitExpiry : ∀ a, Statement (.pauseLimitExpiry a) :=
  fun _ _ _ hq => by cases hq

theorem entryConfirmExpiry : Statement (.entryConfirmExpiry) :=
  fun _ _ hq => by cases hq

theorem holdTimerExpiry : Statement (.holdTimerExpiry) :=
  fun _ _ hq => by cases hq

theorem exitConfirmExpiry : Statement (.exitConfirmExpiry) :=
  fun _ _ hq => by cases hq

theorem deadlineExpiry : ∀ a, Statement (.deadlineExpiry a) :=
  fun _ _ _ hq => by cases hq

theorem escalationExpiry : ∀ a b, Statement (.escalationExpiry a b) :=
  fun _ _ _ _ hq => by cases hq

theorem malformedRequest : ∀ a b, Statement (.malformedRequest a b) :=
  fun _ _ hw _ hq => by cases hq; exact hw

theorem identify : ∀ a, Statement (.identify a) :=
  fun _ hw _ hq => by cases hq; exact hw

theorem mapWrite : ∀ a b c d e f, Statement (.mapWrite a b c d e f) :=
  fun _ _ _ _ _ _ hw _ hq => by cases hq; exact hw

theorem mapRead : ∀ a b, Statement (.mapRead a b) :=
  fun _ _ hw _ hq => by cases hq; exact hw

theorem mapClear : ∀ a b, Statement (.mapClear a b) :=
  fun _ _ hw _ hq => by cases hq; exact hw

theorem groupWrite : ∀ a b c d, Statement (.groupWrite a b c d) :=
  fun _ _ _ _ hw _ hq => by cases hq; exact hw

theorem pointWrite : ∀ a b c, Statement (.pointWrite a b c) :=
  fun _ _ _ hw _ hq => by cases hq; exact hw

theorem pointRead : ∀ a b, Statement (.pointRead a b) :=
  fun _ _ hw _ hq => by cases hq; exact hw

theorem rosterLoad : ∀ a b, Statement (.rosterLoad a b) :=
  fun _ _ hw _ hq => by cases hq; exact hw

theorem rosterRead : ∀ a, Statement (.rosterRead a) :=
  fun _ hw _ hq => by cases hq; exact hw

theorem lineWrite : ∀ a b, Statement (.lineWrite a b) :=
  fun _ _ hw _ hq => by cases hq; exact hw

theorem expressRead : ∀ a b, Statement (.expressRead a b) :=
  fun _ _ hw _ hq => by cases hq; exact hw

theorem stationCounters : ∀ a b c, Statement (.stationCounters a b c) :=
  fun _ _ _ hw _ hq => by cases hq; exact hw

theorem laneWrite : ∀ a b c, Statement (.laneWrite a b c) :=
  fun _ _ _ hw _ hq => by cases hq; exact hw

theorem laneServiceOff : ∀ a b, Statement (.laneServiceOff a b) :=
  fun _ _ hw _ hq => by cases hq; exact hw

theorem laneServiceOn : ∀ a b, Statement (.laneServiceOn a b) :=
  fun _ _ hw _ hq => by cases hq; exact hw

theorem zoneWrite : ∀ a b c, Statement (.zoneWrite a b c) :=
  fun _ _ _ hw _ hq => by cases hq; exact hw

theorem zoneRead : ∀ a b, Statement (.zoneRead a b) :=
  fun _ _ hw _ hq => by cases hq; exact hw

theorem blowerWrite : ∀ a b c, Statement (.blowerWrite a b c) :=
  fun _ _ _ hw _ hq => by cases hq; exact hw

theorem blowerRead : ∀ a b, Statement (.blowerRead a b) :=
  fun _ _ hw _ hq => by cases hq; exact hw

theorem blowerLockoutOn : ∀ a b, Statement (.blowerLockoutOn a b) :=
  fun _ _ hw _ hq => by cases hq; exact hw

theorem blowerLockoutOff : ∀ a b, Statement (.blowerLockoutOff a b) :=
  fun _ _ hw _ hq => by cases hq; exact hw

theorem blowerReset : ∀ a b, Statement (.blowerReset a b) :=
  fun _ _ hw _ hq => by cases hq; exact hw

theorem poolWrite : ∀ a b, Statement (.poolWrite a b) :=
  fun _ _ hw _ hq => by cases hq; exact hw

theorem dutyOrder : ∀ a b, Statement (.dutyOrder a b) :=
  fun _ _ hw _ hq => by cases hq; exact hw

theorem dutyRotate : ∀ a, Statement (.dutyRotate a) :=
  fun _ hw _ hq => by cases hq; exact hw

theorem grantsRead : ∀ a, Statement (.grantsRead a) :=
  fun _ hw _ hq => by cases hq; exact hw

theorem channelWrite : ∀ a b c, Statement (.channelWrite a b c) :=
  fun _ _ _ hw _ hq => by cases hq; exact hw

theorem channelStart : ∀ a b, Statement (.channelStart a b) :=
  fun _ _ hw _ hq => by cases hq; exact hw

theorem channelStop : ∀ a b, Statement (.channelStop a b) :=
  fun _ _ hw _ hq => by cases hq; exact hw

theorem channelRead : ∀ a b, Statement (.channelRead a b) :=
  fun _ _ hw _ hq => by cases hq; exact hw

theorem pairSet : ∀ a b c, Statement (.pairSet a b c) :=
  fun _ _ _ hw _ hq => by cases hq; exact hw

theorem dutySwap : ∀ a b, Statement (.dutySwap a b) :=
  fun _ _ hw _ hq => by cases hq; exact hw

theorem stormWrite : ∀ a b, Statement (.stormWrite a b) :=
  fun _ _ hw _ hq => by cases hq; exact hw

theorem stormForce : ∀ a b, Statement (.stormForce a b) :=
  fun _ _ hw _ hq => by cases hq; exact hw

theorem stormRead : ∀ a, Statement (.stormRead a) :=
  fun _ hw _ hq => by cases hq; exact hw

theorem handDrive : ∀ a b c d e f, Statement (.handDrive a b c d e f) :=
  fun _ _ _ _ _ _ hw _ hq => by cases hq; exact hw

theorem handRelease : ∀ a b c, Statement (.handRelease a b c) :=
  fun _ _ _ hw _ hq => by cases hq; exact hw

theorem handRead : ∀ a, Statement (.handRead a) :=
  fun _ hw _ hq => by cases hq; exact hw

theorem alarmList : ∀ a b, Statement (.alarmList a b) :=
  fun _ _ hw _ hq => by cases hq; exact hw

theorem alarmAck : ∀ a b c d, Statement (.alarmAck a b c d) :=
  fun _ _ _ _ hw _ hq => by cases hq; exact hw

theorem alarmAckClass : ∀ a b, Statement (.alarmAckClass a b) :=
  fun _ _ hw _ hq => by cases hq; exact hw

theorem silence : ∀ a, Statement (.silence a) :=
  fun _ hw _ hq => by cases hq; exact hw

theorem classMapWrite : ∀ a b c, Statement (.classMapWrite a b c) :=
  fun _ _ _ hw _ hq => by cases hq; exact hw

theorem escalationWrite : ∀ a b, Statement (.escalationWrite a b) :=
  fun _ _ hw _ hq => by cases hq; exact hw

theorem save : ∀ a, Statement (.save a) :=
  fun _ hw _ hq => by cases hq; exact hw

theorem restart : ∀ a, Statement (.restart a) :=
  fun _ hw _ hq => by cases hq; exact hw

end Sys2Proof.Laws.RequestFitsItsFrame
end

