-- ==== Sys2Proof/Tests/Slice0.lean ====
section
/-! SUPPORT. The model's own tests: an ill-formed command for every check of `Instr.wf`, the spec's own figures, and for each
statement of Certificates/Slice0/Obligations.lean a state and operands that meet its hypotheses, clause by clause. -/

/- Each test waits for every proof before it: checked side by side, the tests hold one thread and its stack each. -/
set_option Elab.async false

namespace Sys2Proof.Tests

open Sys2Proof Sys2Proof.Machine

/-! ### Well-formed and ill-formed commands -/

def hdr : Hdr := ⟨0x10, 0x01⟩

/-- Events name what the part has, and frames have a length the framing can deliver. -/
theorem test_wf_events :
    (Instr.staleTimerExpiry 127).wf = true ∧ (Instr.staleTimerExpiry 128).wf = false
      ∧ (Instr.trimTimerExpiry 24).wf = false ∧ (Instr.startGraceExpiry 6).wf = false
      ∧ (Instr.rampTimeElapsed 6).wf = false ∧ (Instr.rampTimerExpiry 6).wf = false ∧ (Instr.runDownEnd 6).wf = false
      ∧ (Instr.pauseLimitExpiry 4).wf = false ∧ (Instr.deadlineExpiry ⟨.zone, 24⟩).wf = false
      ∧ (Instr.deadlineExpiry ⟨.pump, 47⟩).wf = true ∧ (Instr.deadlineExpiry ⟨.pump, 48⟩).wf = false
      ∧ (Instr.escalationExpiry .stationLost (.zone 1)).wf = false
      ∧ (Instr.escalationExpiry .stationLost (.station 48)).wf = false
      ∧ (Instr.plantFrameReceived (List.replicate 7 0)).wf = false
      ∧ (Instr.plantFrameReceived (List.replicate 249 0)).wf = false
      ∧ (Instr.fieldFrameReceived (List.replicate 3 0)).wf = false
      ∧ (Instr.fieldFrameReceived (List.replicate 45 0)).wf = false := by decide +kernel

/-- A request whose arguments no payload can carry. -/
theorem test_wf_requests :
    (Instr.mapRead hdr 256).wf = false ∧ (Instr.mapWrite hdr 0 65536 (.val .probe) false false).wf = false
      ∧ (Instr.mapWrite hdr 0 1 (.unlisted 3) false false).wf = false
      ∧ (Instr.mapWrite hdr 256 1 (.val .pump) false false).wf = false
      ∧ (Instr.groupWrite hdr 256 [] none).wf = false ∧ (Instr.groupWrite hdr 0 [256] none).wf = false
      ∧ (Instr.groupWrite hdr 0 [] (some 256)).wf = false
      ∧ (Instr.groupWrite hdr 0 (List.replicate 236 0) none).wf = false
      ∧ (Instr.rosterLoad hdr [⟨.station 48, .read, 1, 0⟩]).wf = false
      ∧ (Instr.rosterLoad hdr [⟨.group 208, .drive, 1, 0⟩]).wf = false
      ∧ (Instr.rosterLoad hdr [⟨.station 0, .read, 3, 0⟩]).wf = false
      ∧ (Instr.rosterLoad hdr [⟨.station 0, .read, 1, 8⟩]).wf = false
      ∧ (Instr.rosterLoad hdr (List.replicate 120 ⟨.station 0, .read, 1, 0⟩)).wf = false
      ∧ (Instr.lineWrite hdr ⟨65536, 0, 0, 0⟩).wf = false ∧ (Instr.stormForce hdr (.unlisted 2)).wf = false
      ∧ (Instr.dutyOrder hdr [256]).wf = false ∧ (Instr.dutyOrder hdr (List.replicate 239 0)).wf = false
      ∧ (Instr.handDrive hdr (.unlisted 1) 0 (.val .run) 0 (.val .t10)).wf = false
      ∧ (Instr.handDrive hdr (.val .zone) 0 (.unlisted 2) 0 (.val .t10)).wf = false
      ∧ (Instr.handDrive hdr (.val .zone) 0 (.val .position) 65536 (.val .t10)).wf = false
      ∧ (Instr.handDrive hdr (.val .zone) 0 (.val .position) 0 (.unlisted 3)).wf = false
      ∧ (Instr.handRelease hdr (.val .zone) 256).wf = false ∧ (Instr.alarmList hdr 65536).wf = false
      ∧ (Instr.alarmAck hdr (.unlisted 22) 0 0).wf = false ∧ (Instr.alarmAck hdr (.val .doLow) 256 0).wf = false
      ∧ (Instr.alarmAckClass hdr (.unlisted 3)).wf = false
      ∧ (Instr.classMapWrite hdr .default (List.replicate 22 (.val .minor))).wf = false
      ∧ (Instr.escalationWrite hdr 65536).wf = false ∧ (Instr.pairSet hdr 256 true).wf = false
      ∧ (Instr.malformedRequest hdr 9).wf = true ∧ Req.wf (.unreadableValue 1) = false := by decide +kernel

/-- Configuration records with a field that its bytes cannot carry. -/
theorem test_wf_records :
    PointCfg.blank.wf = true ∧ { PointCfg.blank with source := some ⟨256, 0⟩ }.wf = false
      ∧ { PointCfg.blank with kind := .unlisted 8 }.wf = false ∧ { PointCfg.blank with offset := 32768 }.wf = false
      ∧ { PointCfg.blank with offset := -32769 }.wf = false ∧ { PointCfg.blank with band := 65536 }.wf = false
      ∧ { PointCfg.blank with forward := .unlisted 2 }.wf = false
      ∧ LaneCfg.blank.wf = true ∧ { LaneCfg.blank with ammoniaPoint := some 256 }.wf = false
      ∧ { LaneCfg.blank with hysteresis := 65536 }.wf = false
      ∧ ZoneCfg.blank.wf = true ∧ { ZoneCfg.blank with valve := .group 208 }.wf = false
      ∧ { ZoneCfg.blank with release := .unlisted 1 }.wf = false ∧ { ZoneCfg.blank with gain := 65536 }.wf = false
      ∧ BlowerCfg.blank.wf = true ∧ { BlowerCfg.blank with station := 256 }.wf = false
      ∧ { BlowerCfg.blank with minStop := 65536 }.wf = false
      ∧ PoolCfg.default.wf = true ∧ { PoolCfg.default with policy := .unlisted 1 }.wf = false
      ∧ { PoolCfg.default with upDelay := 65536 }.wf = false
      ∧ ChannelCfg.blank.wf = true ∧ { ChannelCfg.blank with mode := .unlisted 2 }.wf = false
      ∧ { ChannelCfg.blank with target := 65536 }.wf = false
      ∧ StormCfg.default.wf = true ∧ { StormCfg.default with minimumHold := 65536 }.wf = false := by decide +kernel

/-! ### The spec's own figures -/

/-- 11.3: the check value of the CRC over "123456789". -/
theorem test_crc_check_value :
    crc16 [0x31, 0x32, 0x33, 0x34, 0x35, 0x36, 0x37, 0x38, 0x39] = 0x29B1#16 := by decide +kernel

/-- No row of the table has bits. -/
theorem test_no_row_has_bits : decodeTableWord 8 0 = none ∧ decodeTableWord 16 65535 = none := ⟨rfl, rfl⟩

/-- An IDENTIFY written out byte by byte (Tables 61 and 69) is read as one, and as nothing with a bit changed. -/
theorem test_identify_frame :
    plantFrame 0x30 0x10 0x01 0x05 [0x01] = [0xA5, 0x01, 0x30, 0x10, 0x01, 0x05, 0x01] ++ crcBytes
        [0x01, 0x30, 0x10, 0x01, 0x05, 0x01]
      ∧ readPlantFrame (plantFrame 0x30 0x10 0x01 0x05 [0x01]) = .whole ⟨0x30, 0x10, 0x01, 0x05, [0x01]⟩
      ∧ readRequest [0x01] = .identify
      ∧ readPlantFrame ((plantFrame 0x30 0x10 0x01 0x05 [0x01]).set 6 0x03) = .rejected := by decide +kernel

/-- A MAP_WRITE payload byte by byte (R25, R179), one byte short, and with a flag byte of 2. -/
theorem test_map_write_payload :
    readRequest [0x02, 0x03, 0x00, 0x6F, 0x01, 0x00, 0x01] = .mapWrite 3 111 (.val .valve) false true
      ∧ readRequest [0x02, 0x03, 0x00, 0x6F, 0x01, 0x00] = .malformed 2
      ∧ readRequest [0x02, 0x03, 0x00, 0x6F, 0x01, 0x02, 0x01] = .unreadableValue 2
      ∧ readRequest [0x2D] = .malformed 45 := by decide +kernel

/-- An ALARM_ACK names its code by the place in Table 55 counted from 0 (R179), from the first code to one past the last. -/
theorem test_alarm_ack_payload :
    readRequest [0x26, 0x00, 0x00, 0x05] = .alarmAck (.val .stationLost) 0 5
      ∧ readRequest [0x26, 0x16, 0x07, 0x00] = .alarmAck (.val .settingsInvalid) 7 0
      ∧ readRequest [0x26, 0x17, 0x07, 0x00] = .alarmAck (.unlisted 23) 7 0 := by decide +kernel

/-- R159, R179: an ALARM_LIST report with no record is 12 bytes, each line state a byte of its own. -/
theorem test_alarm_list_report : (State.reset.alarmReport 63).length = 12 := by decide +kernel

/-! ### A small plant -/

/-- A configured station that has answered. -/
def live (i : Nat) (r : Role) : Station := { Station.start ⟨true, i + 1, r, false, false⟩ with health := .live }

/-- A bound point that is GOOD, read at 90. -/
def good (st ch : Nat) (k : Kind) (v : Nat) : Point :=
  { Point.start { PointCfg.blank with source := some ⟨st, ch⟩, kind := .val k, high := kindTop k } with
    value := v, validity := .good, lastTime := some 90, staleDeadline := some 100 }

def laneCfg : LaneCfg := { LaneCfg.blank with ammoniaPoint := some 1, thresholdA := 30, thresholdB := 60, hysteresis := 5 }
def zoneCfg : ZoneCfg :=
  { ZoneCfg.blank with configured := true, valve := .station 1, gain := 100, maxStep := 50, maxPos := 1000, fullOpenAir := 100 }
def blowerCfg : BlowerCfg := { BlowerCfg.blank with configured := true, station := 2, runPoint := 2 }
def channelCfg (pump volume : Nat) (level : Option Nat) : ChannelCfg :=
  { ChannelCfg.blank with configured := true, pump := pump, volumePoint := volume, levelPoint := level }

/-- One zone in AUTO, one blower RUNNING, two return channels, at uptime 100. -/
def demo : State :=
  { State.reset with
    uptime := 100,
    stations := [live 0 .probe, live 1 .valve, live 2 .blower, live 3 .pump, live 4 .pump]
      ++ List.replicate 43 (Station.start .blank),
    points := [good 0 0 .dissolvedOxygen 150, good 0 1 .nh4 50, good 2 0 .runstate 1, good 3 0 .volume 0,
        good 4 0 .volume 0, good 0 2 .level 500, good 0 3 .inflow 100, good 1 0 .position 400, good 1 1 .pressure 600]
      ++ List.replicate 119 (Point.start .blank),
    lanes := Lane.start 0 true laneCfg :: List.replicate 5 (Lane.start 0 false .blank),
    zones := { Zone.start 0 true zoneCfg with
        mode := .auto, desired := 300, cap := 1000, grant := 30, trimDeadline := some 100 }
      :: List.replicate 23 (Zone.start 0 false .blank),
    blowers := { Blower.start 0 false blowerCfg with state := .running, speed := 1000, runStart := some 0 }
      :: List.replicate 5 (Blower.start 0 false .blank),
    pool := { State.reset.pool with dutyOrder := [0], runList := [0], supply := 100, allocDeadline := some 100 },
    channels := [Channel.start (channelCfg 3 3 (some 5)), Channel.start (channelCfg 4 4 none)]
      ++ List.replicate 2 (Channel.start .blank) }

/-- The blower of the small plant in another state. -/
def demoBlower (st : BlowerState) (cause : Option TripCause := none) : State :=
  demo.modBlower 0 fun x => { x with state := st, tripCause := cause }

/-- The first channel of the small plant in another state. -/
def demoChannel (st : ChannelState) : State := demo.modChannel 0 fun x => { x with state := st }

/-- The small plant with its channels paired, the first one in a state. -/
def demoPair (st : ChannelState) : State := (demoChannel st).modPair 0 fun _ => ⟨true, .first⟩

/-- A turn to S1 from the roster, at its first poll of two. -/
def turn : Turn :=
  { fromRoster := true, station := 0, group := none, addr := 1, answerAddr := 1, payload := none, window := 10,
    retries := 1, retriesMade := 0, phase := .window }

/-- The small plant with a turn on the line. -/
def demoTurn (t : Turn) : State := demo.modFlc fun f => { f with turn := some t, passEnded := false }

/-- The small plant with zone 1 held, at 400, until 100. -/
def demoHeld : State :=
  { demo with hand := [⟨⟨.zone, 0⟩, .position 400, .t60, some 100, 40, 0⟩] }.modZone 0 fun x => { x with mode := .hand }

/-- The small plant with eight passages held. -/
def fullHand : State :=
  { demo with hand := (List.range 8).map fun i => ⟨⟨.pump, 40 + i⟩, .stop 0, .never, none, 0, 0⟩ }

/-- The small plant with zone 1 waiting, granted its whole mixing floor, before the first pass. -/
def demoWaiting : State :=
  (demo.modZone 0 fun x => { x with mode := .waiting, cfg := { x.cfg with mixingFloor := 30 } }).modPool fun p =>
    { p with firstPassDone := false }

/-- The small plant with the pumps of its first two channels held at RUN. -/
def demoPairHeld : State :=
  { demo with hand := [⟨⟨.pump, 3⟩, .run 0, .never, none, 0, 0⟩, ⟨⟨.pump, 4⟩, .run 0, .never, none, 0, 0⟩] }

/-- The first channel RUNNING in a mode, 40 of 100 left to count, last metered at 65500. -/
def metering (m : ChannelMode) : State := demo.modChannel 0 fun x =>
  { x with
    state := .running, cfg := { x.cfg with mode := .val m, target := 100, minLevel := 400 },
    target := 100, remaining := 40, counted := 60, lastMeter := some 65500 }

/-- The port of a state, with a frame on the transmitter. -/
def sending (s : State) (f : TxFrame) : State := s.modPort fun p => { p with tx := some f }

/-- An answer of S1 whose two readings go to the points 1 and 2, the second in a kind that is not the point's. -/
def twoReadings : Answer := ⟨1, 7, false, false, false, [⟨some .dissolvedOxygen, 0, 150⟩, ⟨some .level, 1, 5⟩]⟩

def aReply : Reply := ⟨0x10, 1, 1, .done, []⟩

/-! ### The hypotheses of the statements are met -/

theorem test_meets_StepKeepsTheBounds : Safe demo ∧ ∃ t, step demo = .next t :=
  ⟨⟨by unfold Settings.sized; decide +kernel, by unfold Settings.sized; decide +kernel, (fun _ h => nomatch h),
    ⟨by decide +kernel, by decide +kernel, by decide +kernel, by decide +kernel, by decide +kernel,
      ⟨by decide +kernel, by decide +kernel, by decide +kernel⟩⟩,
    ⟨by decide +kernel, by decide +kernel⟩, ⟨by decide +kernel, by decide +kernel, by decide +kernel⟩,
    ⟨fun i hi j hj => by interval_cases i <;> interval_cases j <;> decide +kernel, by decide +kernel⟩,
    ⟨fun i hi j hj => by interval_cases i <;> interval_cases j <;> decide +kernel, by decide +kernel⟩, (fun _ h => nomatch h),
    by unfold State.OnePumpRuns; decide +kernel, by unfold State.OneStarts; decide +kernel,
    by unfold Settings.TargetsHold; decide +kernel, by unfold Settings.TargetsHold; decide +kernel, (fun _ h => nomatch h),
    fun c hc => by
      interval_cases c <;> exact ⟨by decide +kernel, fun h => absurd (by decide +kernel) h, fun h => absurd (by decide +kernel) h,
        fun h => absurd (by decide +kernel) h, fun h => absurd (by decide +kernel) h⟩⟩, _, rfl⟩

/-- The laws of one pump and one start are put to the test: a pair whose first pump runs, a blower in STARTING. -/
theorem test_meets_OnePumpAndOneStart :
    let s := demoPair .running
    (s.pair 0).joined = true ∧ (s.channel 0).cfg.configured = true ∧ s.OnePumpRuns ∧ s.pumpCommandedRun 3 = true
      ∧ s.pumpCommandedRun 4 = false ∧ ((demoBlower .starting).blower 0).starting = true
      ∧ (demoBlower .starting).OneStarts := by
  unfold State.OnePumpRuns State.OneStarts; decide +kernel

theorem test_meets_StepKeepsTheGrants : demo.GrantsHold ∧ demo.grantSum = 30 ∧ demo.pool.settled = true
    ∧ (demoWaiting.zone 0).mode = .waiting ∧ (demoWaiting.zone 0).grant = (demoWaiting.zone 0).cfg.mixingFloor
    ∧ demoWaiting.GrantsHold ∧ (State.reset.modPool fun p => { p with settled := false, allocDeadline := none }).GrantsHold
    ∧ ∃ t, step demo = .next t := by
  refine ⟨⟨?_, ?_, ?_, ?_⟩, ?_, ?_, ?_, ?_, ⟨?_, ?_, ?_, ?_⟩, ⟨?_, ?_, ?_, ?_⟩, _, rfl⟩ <;> decide +kernel

theorem test_meets_plant_events : Instr.pollSent.isPlantEvent = true ∧ (Instr.deadlineExpiry ⟨.zone, 0⟩).isPlantEvent = true
    ∧ Instr.plantFrameSent.isPlantEvent = false := ⟨rfl, rfl, rfl⟩

/-- The port of the small plant takes a request the moment it arrives: the hypothesis of every request statement. -/
theorem test_meets_ready : demo.ready ∧ (demoBlower .tripped).ready ∧ (demoChannel .running).ready ∧ demoHeld.ready
    ∧ (sending demo (.reply aReply)).ready :=
  ⟨⟨rfl, rfl, by decide +kernel⟩, ⟨rfl, rfl, by decide +kernel⟩, ⟨rfl, rfl, by decide +kernel⟩, ⟨rfl, rfl, by decide +kernel⟩,
    ⟨rfl, rfl, by decide +kernel⟩⟩

theorem test_meets_RequestsAreDone : (Instr.identify hdr).request = some ⟨hdr, .identify⟩ ∧ Req.identify ≠ .save := by
  decide +kernel

theorem test_meets_PowerOn_and_Restart :
    Settings.blank.sized ∧ demo.port.imageOk = false
      ∧ (sending demo (.reply { aReply with code := 44 })).port.tx = some (.reply { aReply with code := 44 }) := by
  unfold Settings.sized; decide +kernel

/-- A start from the small plant's own settings: its blower holds the pool unsettled, its zone waits, and its pump may start by itself.
With the blower's station gone the pool settles at the start and the air is short of the zone's floor. A RESTART keeps the records of
a list with 48, the most that leave room for the 16 raises of a start. -/
theorem test_meets_Starts :
    let img := demo.settings
    let gone := { img with stations := img.stations.set 2 .blank, zones := img.zones.modify 0 fun c => { c with mixingFloor := 30 } }
    let record : AlarmRecord := ⟨.pointStale, .point 0, .major, .raisedUnack, 1, 0, 0, none, some 0⟩
    let kept := (List.range 48).map fun i => { record with source := .point i }
    img.sized ∧ img.settlesAtStart = false ∧ img.waitsAtStart 0 = true ∧ img.waitsAtStart 4 = false
      ∧ gone.tripsAtStart 0 = true ∧ gone.settlesAtStart = true ∧ gone.floorsAtStart = 30
      ∧ gone.raisesAtStart true .airShort .header = some (some 30) ∧ gone.raisesAtStart true .blowerLost (.blower 0) = some none
      ∧ gone.raisesAtStart true .settingsInvalid .works = none ∧ gone.raisesAtStart false .settingsInvalid .works = some none
      ∧ gone.clearsAtStart .blowerFault (.blower 0) = true ∧ img.clearsAtStart .blowerFault (.blower 0) = false
      ∧ img.clearsAtStart .pointStale (.point 0) = false ∧ img.clearsAtStart .pointStale (.point 9) = true
      ∧ (kept.map fun x => if x.state = .raisedUnack then { x with unack := some 100 } else x).length ≤ 48 := by
  unfold Settings.sized; decide +kernel

theorem test_meets_TransmitArbiter :
    (∀ f ∈ demo.port.tx, f.restartDone = false) ∧ demo.port.tx.isSome = true ∧ demo.port.requests = [] := by decide +kernel

/-- Requests that wait, one too few replies and one too many to take them up. -/
theorem test_meets_TransmitArbiter_waiting :
    let s := fun replies : Nat => (sending demo (.reply aReply)).modPort fun p =>
      { p with requests := [⟨hdr, .identify⟩, ⟨hdr, .silence⟩], replies := List.replicate replies aReply }
    (s 6).port.requests = ⟨hdr, .identify⟩ :: [⟨hdr, .silence⟩] ∧ (s 6).port.restartTaken = false
      ∧ (s 6).port.replies.length < 7 ∧ 7 ≤ (s 7).port.replies.length
      ∧ (∃ t, exec .plantFrameSent (s 6) = .next t ∧ t.port.requests = [] ∧ t.port.replies.length = 7) :=
  ⟨rfl, rfl, by decide +kernel, by decide +kernel, _, rfl, by decide +kernel, by decide +kernel⟩

theorem test_meets_RequestRows :
    (Instr.mapRead hdr 3).request = some ⟨hdr, .mapRead 3⟩ ∧ (Instr.mapRead hdr 3).wf = true
      ∧ (Req.mapRead 3).payload = some [0x03, 0x03] ∧ demo.port.plantAddr < 256 := by decide +kernel

theorem test_meets_RequestsThatWait :
    let s := fun (requests replies : Nat) (taken : Bool) => (sending demo (.reply aReply)).modPort fun p =>
      { p with requests := List.replicate requests ⟨hdr, .identify⟩, replies := List.replicate replies aReply, restartTaken := taken }
    (s 0 0 false).port.tx.isSome = true ∧ (4 ≤ (s 4 7 false).port.requests.length ∧ 7 ≤ (s 4 7 false).port.replies.length)
      ∧ (4 ≤ (s 4 6 true).port.requests.length ∧ (s 4 6 true).port.replies.length < 7 ∧ (s 4 6 true).port.restartTaken = true)
      ∧ ((s 3 7 false).port.requests.length < 4 ∧ 7 ≤ (s 3 7 false).port.replies.length)
      ∧ ((s 3 0 true).port.requests.length < 4 ∧ (s 3 0 true).port.restartTaken = true) := by decide +kernel

theorem test_meets_Save : demo.port.save = none := rfl

theorem test_meets_MapWrite :
    (∀ addr ∈ [6, 111], ∀ j ∈ List.range 48, j ≠ 5 → (demo.station j).cfg.configured = true → (demo.station j).cfg.addr ≠ addr)
      ∧ (demo.station 5).cfg.configured = false ∧ (demo.station 47).cfg.configured = false
      ∧ ((demo.station 0).cfg.configured = true ∧ (demo.station 0).cfg = ⟨true, 1, .probe, false, false⟩)
      ∧ (demo.point 0).cfg.source = some ⟨0, 0⟩ := by decide +kernel

/-- A station whose alarm flag goes up while it is LOST and LOCAL, one whose flag goes down, and one rewritten during its turn. -/
theorem test_meets_MapWrite_alarms :
    let lost := demo.modStation 0 fun x => { x with health := .lost, localMode := true }
    let watched := demo.modStation 0 fun x => { x with cfg := { x.cfg with alarm := true } }
    (lost.station 0).health = .lost ∧ (lost.station 0).localMode = true ∧ (lost.station 0).cfg.alarm = false
      ∧ (watched.station 0).cfg.alarm = true ∧ (demo.station 0).cfg.role ≠ .valve
      ∧ (demoTurn turn).flc.turn.map Turn.station = some 0 := by decide +kernel

/-- The valve of the held zone is cleared, or its group is left with no answering member: the binding reads LOST, and the passage ends. -/
theorem test_meets_lost_passages :
    let bound := demoHeld.modZone 0 fun x => { x with cfg := { x.cfg with valve := .group 7 } }
    let cleared := demoHeld.modStation 1 fun x => Station.start { x.cfg with configured := false }
    bound.targetHealth (bound.zone 0).cfg.valve = .lost ∧ bound.endLostPassages.hand = []
      ∧ cleared.readsHealth 1 = .lost ∧ cleared.endLostPassages.hand = [] ∧ demoHeld.endLostPassages.hand = demoHeld.hand := by
  decide +kernel

theorem test_meets_GroupWrite :
    (∀ i ∈ [1], i < 48 ∧ (demo.station i).cfg.configured = true) ∧ [1].Nodup
      ∧ (∀ z ∈ List.range 24, (demo.zone z).cfg.configured = true → (demo.zone z).cfg.valve ≠ .group 7) := by decide +kernel

/-- The four outcomes of a POINT_WRITE: another source, an age that has just reached the new limit, a value just outside the new
plausibility, neither. -/
theorem test_meets_PointWrite :
    let c := (demo.point 0).cfg
    (∀ c' ∈ [{ c with source := none }, { c with staleLimit := 10 }, { c with staleLimit := 11, high := 149 }, { c with high := 150 }],
        demo.pointOk 0 c' = true)
      ∧ (demo.point 0).validity = .good ∧ (demo.point 0).lastTime = some 90 ∧ demo.uptime = 100
      ∧ (demo.point 0).value = 150 := by decide +kernel

/-- A full roster, and one entry too many; each limit of an entry. -/
theorem test_meets_RosterLoad :
    (List.replicate 96 (⟨.station 47, .read, 8, 7⟩ : RosterEntry)).all entryOk = true ∧ entryOk ⟨.group 7, .drive, 1, 0⟩ = true
      ∧ entryOk ⟨.station 48, .read, 1, 0⟩ = false ∧ entryOk ⟨.group 8, .drive, 1, 0⟩ = false
      ∧ entryOk ⟨.group 0, .read, 1, 0⟩ = false ∧ entryOk ⟨.station 0, .read, 3, 0⟩ = false
      ∧ entryOk ⟨.station 0, .read, 2, 2⟩ = false := by decide +kernel

theorem test_meets_LineWrite :
    ([⟨2, 0, 1, 2⟩, ⟨50, 3, 15, 100⟩] : List LineSettings).all lineOk = true
      ∧ ([⟨1, 0, 1, 2⟩, ⟨51, 0, 1, 2⟩, ⟨2, 4, 1, 2⟩, ⟨2, 0, 0, 2⟩, ⟨2, 0, 16, 2⟩, ⟨2, 0, 1, 1⟩, ⟨2, 0, 1, 101⟩] :
        List LineSettings).any lineOk = false := by decide +kernel

theorem test_meets_ExpressRead :
    let e : ExpressEntry := ⟨.station 47, none⟩
    let full := demo.modFlc fun f => { f with express := (List.range 8).map fun i => ⟨.station i, none⟩ }
    (e ∉ demo.flc.express ∧ demo.flc.express.length < 8) ∧ (e ∉ full.flc.express ∧ 8 ≤ full.flc.express.length)
      ∧ (⟨.station 0, none⟩ : ExpressEntry) ∈ full.flc.express := by decide +kernel

/-- A lane whose ammonia point is GOOD, is not GOOD, is absent, and one that follows a storm in force. -/
theorem test_meets_LaneWrite :
    demo.laneOk 0 laneCfg = true ∧ demo.laneOk 0 { laneCfg with ammoniaPoint := none } = true ∧ 0 < demo.lanes.length
      ∧ demo.pointGood 1 .nh4 = true
      ∧ (demo.modPoint 1 fun x => { x with validity := .stale }).pointGood 1 .nh4 = false
      ∧ (demo.modStorm fun m => { m with state := .falling }).stormInForce = true
      ∧ demo.laneOk 0 { laneCfg with stormFollow := true } = true := by decide +kernel

theorem test_meets_LaneService :
    demo.zones.length = 24 ∧ (demo.lane 0).inService = true ∧ (demo.lane 5).inService = false ∧ 5 < demo.lanes.length
      ∧ (demo.zone 0).mode ≠ .off
      ∧ ((demo.modLane 0 fun x => { x with inService := false }).lane 0).inService = false
      ∧ (demo.zone 0).cfg.configured = true ∧ (demo.causesNow 0).isEmpty = true
      ∧ ((demo.modStation 1 fun x => { x with health := .lost }).causesNow 0).isEmpty = false := by decide +kernel

theorem test_meets_ZoneWrite :
    demo.zoneOk 0 zoneCfg = true ∧ demo.zoneOk 0 { zoneCfg with configured := false } = true ∧ demo.zoneOk 23 .blank = true
      ∧ 23 < demo.zones.length ∧ (demo.lane 0).inService = true ∧ (demo.zone 0).mode = .auto
      ∧ (demoHeld.modZone 0 fun x => { x with modeBeforeHand := .fallback }).zoneOk 0 zoneCfg = true := by decide +kernel

theorem test_meets_BlowerWrite :
    (demoBlower .stopped).blowerOk 0 blowerCfg = true ∧ ((demoBlower .stopped).blower 0).writable = true
      ∧ demo.blowerOk 5 .blank = true ∧ (demo.blower 5).writable = true ∧ 0 < demo.blowers.length := by decide +kernel

/-- A write that changes the run-state point of a blower that is UNKNOWN and of one that is not, one that configures a blower anew and
one that clears the flag. -/
theorem test_meets_BlowerWrite_afresh :
    let s := (demoBlower .stopped).modPoint 9 fun x => { x with cfg := { x.cfg with kind := .val .runstate } }
    let bare := s.modBlower 0 fun x => { x with cfg := { x.cfg with configured := false } }
    s.blowerOk 0 { blowerCfg with runPoint := 9 } = true ∧ (s.blower 0).cfg.runPoint ≠ 9 ∧ (s.blower 0).state ≠ .unknown
      ∧ ((demoBlower .unknown).blower 0).writable = true ∧ bare.blowerOk 0 blowerCfg = true ∧ (bare.blower 0).writable = true
      ∧ (bare.blower 0).cfg.configured = false ∧ s.blowerOk 0 { blowerCfg with configured := false } = true
      ∧ 0 < bare.blowers.length := by decide +kernel

/-- R74, R75: a write of another run-state point to a blower that is UNKNOWN and cannot adopt stamps its entry to UNKNOWN. -/
theorem test_rewrite_stamps_unknown :
    let s := { (demoBlower .unknown).modBlower 0 fun x => { x with lastChange := 0 } with uptime := 77 }
    let t := s.rewriteBlower 0 { blowerCfg with runPoint := 9 }
    (s.blower 0).lastChange = 0 ∧ (t.blower 0).state = .unknown ∧ (t.blower 0).lastChange = 77
      ∧ t.port.notices = s.port.notices := by decide +kernel

/-- A zone that was OFF or WAITING before a ZONE_WRITE: one ready at once, one that waits on, one whose lane's grace is over. -/
theorem test_meets_ZoneWrite_waiting :
    let off := demo.modZone 0 fun x => { x with mode := .off }
    let ended := demoWaiting.modLane 0 fun x => { x with graceExpired := true }
    off.zoneOk 0 zoneCfg = true ∧ (off.causesNow 0).isEmpty = true ∧ demoWaiting.zoneOk 0 zoneCfg = true
      ∧ demoWaiting.pool.firstPassDone = false ∧ (demoWaiting.lane 0).graceExpired = false
      ∧ (ended.lane 0).graceExpired = true ∧ (ended.causesNow 0).isEmpty = true
      ∧ (demoHeld.modZone 0 fun x => { x with modeBeforeHand := .waiting }).zoneOk 0 zoneCfg = true := by decide +kernel

/-- The blower of the small plant where each judgement of it begins: adopted as LOCAL, FAULT, RUNNING or STOPPED, not yet adopted,
tripped by its fault word, its ramp time just over. -/
theorem test_meets_BlowersEnterStates :
    let lost := demoBlower .tripped (some .lost)
    let reads := fun (s : State) (v : Nat) => s.modPoint 2 fun x => { x with value := v }
    let away := (demoBlower .unknown).modPoint 2 fun x => { x with validity := .stale }
    (demo.blower 0).cfg.configured = true ∧ demo.blowers.length = 6
      ∧ lost.readsHealth 2 = .live ∧ lost.readsLocal 2 = false ∧ lost.readsRunning 0 = true ∧ lost.reportsFault 0 = false
      ∧ (reads lost 2).reportsFault 0 = true ∧ (reads lost 0).readsStopped 0 = true
      ∧ (lost.modStation 2 fun x => { x with localMode := true }).readsLocal 2 = true
      ∧ away.readsRunning 0 = false ∧ away.readsStopped 0 = false ∧ away.reportsFault 0 = false
      ∧ (reads (demoBlower .starting) 2).reportsFault 0 = true
      ∧ (demoBlower .starting).lasted (some 90) 10 = true ∧ (demoBlower .starting).lasted (some 90) 11 = false
      ∧ (demoBlower .localMode).supplyNow = 100 ∧ demo.pool.supply = 100
      ∧ (demoBlower .localMode |>.modPool fun p => { p with supply := 90 }).supplyNow = 100 := by decide +kernel

/-- A blower whose minimum stop time has just passed, a supply figure spared and short, a stage-up and a stage-down at their
delays. -/
theorem test_meets_Staging :
    let stopped := (demoBlower .stopped).modBlower 0 fun x =>
      { x with runEnd := some 90, cfg := { x.cfg with minStop := 10 } }
    let cfg : PoolCfg := { PoolCfg.default with upFraction := 900, downFraction := 800, upDelay := 60, downDelay := 60 }
    let due := demo.modPool fun p =>
      { p with cfg := cfg, supply := 100, stageUpSince := some 40, stageDownSince := some 40 }
    (stopped.pool.dutyOrder = [] ++ 0 :: [] ∧ stopped.startable 0 = true ∧ stopped.someStarting = false)
      ∧ (stopped.modBlower 0 fun x => { x with runEnd := some 91 }).startable 0 = false
      ∧ (demoBlower .starting).someStarting = true ∧ stopped.pool.settled = true
      ∧ 0 < (stopped.modPool fun p => { p with cfg := { p.cfg with minNormal := 1 } }).minimumInForce
      ∧ ¬ (91 ≤ due.pool.supply * due.pool.cfg.upFraction / 1000) ∧ 90 ≤ due.pool.supply * due.pool.cfg.upFraction / 1000
      ∧ 40 + due.pool.cfg.upDelay ≤ due.uptime ∧ 40 + due.pool.cfg.downDelay ≤ due.uptime
      ∧ due.pool.runList = [] ++ 0 :: [] ∧ (due.blower 0).state = .running := by decide +kernel

/-- The states the lockout and the reset act by. -/
theorem test_meets_LockoutAndReset :
    (demo.blower 0).cfg.configured = true ∧ (∀ st : BlowerState, ((demoBlower st).blower 0).state = st)
      ∧ (∀ c ∈ [TripCause.fault, .startFail], ((demoBlower .tripped (some c)).blower 0).tripCause = some c
        ∧ (demoBlower .tripped (some c)).reportsFault 0 = false) := by
  refine ⟨by decide +kernel, fun st => by cases st <;> rfl, by decide +kernel⟩

theorem test_meets_Pool :
    demo.poolOk .default = true ∧ demo.orderOk [0] = true ∧ demo.orderOk [] = false ∧ demo.orderOk [0, 0] = false
      ∧ demo.orderOk [0, 1] = false ∧ demo.pool.dutyOrder = [0] ∧ State.reset.pool.dutyOrder = [] := by decide +kernel

theorem test_meets_ChannelWrite :
    demo.dormant 0 = false ∧ (demo.channel 0).state = .disabled ∧ demo.channelOk 0 (channelCfg 3 4 none) = true
      ∧ demo.channelOk 3 .blank = true ∧ demo.dormant 3 = false ∧ (demo.channel 3).cfg.configured = false
      ∧ (demo.channel 0).cfg.configured = true ∧ (demo.pair 0).joined = false := by decide +kernel

/-- A channel of a joined pair, whose passages its rewrite ends, and one whose passages it leaves. -/
theorem test_meets_ChannelWrite_passages :
    let s := demoPairHeld.modPair 0 fun _ => ⟨true, .first⟩
    let free := demoPairHeld.modChannel 0 fun x => { x with cfg := { x.cfg with configured := false } }
    s.dormant 0 = false ∧ s.channelOk 0 { channelCfg 3 3 none with configured := false } = true ∧ s.hand.length = 2
      ∧ free.channelOk 0 (channelCfg 3 3 none) = true ∧ (free.channel 0).cfg.configured = false := by decide +kernel

/-- The law of the figures is put to the test: a second cycle, 60 of its 100 counted, and a first BATCH. -/
theorem test_meets_Counts :
    let x := { (metering .cycle).channel 0 with cycles := 1, counted := 160 }
    (x.state ≠ .disabled ∧ x.cfg.mode = .val .cycle ∧ x.cycles < 65535 ∧ x.Metered (x.cycles * x.target))
      ∧ (let y := (metering .batch).channel 0
        y.state ≠ .disabled ∧ y.cfg.mode = .val .batch ∧ y.cycles = 0 ∧ y.target = y.cfg.target ∧ y.Metered 0) := by
  unfold Channel.Metered; decide +kernel

/-- What a running channel counts: 39, 40 and 41 from the last reading, over the turn of the meter, in each mode; no reading before;
the law of the figures as they stand. -/
theorem test_meets_Metering :
    (∀ m ∈ [ChannelMode.batch, .cycle, .ratio], let x := (metering m).channel 0
      x.lastMeter = some 65500 ∧ x.state = .running ∧ (3 + 65536 - 65500) % 65536 < x.remaining
        ∧ (4 + 65536 - 65500) % 65536 = x.remaining ∧ x.remaining < (5 + 65536 - 65500) % 65536
        ∧ x.Metered 0 ∧ x.overshoot = 0 ∧ 1 ≤ x.cfg.target)
      ∧ ((demoChannel .running).channel 0).lastMeter = none := by
  unfold Channel.Metered; decide +kernel

/-- A reading of each of a channel's three points; its level at the minimum, and at ten above it; and a volume point gone to NONE. -/
theorem test_meets_ChannelPoints :
    let s := (metering .batch).modChannel 0 fun x => { x with cfg := { x.cfg with influentPoint := some 6 } }
    let level := fun v : Nat => s.modPoint 5 fun x => { x with value := v }
    s.dormant 0 = false ∧ s.pointGood 3 .volume = true ∧ (s.channel 0).cfg.volumePoint = 3 ∧ s.pointGood 6 .inflow = true
      ∧ (s.channel 0).cfg.levelPoint = some 5 ∧ (s.channel 0).cfg.minLevel = 400
      ∧ ((level 399).point 5).value < 400 ∧ ¬ ((level 400).point 5).value < 400 ∧ 400 + 10 ≤ ((level 410).point 5).value
      ∧ ((demo.modPoint 3 Point.toNone).point 3).validity = .none
      ∧ (demoPair .running).dormant 1 = true := by decide +kernel

/-- A start with its pump available, with no pump, and with the level low; a ratio target with and without storm. -/
theorem test_meets_ChannelStart :
    demo.dormant 0 = false ∧ (demo.channel 0).cfg.configured = true ∧ 1 < demo.channels.length
      ∧ (demoChannel .running).channel 0 ≠ demo.channel 0 ∧ demo.pumpAvailable (demo.dutyPump 0) = true
      ∧ (demo.modStation 3 fun x => { x with health := .lost }).pumpAvailable 3 = false
      ∧ (demoPair .disabled).otherPump 0 = some 4
      ∧ (∀ p ∈ (demo.channel 0).cfg.levelPoint, demo.pointGood p .level = true ∧ (demo.point p).value < 501)
      ∧ (demo.channel 0).cfg.mode ≠ .val .ratio := by decide +kernel

theorem test_meets_PairSet :
    (demoChannel .running |>.channel 0).state ≠ .disabled ∧ (demo.channel 1).state = .disabled
      ∧ (demo.pair 0).joined ≠ true ∧ (demoPair .disabled |>.pair 0).joined ≠ false
      ∧ (demo.channel 1).cfg.configured = true ∧ (demo.channel 2).cfg.configured = false ∧ 1 < demo.channels.length
      ∧ demoPairHeld.pumpHeldRun 3 = true ∧ demoPairHeld.pumpHeldRun 4 = true ∧ (demo.channel 0).autoPending = false := by
  decide +kernel

/-- A paired channel that judges its pumps: the duty pump lost and the other available, both lost, and a channel to start by
itself. -/
theorem test_meets_JudgeChannel :
    let lose := fun (i : Nat) (s : State) => s.modStation i fun x => { x with health := .lost }
    let s := demoPair .running
    s.liveChannel 0 = true ∧ s.liveChannel 1 = false ∧ s.dutyPump 0 = 3 ∧ s.otherPump 0 = some 4
      ∧ (lose 3 s).pumpAvailable 3 = false ∧ (lose 3 s).pumpAvailable 4 = true
      ∧ (lose 4 (lose 3 s)).pumpAvailable 4 = false ∧ (lose 3 (demoPair .faulted)).liveChannel 0 = true
      ∧ (demoPair .disabled).readsHealth 3 = .live := by decide +kernel

theorem test_meets_DutySwap :
    ((demoPair .running).pair 0).joined = true ∧ ((demoPair .running).channel 0).state = .running
      ∧ (∃ p ∈ (demoPair .running).otherPump 0, (demoPair .running).pumpAvailable p = true)
      ∧ (let s := (demoPair .paused).modStation 4 fun x => { x with localMode := true }
         ∀ p ∈ s.otherPump 0, s.pumpAvailable p = false)
      ∧ (demo.pair 0).joined = false ∧ 0 < demo.pairs.length
      ∧ (let s := [3, 4].foldl (fun s i => s.modStation i fun x => { x with health := .lost }) (demoPair .faulted)
         (s.channel 0).state = .faulted ∧ s.liveChannel 0 = true ∧ s.otherPump 0 = some 4 ∧ s.pumpAvailable 4 = false
           ∧ s.dutyPump 0 = 3 ∧ s.pumpAvailable 3 = false) := by decide +kernel

/-- At uptime 99 a second passes: the stale, trim and allocation timers of the small plant come due at 100. -/
theorem test_meets_SecondPasses :
    let s := { demo with uptime := 99 }
    s.pending = [] ∧ s.uptime + 1 < 4294967296 ∧ (s.point 0).staleDeadline = some 100 ∧ (s.zone 0).trimDeadline = some 100
      ∧ s.pool.allocDeadline = some 100 := by decide +kernel

theorem test_meets_RequestsAndFrames :
    (Req.restart).wf = true ∧ (Req.restart).payload = some [0x2C] ∧ ([] : List Byte).length ≤ 40
      ∧ (Req.alarmList 65535).payload = some [0x25, 0xFF, 0xFF] ∧ (Req.alarmList 65535).wf = true
      ∧ (List.replicate 240 (0 : Byte)).length ≤ 240 := by decide +kernel

theorem test_meets_OtherFrames :
    readPlantFrame [0xA5] = .rejected ∧ readPlantFrame [0x00] = .passedOver
      ∧ readPlantFrame (plantFrame 0x31 0 1 0 []) = .whole ⟨0x31, 0, 1, 0, []⟩ ∧ (0x31#8).toNat ≠ demo.port.plantAddr
      ∧ readPlantFrame (plantFrame 0x30 0 2 0 []) = .whole ⟨0x30, 0, 2, 0, []⟩
      ∧ (demoTurn turn).flc.turn = some turn ∧ turn.phase = .window ∧ readFieldFrame [0xC3] = .rejected
      ∧ readFieldFrame (fieldFrame []) = .whole [] ∧ readAnswer [] = none ∧ demo.flc.turn = none := by decide +kernel

/-- Where the clauses of Table 23 and of the sequence judgement meet. -/
theorem test_meets_Tables :
    ({ PointCfg.blank with kind := .val .level }.kind = .val .level ∧ 0 < PointCfg.blank.denominator)
      ∧ laneCfg.thresholdA < laneCfg.thresholdB ∧ bandAfter laneCfg .mid 61 = .high ∧ bandAfter laneCfg .mid 60 = .mid
      ∧ bandAfter laneCfg .mid 25 = .mid ∧ bandAfter laneCfg .mid 24 = .low ∧ bandAfter laneCfg .low 30 = .low
      ∧ bandAfter laneCfg .low 31 = .mid ∧ bandAfter laneCfg .high 55 = .high ∧ bandAfter laneCfg .high 54 = .mid
      ∧ judgeSeq (some 255) 0 = .next ∧ judgeSeq (some 255) 255 = .again ∧ judgeSeq (some 255) 1 = .gap 1
      ∧ judgeSeq (some 0) 255 = .gap 254 := by decide +kernel

theorem test_meets_RequestsForNothing :
    demo.dormant 3 = false ∧ (demo.channel 3).cfg.configured = false ∧ (demo.blower 5).cfg.configured = false
      ∧ (demoPair .disabled |>.pair 0).joined = true := by decide +kernel

/-- One failing write of each kind, each just outside one limit. -/
theorem test_meets_FailingWrites :
    demo.pointOk 0 { (demo.point 0).cfg with staleLimit := 1 } = false ∧ demo.laneOk 0 { laneCfg with spLow := 19 } = false
      ∧ demo.zoneOk 0 { zoneCfg with gain := 501 } = false
      ∧ (demoBlower .stopped).blowerOk 0 { blowerCfg with rated := 99 } = false
      ∧ demo.poolOk { PoolCfg.default with minStorm := 7 } = false
      ∧ demo.channelOk 0 { channelCfg 3 3 none with target := 0 } = false
      ∧ demo.stormOk { StormCfg.default with entryConfirm := 9 } = false
      ∧ (demo.blower 0).state ∈ [BlowerState.starting, .running, .stopping, .localMode]
      ∧ (demoChannel .running |>.channel 0).state ≠ .disabled := by decide +kernel

theorem test_meets_SavesEnd :
    let x : Save := ⟨.blank, hdr⟩
    (demo.modPort fun p => { p with save := some x }).port.save = some x ∧ demo.port.save = none := by decide +kernel

/-- The storm monitor: a reading at each threshold in each state, and each timer at its expiry. -/
theorem test_meets_Storm :
    demo.stormOk { StormCfg.default with influentPoint := some 6 } = true ∧ demo.storm.force = .auto ∧ Force.on ≠ demo.storm.force
      ∧ (demo.stormReading 20001).storm.state = .rising ∧ (demo.stormReading 20000).storm.state = .normal
      ∧ (∀ st : StormState, (demo.modStorm fun m => { m with state := st }).storm.state = st)
      ∧ (demo.modStorm fun m => { m with entryTimer := .running 100 }).storm.entryTimer = .running 100 := by
  refine ⟨by decide +kernel, by decide +kernel, by decide +kernel, by decide +kernel, by decide +kernel, fun _ => rfl, rfl⟩

/-- AUTO forced from ON and from OFF, with and without a GOOD influent; a timer frozen at its expiry; the monitor's point as it
leaves GOOD and as it returns; the entries that begin and that end storm in force. -/
theorem test_meets_StormForceAndFreeze :
    let watch := demo.modStorm fun m =>
      { m with cfg := { m.cfg with influentPoint := some 6 }, influentValid := true, lastInfluent := some 100 }
    let lost := watch.modPoint 6 fun x => { x with validity := .stale }
    (∀ f ∈ [Force.on, .off], (watch.modStorm fun m => { m with force := f }).storm.force ≠ .auto)
      ∧ watch.pointGood 6 .inflow = true ∧ lost.pointGood 6 .inflow = false ∧ lost.storm.influentValid = true
      ∧ (watch.modStorm fun m => { m with influentValid := false }).storm.influentValid = false
      ∧ (StormTimer.running 100).suspend 100 = .suspended 0 ∧ (StormTimer.suspended 0).resume 100 = .running 100
      ∧ demo.storm.state = .normal ∧ (watch.modStorm fun m => { m with state := .falling }).storm.state = .falling
      ∧ demo.lanes.length = 6 := by decide +kernel

/-- A STORM_WRITE that takes up a point that is GOOD, one that is not, and one that takes the point away. -/
theorem test_meets_StormWrite_point :
    let watch := demo.modStorm fun m => { m with cfg := { m.cfg with influentPoint := some 6 } }
    let lost := demo.modPoint 6 fun x => { x with validity := .stale }
    demo.stormOk watch.storm.cfg = true ∧ demo.storm.cfg.influentPoint = none ∧ demo.pointGood 6 .inflow = true
      ∧ lost.stormOk watch.storm.cfg = true ∧ lost.pointGood 6 .inflow = false
      ∧ watch.stormOk demo.storm.cfg = true ∧ watch.storm.cfg.influentPoint = some 6 := by decide +kernel

theorem test_meets_HandZone :
    (demo.zone 0).cfg.configured = true ∧ (demo.lane (0 / 4)).inService = true
      ∧ demo.targetHealth (demo.zone 0).cfg.valve ≠ .lost ∧ demo.passage ⟨.zone, 0⟩ = none ∧ demo.hand.length < 8
      ∧ demoHeld.passage ⟨.zone, 0⟩ ≠ none ∧ fullHand.passage ⟨.zone, 0⟩ = none ∧ ¬ fullHand.hand.length < 8
      ∧ (demo.zone 1).cfg.configured = false := by decide +kernel

/-- A pump that may be held, one whose mate runs, one that belongs to no channel. -/
theorem test_meets_HandPump :
    demo.channelOfPump 3 = some 0 ∧ demo.readsHealth 3 ≠ .lost ∧ demo.mateOfPump 3 = none ∧ demo.channelOfPump 2 = none
      ∧ (demoPair .running).mateOfPump 4 = some 3 ∧ (demoPair .running).pumpRun 3 = true
      ∧ (let bare := (demoPair .disabled).modChannel 0 fun x => { x with cfg := { x.cfg with configured := false } }
         bare.channelOfPump 4 = none ∧ bare.partnerPump 4 = true ∧ bare.readsHealth 4 ≠ .lost)
      ∧ (demoPair .disabled).pumpRun 3 = false ∧ fullHand.passage ⟨.pump, 3⟩ = none ∧ 8 ≤ fullHand.hand.length := by
  decide +kernel

/-- A pump whose command has become RUN, its mate's become STOP, and a pump that a passage holds. -/
theorem test_meets_PumpCommands :
    let before := demoPair .running
    let after := before.modPair 0 fun p => { p with duty := .partner }
    (before.pumpRun 3 = true ∧ after.pumpRun 3 = false) ∧ (before.pumpRun 4 = false ∧ after.pumpRun 4 = true)
      ∧ (after.pumpHeld 3 = false ∧ after.pumpHeld 4 = false) ∧ (after.channel 0).cfg.pump = 3
      ∧ (demoPairHeld.passage ⟨.pump, 3⟩).isSome = true ∧ demo.liveChannel 0 = true := by decide +kernel

theorem test_meets_PassagesEnd :
    (demoHeld.passage ⟨.zone, 0⟩).map Passage.deadline = some (some 100) ∧ demoHeld.uptime = 100
      ∧ demo.passage ⟨.zone, 0⟩ = none ∧ (demoHeld.causesNow 0).isEmpty = true
      ∧ (demoHeld.modPoint 0 fun x => { x with validity := .stale }).causesNow 0 = ⟨true, false⟩
      ∧ ((demoHeld.modStation 1 fun x => { x with localMode := true }).causesNow 0).valveUnavailable = true := by decide +kernel

/-- A record that the raise finds, a list with room, a full list with a cleared record, with a lower class, with neither. -/
theorem test_meets_Raises :
    let full := fun (r : AlarmRecord) => demo.modAlarms fun a =>
      { a with records := (List.range 64).map fun i => { r with source := .point i } }
    let major : AlarmRecord := ⟨.pointStale, .point 0, .major, .raisedAck, 1, 0, 0, none, none⟩
    demo.alarms.records.find? (fun x => x.code = .settingsInvalid ∧ x.source = .works) = some resetRecord
      ∧ (∀ r ∈ demo.alarms.records, ¬ (r.code = .stationLost ∧ r.source = .station 0)) ∧ demo.alarms.records.length < 64
      ∧ 64 ≤ (full major).alarms.records.length
      ∧ (full { major with state := .clearedUnack }).alarms.records.find? (fun x => x.state = .clearedUnack)
        = some { major with state := .clearedUnack }
      ∧ (full { major with cls := .minor }).alarms.records.find? (fun x => AlarmClass.major.code < x.cls.code)
        = some { major with cls := .minor }
      ∧ (full major).pinned .stationLost (.station 0) = false
      ∧ (linesOf demo.alarms.lineMap .critical).horn = true ∧ (linesOf demo.alarms.lineMap .minor).horn = false
      ∧ (demoBlower .tripped (some .fault)).pinned .blowerFault (.blower 0) = true := by decide +kernel

/-- A record in each of its states, one that is not listed, and lines that agree with the list. -/
theorem test_meets_Clears :
    (∀ st ∈ [RecordState.raisedUnack, .raisedAck, .clearedUnack],
        let s := demo.modAlarms fun a => { a with records := [{ resetRecord with state := st }] }
        s.alarms.records.find? (fun x => x.code = .settingsInvalid ∧ x.source = .works)
          = some { resetRecord with state := st } ∧ s.port.notices.length < 32)
      ∧ (∀ r ∈ demo.alarms.records, ¬ (r.code = .doLow ∧ r.source = .zone 0))
      ∧ State.reset.alarms.lines = State.reset.linesNow := by decide +kernel

theorem test_meets_AlarmRequests :
    Source.ofBytes 7 0 = some .works ∧ Source.works.validFor .settingsInvalid = true ∧ Source.works.validFor .doLow = false
      ∧ Source.ofBytes 0 48 = none ∧ Source.ofBytes 9 0 = none ∧ Source.ofBytes 0 47 = some (.station 47)
      ∧ demo.alarms.records = [resetRecord] ∧ resetRecord.cls = .major ∧ resetRecord.state = .raisedUnack := by
  decide +kernel

/-- A turn that may be sent again and one at its last permitted poll. -/
theorem test_meets_Turns :
    (demoTurn turn).flc.turn = some turn ∧ turn.phase = .window ∧ turn.retriesMade < turn.retries
      ∧ (demoTurn { turn with retriesMade := 1 }).flc.turn = some { turn with retriesMade := 1 } := by decide +kernel

/-- A station whose next failed turn makes it LOST, with points that age and one that does not. -/
theorem test_meets_TurnsCloseFailed :
    let s := (demoTurn { turn with retriesMade := 1 }).modStation 0 fun x =>
      { x with consec := demo.flc.line.lostThreshold - 1 }
    (s.station 0).health ≠ .lost ∧ s.flc.line.lostThreshold ≤ min 255 ((s.station 0).consec + 1)
      ∧ (s.point 0).cfg.source = some ⟨0, 0⟩ ∧ (s.point 0).validity = .good ∧ 0 < s.points.length
      ∧ (s.point 127).cfg.source = none ∧ 0 < s.stations.length
      ∧ ¬ demo.flc.line.lostThreshold ≤ min 255 ((demo.station 0).consec + 1) := by decide +kernel

/-- An answer with two readings: one that fits its point, at the ends of plausibility, and one of another kind. -/
theorem test_meets_ValidAnswers_readings :
    let s := demoTurn turn
    judgeSeq (s.station 0).lastSeq twoReadings.sequence ≠ .again ∧ twoReadings.held = false
      ∧ (∀ r ∈ twoReadings.readings, r.channel = 0 ∨ r.channel = 1)
      ∧ (s.point 0).cfg.source = some ⟨0, 0⟩ ∧ (s.point 0).cfg.kind = .val .dissolvedOxygen
      ∧ (s.point 1).cfg.source = some ⟨0, 1⟩ ∧ (s.point 1).cfg.kind ≠ .val .level
      ∧ (s.point 0).cfg.low ≤ (s.point 0).cfg.high ∧ s.port.forward.length + twoReadings.readings.length ≤ 16 := by
  decide +kernel

/-- An answer with no reading, written byte by byte (Table 66). -/
theorem test_meets_ValidAnswers :
    let body : List Byte := [0x01, 0x80, 0x07, 0x04, 0x00]
    readFieldFrame (fieldFrame body) = .whole body ∧ readAnswer body = some ⟨1, 7, false, false, true, []⟩
      ∧ (1 : Nat) = turn.answerAddr := by decide +kernel

/-- Readings at the two ends of plausibility and just outside it, and one of another kind. -/
theorem test_meets_TakeReading :
    let x := (demo.point 0).cfg
    (∀ v ∈ [0, 2000], x.low ≤ readingValue x ⟨some .dissolvedOxygen, 0, v⟩ ∧ readingValue x ⟨some .dissolvedOxygen, 0, v⟩ ≤ x.high)
      ∧ { x with high := 1999 }.high < readingValue x ⟨some .dissolvedOxygen, 0, 2000⟩ ∧ x.kind = .val .dissolvedOxygen
      ∧ 0 < demo.points.length := by decide +kernel

theorem test_meets_RoundTimer :
    demo.flc.roundTimer.isSome = true ∧ demo.flc.passEnded = true ∧ demo.flc.turn = none
      ∧ demo.flc.gap = false ∧ (demoTurn turn).flc.passEnded = false ∧ (demoTurn turn).flc.turn ≠ none := by decide +kernel

/-- The arbiter begins a DRIVE to the valve of the zone in AUTO. -/
theorem test_meets_TurnsCarry :
    let s := demo.modFlc fun f =>
      { f with
        passEnded := false, passRest := [⟨.station 1, .drive, 1, 0⟩], active := [⟨.station 1, .drive, 1, 0⟩] }
    s.flc.turn = none ∧ s.lineArbiter.flc.turn.map Turn.payload = some (some (.position 300))
      ∧ s.zoneOfTarget (.station 1) = some 0 := by decide +kernel

/-- The arbiter in a pass, with an entry of another round before the one it visits; with an express entry due, to a station that is
configured and to one that is not; and after the pass. -/
theorem test_meets_LineArbiter :
    let s := demo.modFlc fun f =>
      { f with
        passEnded := false, gap := true, express := [⟨.station 2, none⟩],
        passRest := [] ++ [⟨.station 1, .drive, 2, (f.round + 1) % 2⟩] ++ ⟨.station 1, .drive, 1, 0⟩ :: [] }
    let after := s.modFlc fun f => { f with passEnded := true }
    (s.flc.round % 2 ≠ (s.flc.round + 1) % 2 ∧ s.flc.round % 1 = 0) ∧ (s.station 2).cfg.configured = true
      ∧ s.lineArbiter.flc.turn.map Turn.station = some 2 ∧ s.lineArbiter.flc.passRest = s.flc.passRest
      ∧ (s.modFlc fun f => { f with express := [⟨.station 47, none⟩] }).lineArbiter.flc.turn.map Turn.station = some 1
      ∧ (s.station 47).cfg.configured = false ∧ after.flc.roundTimer.isSome = true
      ∧ (after.modFlc fun f => { f with roundTimer := none }).flc.roundTimer = none
      ∧ s.answerer (.station 1) = some 1 ∧ (s.station 1).health ≠ .lost
      ∧ ((s.modStation 1 fun x => { x with health := .lost }).station 1).health = .lost := by decide +kernel

/-- R3, R16: the last roster turn of a pass that overran. The oldest express entry is served before the next round begins, and one
whose station is not configured is discarded in its place. -/
theorem test_overrun_serves_one_express :
    let s := demo.modFlc fun f =>
      { f with
        passEnded := true, gap := true, roundTimer := none, active := [⟨.station 1, .read, 1, 0⟩],
        express := [⟨.station 2, none⟩, ⟨.station 2, some (.position 5)⟩] }
    let discards := s.modFlc fun f => { f with express := [⟨.station 47, none⟩, ⟨.station 2, none⟩] }
    let closed := s.lineArbiter.modFlc fun f => { f with turn := none }
    s.flc.turn = none ∧ s.lineArbiter.flc.turn.map Turn.station = some 2 ∧ s.lineArbiter.flc.round = s.flc.round
      ∧ closed.lineArbiter.flc.turn.map Turn.station = some 1 ∧ closed.lineArbiter.flc.round = (s.flc.round + 1) % 65536
      ∧ discards.lineArbiter.flc.turn.map Turn.station = some 1 ∧ discards.lineArbiter.flc.express = [⟨.station 2, none⟩] := by
  decide +kernel

/-- The timers of the small plant at their expiries, and a fresh and an old reading for the trim step. -/
theorem test_meets_Timers :
    (demo.point 0).staleDeadline = some 100 ∧ (demo.zone 0).trimDeadline = some 100 ∧ demo.pool.allocDeadline = some 100
      ∧ (demo.point 0).fresh = false ∧ ((demo.modPoint 0 fun x => { x with fresh := true }).point 0).fresh = true
      ∧ (demoHeld.zone 0).mode ≠ .auto := by decide +kernel

theorem test_meets_StartGrace :
    let s := (demo.modLane 0 fun x => { x with graceDeadline := some 100 }).modZone 0 fun x => { x with mode := .waiting }
    (s.lane 0).graceDeadline = some 100 ∧ s.zones.length = 24 ∧ (s.zone 0).mode = .waiting ∧ (s.causesNow 0).isEmpty = true
      ∧ ((s.modStation 1 fun x => { x with health := .lost }).causesNow 0).isEmpty = false := by decide +kernel

/-- A zone at each judgement of its causes, an AIR_LIMITED and a DO_LOW condition at their delays. -/
theorem test_meets_ZoneJudgements :
    let stale := demo.modPoint 0 fun x => { x with validity := .stale }
    let air := demo.modZone 0 fun x => { x with cap := 200 }
    let mode := fun (m : ZoneMode) (s : State) => s.modZone 0 fun x => { x with mode := m, causes := ⟨false, true⟩ }
    demo.causesNow 0 = ⟨false, false⟩ ∧ stale.causesNow 0 = ⟨true, false⟩
      ∧ (∀ m ∈ [ZoneMode.fallback, .hand], ((mode m stale).zone 0).causes ≠ (mode m stale).causesNow 0)
      ∧ ((mode .fallback demo).zone 0).causes ≠ demo.causesNow 0
      ∧ (demoWaiting.modPool fun p => { p with firstPassDone := true }).causesNow 0 = ⟨false, false⟩
      ∧ min (air.zone 0).desired (air.zone 0).cap < (air.zone 0).desired
      ∧ (demo.point 0).value < (demo.modLane 0 fun x => { x with cfg := { x.cfg with spMid := 400 } }).setpoint 0
      ∧ 100 + 600 ≤ { air with uptime := 700 }.uptime ∧ demo.pointGood 0 .dissolvedOxygen = true
      ∧ 0 < demo.zones.length := by decide +kernel

theorem test_meets_OtherTimers :
    let b := fun st => (demoBlower st).modBlower 0 fun x =>
      { x with runStart := some 90, rampDeadline := some 100, runDownDeadline := some 100 }
    let c := (demoChannel .paused).modChannel 0 fun x => { x with pauseDeadline := some 100 }
    ((b .starting).reportsFault 0 = false ∧ (b .starting).readsRunning 0 = true
        ∧ 90 + ((b .starting).blower 0).cfg.rampTime ≤ (b .starting).uptime)
      ∧ ((b .stopping).blower 0).runDownDeadline = some 100 ∧ (c.channel 0).pauseDeadline = some 100
      ∧ (let s := { demo with uptime := 900 }
         s.alarms.records.find? (fun x => x.code = .settingsInvalid ∧ x.source = .works) = some resetRecord
           ∧ resetRecord.unack = some 0 ∧ 0 + s.alarms.escalation * 60 ≤ s.uptime) := by decide +kernel

/-- Claims under which zones ask for more, and under which none does. -/
theorem test_meets_Passes :
    let cs : List Claim := [⟨.auto, 1500, 300, 3, true, 1600⟩, ⟨.hand, 100, 0, 0, false, 0⟩]
    (∀ c ∈ cs, c.priorityClass ≤ 3) ∧ computeGrants .priority 1000 cs = [900, 100]
      ∧ computeGrants .priority 1650 cs = [1550, 100] ∧ computeGrants .level 0 cs = [0, 0]
      ∧ demo.zones.length = 24 := by decide +kernel

/-- A counted blower and one that is not; a header pressure just above its high limit, at it, and just below its low limit; a supply
figure that leaves 0. -/
theorem test_meets_SpeedsAndPressure :
    let s := fun (v supply : Nat) => (demo.modPoint 8 fun x => { x with value := v }).modPool fun p =>
      { p with supply := supply, cfg := { p.cfg with pressurePoint := some 8, pressureHigh := 600, pressureLow := 300 } }
    demo.counted 0 = true ∧ demo.counted 5 = false ∧ 5 < demo.blowers.length ∧ (s 601 100).pointGood 8 .pressure = true
      ∧ ((s 601 100).judgePressure.pool.pressureHigh = true ∧ (s 600 100).judgePressure.pool.pressureHigh = false)
      ∧ ((s 299 100).judgePressure.pool.pressureLow = true ∧ (s 299 0).judgePressure.pool.pressureLow = false)
      ∧ (s 299 0).supplyNow = 100 ∧ demo.pool.cfg.pressurePoint = none := by decide +kernel

/-! ### Chapter 5's worked allocation -/

/-- A zone of Table 38: its demand, its class, its release policy, its previous grant. -/
def claim (demand cls previous : Nat) (onRequest : Bool := false) : Claim := ⟨.auto, demand, 300, cls, onRequest, previous⟩

/-- Tables 39 and 40, the pass at 8083 and the one at 8298 (5.11). -/
theorem test_worked_allocation :
    let cs := [claim 1500 0 0 true, claim 1300 0 0, claim 1600 1 0, claim 1200 1 0, claim 900 2 0, claim 700 2 0]
    let later := [claim 1000 0 1500 true, claim 1300 0 1300, claim 1600 1 1600, claim 1200 1 1200, claim 600 2 780, claim 500 2 620]
    computeGrants .priority 6000 cs = [1500, 1300, 1481, 1118, 300, 300]
      ∧ computeGrants .priority 4000 cs = [1500, 1300, 300, 300, 300, 300]
      ∧ computeGrants .priority 7000 cs = [1500, 1300, 1600, 1200, 780, 620]
      ∧ computeGrants .priority 7000 later = [1500, 1300, 1600, 1200, 600, 500] := by decide +kernel

end Sys2Proof.Tests
end

section
/-! The bounds that every step keeps, from the invariants of the laws. -/

namespace Sys2Proof.Machine
open Sys2Proof
variable {s t : State}

/-! ### The invariant of every step -/

/-- No event of the field line or of a timer takes the request queue or the reply list past its bound. -/
theorem portHolds_plant : Plant (fun s => s.port.Holds) where
  zone _ _ _ h := h
  blower _ _ _ h := h
  start _ _ _ h := h
  pool _ _ h := h
  notice n h := h.effects ((ownPort_effects _).notice n rfl)
  express _ h := h
  raise code src v h := h.effects ((ownPort_effects _).raise code src v rfl)
  clear code src h := h.effects ((ownPort_effects _).clear code src rfl)
  lane _ _ _ h := h
  channel _ _ _ h := h
  startChannel c hc h := h.effects ((ownPort_effects _).startChannel c hc rfl)
  meter c v h := h.effects ((ownPort_effects _).meter c v rfl)
  pair _ _ _ h := h
  storm _ _ h := h
  stepped _ h := h
  passage _ h := h
  point _ _ _ h := h
  forward e h := h.effects ((ownPort_effects _).forward e rfl)
  station _ _ _ h := h
  flc _ _ h := h
  lines h := h
  send h := transmit_holds h
  checkError h := ⟨h.requests, h.replies, h.saveFinds⟩

/-- A plant frame is a check error, is passed over, or is a request received. -/
theorem plantFrameIn_holds (h : s.port.Holds) (chars : List Byte) : (s.plantFrameIn chars).port.Holds := by
  unfold State.plantFrameIn
  split
  · exact h
  · exact portHolds_plant.checkError h
  · split
    · exact h
    · exact receiveRequest_holds h _

theorem coldStart_holds (s : State) (kind : StartKind) (straps : BitVec 3) (fast : Bool) :
    (s.coldStart kind straps fast).port.Holds := by
  unfold State.coldStart
  exact startUp_holds _ _

/-- No command takes the request queue or the reply list past its bound. -/
theorem exec_holds (h : s.port.Holds) (c : Instr) : ∃ t, exec c s = .next t ∧ t.port.Holds := by
  by_cases hev : c.isPlantEvent = true
  · exact portHolds_plant.exec h hev
  cases hq : c.request with
  | some q => exact ⟨_, exec_request hq s, receiveRequest_holds h q⟩
  | none =>
    cases c with
    | powerOn straps fast => exact ⟨_, rfl, coldStart_holds s .powerOn straps fast⟩
    | resetPin straps fast => exact ⟨_, rfl, coldStart_holds s .resetPin straps fast⟩
    | saveWriteComplete ok => exact ⟨_, rfl, saveCompletes_holds h ok⟩
    | plantFrameReceived chars => exact ⟨_, rfl, plantFrameIn_holds h chars⟩
    | plantFrameSent => exact ⟨_, rfl, frameSent_holds h⟩
    | _ => simp_all [Instr.request, Instr.isPlantEvent]

theorem Safe.stored (h : Safe s) : Stored s := ⟨h.banks, h.image, h.snapshot⟩

theorem Safe.pumpsHold (h : Safe s) : s.PumpsHold :=
  ⟨h.pumps, h.imagePumps, h.snapshotPumps, h.onePumpRuns.heldApart⟩

theorem Safe.metersHold (h : Safe s) : s.MetersHold :=
  .of_banks ((settings_sized_iff s).mp h.banks).2.2.2.2.2.2.1 h.targets h.imageTargets h.snapshotTargets h.counts

/-- `Safe` is the conjunction of its seven invariants. -/
theorem Safe.of_parts (stored : Stored s) (queues : s.QueuesHold) (hand : s.HandHolds) (port : s.port.Holds)
    (pumps : s.PumpsHold) (starts : s.OneStarts) (meters : s.MetersHold) : Safe s where
  banks := stored.banks
  image := stored.image
  snapshot := stored.snapshot
  queues := queues
  hand := hand
  port := port
  pumps := pumps.banks
  imagePumps := pumps.image
  snapshotPumps := pumps.snapshot
  onePumpRuns := pumps.onePumpRuns
  oneStarts := starts
  targets := meters.banks
  imageTargets := meters.image
  snapshotTargets := meters.snapshot
  counts c _ := meters.counts c

/-- What holds of the state a command answers holds of the one it is said to answer. -/
theorem of_answers {P : State → Prop} {c : Instr} (h : ∃ u, exec c s = .next u ∧ P u) (hc : exec c s = .next t) : P t := by
  obtain ⟨u, hu, hP⟩ := h
  cases hu.symm.trans hc
  exact hP

theorem exec_safe (h : Safe s) {c : Instr} (hc : exec c s = .next t) : Safe t :=
  .of_parts (of_answers (stored_shell.exec h.stored c) hc) (of_answers (queuesHold_shell.exec h.queues c) hc)
    (of_answers (handHolds_shell.exec h.hand c) hc) (of_answers (exec_holds h.port c) hc)
    (of_answers (pumpsHold_shell.exec h.pumpsHold c) hc) (of_answers (oneStarts_shell.exec h.oneStarts c) hc)
    (of_answers (metersHold_shell.exec h.metersHold c) hc)

/-- `Safe` reads neither the uptime nor the waiting commands. -/
theorem Safe.with_time_and_queue (h : Safe s) (now : Nat) (queue : List Instr) :
    Safe { s with uptime := now, pending := queue } :=
  .of_parts (h.stored.of_eq rfl rfl rfl rfl rfl rfl rfl rfl rfl rfl) (h.queues.of_eq rfl rfl rfl rfl) (h.hand.of_eq rfl)
    h.port (h.pumpsHold.of_eq rfl rfl rfl rfl rfl) (h.oneStarts.of_eq rfl) (h.metersHold.of_eq rfl rfl rfl)

/-- Settles O2: each part of `Safe` is kept by every command, and a second that passes changes only the time and the queue. -/
theorem stepKeepsTheBounds : Obligations.StepKeepsTheBounds := by
  intro s t h hs
  unfold step at hs
  split at hs
  · cases hs
    exact h.with_time_and_queue _ _
  · exact exec_safe (h.with_time_and_queue s.uptime _) hs

end Sys2Proof.Machine
end

section
/-! The field line's requests on a ready port: what each leaves, and that it is answered DONE or changes nothing (R168). -/

namespace Sys2Proof.Machine

open Sys2Proof

variable {s t : State} {h : Hdr}

/-! ### Answers of each status -/

/-- A request answered DONE reports what its handling gives. -/
theorem exec_done {c : Instr} {q : Request} (hq : c.request = some q) (hs : s.ready) {u : State} {report : List Byte}
    (hh : handle q.hdr q.body (s.addressed q.hdr) = (u, some (.done, report))) :
    exec c s = .next (u.answered q.hdr q.body.code .done report) :=
  exec_ready hq hs hh

/-- A request answered with another status than DONE reports nothing. -/
theorem exec_bare {c : Instr} {q : Request} (hq : c.request = some q) (hs : s.ready) {u : State} {status : Status}
    {report : List Byte} (hh : handle q.hdr q.body (s.addressed q.hdr) = (u, some (status, report)))
    (hd : status ≠ .done) : exec c s = .next (u.answered q.hdr q.body.code status []) := by
  have := exec_ready hq hs hh
  rwa [if_neg hd] at this

/-- What a request that holds to its checks, or fails one, is answered. -/
theorem acceptIf_true {ok : Bool} (hok : ok = true) (s e : State) : s.acceptIf ok e = e.done := by
  subst hok; rfl

theorem acceptIf_false {ok : Bool} (hok : ok = false) (s e : State) : s.acceptIf ok e = s.refused := by
  subst hok; rfl

/-! ### Reads (R169, R45, R23, R72, R84, R105, R124, R134, R145, R159) -/

/-- Settles O14: each read leaves the state it is taken in, whose report the source of the request does not enter. -/
theorem readsReportAndChangeNothing : Obligations.ReadsReportAndChangeNothing := by
  intro s h hs a
  refine ⟨exec_done (c := .identify h) rfl hs rfl, fun i hi => ?_, fun p hp => ?_, exec_done (c := .rosterRead h) rfl hs rfl,
    fun z hz => ?_, fun b hb => ?_, exec_done (c := .grantsRead h) rfl hs rfl, fun c hc hd => ?_,
    exec_done (c := .stormRead h) rfl hs rfl, exec_done (c := .handRead h) rfl hs rfl, fun i hi => ?_⟩
  · exact exec_done (c := .mapRead h i) rfl hs (by simp only [handle, handleMapRead, if_pos hi]; rfl)
  · exact exec_done (c := .pointRead h p) rfl hs (by simp only [handle, handlePointRead, if_pos hp]; rfl)
  · exact exec_done (c := .zoneRead h z) rfl hs (by simp only [handle, handleZoneRead, if_pos hz]; rfl)
  · exact exec_done (c := .blowerRead h b) rfl hs (by simp only [handle, handleBlowerRead, if_pos hb]; rfl)
  · have awake : (s.addressed h).dormant c = false := by
      change (c % 2 == 1 && (s.pair (c / 2)).joined) = false
      rcases hd with hd | hd <;> simp [hd]
    refine exec_done (c := .channelRead h c) rfl hs ?_
    simp only [handle, handleChannelRead, if_neg (Nat.not_le.mpr hc), awake]
    rfl
  · refine exec_done (c := .alarmList h i) rfl hs ?_
    simp only [handle, handleAlarmList, if_neg (Nat.not_lt.mpr hi)]
    rfl

/-! ### The tables of the field line -/

/-- R4: the checks of a roster entry. -/
theorem entryOk_iff (e : RosterEntry) : entryOk e = true ↔
    (match e.target with
      | .station i => i < 48
      | .group g => g < 8 ∧ e.kind ≠ .read)
    ∧ (e.divisor = 1 ∨ e.divisor = 2 ∨ e.divisor = 4 ∨ e.divisor = 8) ∧ e.phase < e.divisor := by
  obtain ⟨target, kind, divisor, phase⟩ := e
  cases target <;> cases kind <;> simp [entryOk, and_assoc]

/-- Settles O19: the checks of R4, and the two answers. -/
theorem rosterLoadStagesTheRoster : Obligations.RosterLoadStagesTheRoster := by
  intro s h entries hs ok u
  have check : (decide (entries.length ≤ 96) && entries.all entryOk) = true ↔ ok := by
    simp only [Bool.and_eq_true, decide_eq_true_eq, List.all_eq_true, entryOk_iff]
    rfl
  refine ⟨fun hok => ⟨exec_done (c := .rosterLoad h entries) rfl hs ?_, rfl, rfl⟩, fun hok =>
    exec_bare (c := .rosterLoad h entries) (report := []) rfl hs ?_ (by decide)⟩
  · simp only [handle, handleRosterLoad, acceptIf_true (check.mpr hok)]
    rfl
  · simp only [handle, handleRosterLoad, acceptIf_false (Bool.eq_false_iff.mpr fun hc => hok (check.mp hc))]
    rfl

/-- Settles O20: the ranges of Table 11, and the two answers. -/
theorem lineWriteSetsTheLine : Obligations.LineWriteSetsTheLine := by
  intro s h l hs ok
  have check : lineOk l = true ↔ ok := by
    simp only [lineOk, within, Bool.and_eq_true, decide_eq_true_eq, and_assoc]
    rfl
  refine ⟨fun hok => exec_done (c := .lineWrite h l) rfl hs ?_, fun hok =>
    exec_bare (c := .lineWrite h l) (report := []) rfl hs ?_ (by decide)⟩
  · simp only [handle, handleLineWrite, acceptIf_true (check.mpr hok)]
    rfl
  · simp only [handle, handleLineWrite, acceptIf_false (Bool.eq_false_iff.mpr fun hc => hok (check.mp hc))]
    rfl

/-! ### Express READs (R13, R14) -/

/-- An express READ is the same entry as an offered READ only where it is that READ. -/
theorem same_read_iff (x : ExpressEntry) (t : Target) : x.same ⟨t, none⟩ = true ↔ x = ⟨t, none⟩ := by
  obtain ⟨target, payload⟩ := x
  cases payload <;> simp [ExpressEntry.same]

theorem any_same_read_iff (l : List ExpressEntry) (t : Target) : l.any (·.same ⟨t, none⟩) = true ↔ ⟨t, none⟩ ∈ l := by
  simp [same_read_iff]

/-- A change of the field line controller is known by what it makes of the present one. -/
theorem modFlc_congr {f g : Flc → Flc} (hfg : f s.flc = g s.flc) : s.modFlc f = s.modFlc g :=
  congrArg (fun x => { s with flc := x }) hfg

/-- A READ that coalesces leaves the queue as it is. -/
theorem offerExpress_read_coalesced {t : Target} (hm : ⟨t, none⟩ ∈ s.flc.express) : s.offerExpress ⟨t, none⟩ = s := by
  have hmap : (s.flc.express.map fun x => if x.same ⟨t, none⟩ then ⟨t, none⟩ else x) = s.flc.express := by
    conv_rhs => rw [← List.map_id s.flc.express]
    refine List.map_congr_left fun x _ => ?_
    split
    · exact ((same_read_iff x t).mp ‹_›).symm
    · rfl
  refine modFlc_congr (g := id) ((if_pos ((any_same_read_iff _ t).mpr hm)).trans ?_)
  rw [hmap]
  rfl

theorem offerExpress_added {e : ExpressEntry} (hn : s.flc.express.any (·.same e) = false) (hl : s.flc.express.length < 8) :
    s.offerExpress e = s.modFlc fun f => { f with express := f.express ++ [e] } :=
  modFlc_congr ((if_neg (Bool.eq_false_iff.mp hn)).trans (if_pos hl))

theorem offerExpress_dropped {e : ExpressEntry} (hn : s.flc.express.any (·.same e) = false) (hl : 8 ≤ s.flc.express.length) :
    s.offerExpress e = s.modFlc fun f => { f with expressDrops := min 65535 (f.expressDrops + 1) } :=
  modFlc_congr ((if_neg (Bool.eq_false_iff.mp hn)).trans (if_neg (Nat.not_lt.mpr hl)))

theorem handleExpressRead_taken {st : Nat} (hst : st < 48) (ht : s.expressTaken ⟨.station st, none⟩ = true) :
    handleExpressRead st s = (s.offerExpress ⟨.station st, none⟩).done := by
  unfold handleExpressRead
  rw [if_neg (Nat.not_le.mpr hst)]
  exact if_pos ht

theorem handleExpressRead_dropped {st : Nat} (hst : st < 48) (ht : s.expressTaken ⟨.station st, none⟩ = false) :
    handleExpressRead st s = (s.offerExpress ⟨.station st, none⟩).busy := by
  unfold handleExpressRead
  rw [if_neg (Nat.not_le.mpr hst)]
  exact if_neg (Bool.eq_false_iff.mp ht)

/-- Settles O21: the three ways an offered READ goes. -/
theorem expressReadQueuesAPoll : Obligations.ExpressReadQueuesAPoll := by
  intro s h st hs hst e a
  have absent (hn : e ∉ s.flc.express) : s.flc.express.any (·.same e) = false :=
    Bool.eq_false_iff.mpr fun hc => hn ((any_same_read_iff _ _).mp hc)
  refine ⟨fun hm => ?_, fun hn hl => ?_, fun hn hl => ?_⟩
  · have taken : a.expressTaken e = true := by
      simp only [State.expressTaken, Bool.or_eq_true]
      exact .inl ((any_same_read_iff _ _).mpr hm)
    refine exec_done (c := .expressRead h st) rfl hs ?_
    change ((handleExpressRead st a).state, some ((handleExpressRead st a).status, (handleExpressRead st a).report)) = _
    rw [handleExpressRead_taken hst taken, offerExpress_read_coalesced (s := a) hm]
    rfl
  · have taken : a.expressTaken e = true := by
      simp only [State.expressTaken, Bool.or_eq_true, decide_eq_true_eq]
      exact .inr hl
    refine exec_done (c := .expressRead h st) rfl hs ?_
    change ((handleExpressRead st a).state, some ((handleExpressRead st a).status, (handleExpressRead st a).report)) = _
    rw [handleExpressRead_taken hst taken, offerExpress_added (s := a) (absent hn) hl]
    rfl
  · have dropped : a.expressTaken e = false := by
      simp only [State.expressTaken, Bool.or_eq_false_iff, decide_eq_false_iff_not, Nat.not_lt]
      exact ⟨absent hn, hl⟩
    refine exec_bare (c := .expressRead h st) (report := []) rfl hs ?_ (by decide)
    change ((handleExpressRead st a).state, some ((handleExpressRead st a).status, (handleExpressRead st a).report)) = _
    rw [handleExpressRead_dropped hst dropped, offerExpress_dropped (s := a) (absent hn) hl]
    rfl

/-- Settles O22: the report is formed before the counters are cleared. -/
theorem stationCountersReportsAndClears : Obligations.StationCountersReportsAndClears := by
  intro s h st hs hst
  refine ⟨exec_done (c := .stationCounters h st false) rfl hs ?_, exec_done (c := .stationCounters h st true) rfl hs ?_⟩ <;>
  · simp only [handle, handleStationCounters, if_neg (Nat.not_le.mpr hst)]
    rfl

/-! ### A request is answered DONE or changes nothing (R168) -/

/-- The handling is answered DONE, or has no report and leaves the state it was taken in. -/
def Handled.DoneOrSame (s : State) (x : Handled) : Prop := x.status = .done ∨ x.report = [] ∧ x.state = s

theorem doneOrSame_done (s u : State) : u.done.DoneOrSame s := .inl rfl
theorem doneOrSame_reported (s u : State) (report : List Byte) : (u.reported report).DoneOrSame s := .inl rfl
theorem doneOrSame_refused (s : State) : s.refused.DoneOrSame s := .inr ⟨rfl, rfl⟩
theorem doneOrSame_busy (s : State) : s.busy.DoneOrSame s := .inr ⟨rfl, rfl⟩
theorem doneOrSame_noObject (s : State) : s.noObject.DoneOrSame s := .inr ⟨rfl, rfl⟩

theorem doneOrSame_ite {c : Prop} [Decidable c] {x y : Handled} (hx : x.DoneOrSame s) (hy : y.DoneOrSame s) :
    (if c then x else y).DoneOrSame s := by
  split <;> assumption

theorem doneOrSame_acceptIf (s : State) (ok : Bool) (e : State) : (s.acceptIf ok e).DoneOrSame s :=
  doneOrSame_ite (doneOrSame_done s e) (doneOrSame_refused s)

/-- R137: a HAND_DRIVE that reads is refused, BUSY or takes effect. -/
theorem doneOrSame_handDrive (s : State) (x : HandTarget) (demand : Drive) (timeout : TimeoutCode) :
    (s.handDrive x demand timeout).DoneOrSame s :=
  doneOrSame_ite (doneOrSame_refused s) <| doneOrSame_ite (doneOrSame_refused s) <| doneOrSame_ite (doneOrSame_refused s) <|
    doneOrSame_ite (doneOrSame_busy s) (doneOrSame_done s _)

theorem doneOrSame_handleHandDrive (s : State) (kind : Coded HandKind) (index : Nat) (command : Coded Command) (value : Nat)
    (timeout : Coded TimeoutCode) : (handleHandDrive kind index command value timeout s).DoneOrSame s := by
  unfold handleHandDrive
  split
  · split
    · exact doneOrSame_handDrive s _ _ _
    · exact doneOrSame_refused s
  · exact doneOrSame_refused s

/-- R168: every request but SAVE and EXPRESS_READ is answered DONE or changes nothing. -/
theorem handle_doneOrSame (s : State) (h : Hdr) {r : Req} (hsave : r ≠ .save) (hread : ∀ st, r ≠ .expressRead st) :
    ∃ x : Handled, handle h r s = (x.state, some (x.status, x.report)) ∧ x.DoneOrSame s := by
  have done := doneOrSame_done s
  have reported := doneOrSame_reported s
  have refused := doneOrSame_refused s
  have busy := doneOrSame_busy s
  have noObject := doneOrSame_noObject s
  have accepts := doneOrSame_acceptIf s
  cases r with
  | malformed => exact ⟨_, rfl, .inr ⟨rfl, rfl⟩⟩
  | unreadableValue => exact ⟨_, rfl, refused⟩
  | identify | rosterRead | grantsRead | stormRead | handRead => exact ⟨_, rfl, reported _ _⟩
  | mapRead | pointRead | zoneRead | blowerRead => exact ⟨_, rfl, doneOrSame_ite (reported _ _) refused⟩
  | groupWrite | pointWrite | rosterLoad | lineWrite | laneWrite | zoneWrite | poolWrite | dutyOrder | stormWrite
  | escalationWrite => exact ⟨_, rfl, accepts _ _⟩
  | dutyRotate | silence => exact ⟨_, rfl, done _⟩
  | mapWrite st addr role legacy alarm =>
    cases role with
    | unlisted => exact ⟨_, rfl, refused⟩
    | val => exact ⟨_, rfl, accepts _ _⟩
  | mapClear => exact ⟨_, rfl, doneOrSame_ite refused (doneOrSame_ite (done _) noObject)⟩
  | expressRead st => exact absurd rfl (hread st)
  | stationCounters => exact ⟨_, rfl, doneOrSame_ite refused (.inl rfl)⟩
  | laneService => exact ⟨_, rfl, doneOrSame_ite refused (doneOrSame_ite (done _) (doneOrSame_ite (done _) (done _)))⟩
  | blowerWrite => exact ⟨_, rfl, doneOrSame_ite refused (doneOrSame_ite busy (accepts _ _))⟩
  | blowerLockout =>
    exact ⟨_, rfl, doneOrSame_ite refused (doneOrSame_ite noObject (doneOrSame_ite (done _) (done _)))⟩
  | blowerReset => exact ⟨_, rfl, doneOrSame_ite refused (doneOrSame_ite noObject (accepts _ _))⟩
  | channelWrite =>
    exact ⟨_, rfl, doneOrSame_ite refused (doneOrSame_ite refused (doneOrSame_ite busy (accepts _ _)))⟩
  | channelStart =>
    exact ⟨_, rfl, doneOrSame_ite refused (doneOrSame_ite refused (doneOrSame_ite noObject (doneOrSame_ite busy (done _))))⟩
  | channelStop =>
    exact ⟨_, rfl, doneOrSame_ite refused (doneOrSame_ite refused (doneOrSame_ite noObject (doneOrSame_ite (done _) (done _))))⟩
  | channelRead => exact ⟨_, rfl, doneOrSame_ite refused (doneOrSame_ite refused (reported _ _))⟩
  | pairSet =>
    exact ⟨_, rfl, doneOrSame_ite refused (doneOrSame_ite busy (doneOrSame_ite (done _) (doneOrSame_ite (accepts _ _)
      (done _))))⟩
  | dutySwap => exact ⟨_, rfl, doneOrSame_ite refused (doneOrSame_ite refused (doneOrSame_ite refused (done _)))⟩
  | stormForce force =>
    cases force with
    | unlisted => exact ⟨_, rfl, refused⟩
    | val => exact ⟨_, rfl, doneOrSame_ite (done _) (done _)⟩
  | handDrive kind index command value timeout =>
    exact ⟨_, rfl, doneOrSame_handleHandDrive s kind index command value timeout⟩
  | handRelease kind index =>
    refine ⟨handleHandRelease kind index s, rfl, ?_⟩
    unfold handleHandRelease
    split
    · exact refused
    · exact doneOrSame_ite (done _) noObject
  | alarmList => exact ⟨_, rfl, doneOrSame_ite refused (reported _ _)⟩
  | alarmAck code kind index =>
    refine ⟨handleAlarmAck code kind index s, rfl, ?_⟩
    unfold handleAlarmAck
    split
    · exact doneOrSame_ite refused (doneOrSame_ite noObject (done _))
    · exact refused
  | alarmAckClass cls =>
    cases cls with
    | unlisted => exact ⟨_, rfl, refused⟩
    | val => exact ⟨_, rfl, doneOrSame_ite noObject (done _)⟩
  | classMapWrite lines classes =>
    refine ⟨handleClassMapWrite lines classes s, rfl, ?_⟩
    unfold handleClassMapWrite
    split
    · exact refused
    · exact done _
  | save => exact absurd rfl hsave
  | restart => exact ⟨_, rfl, doneOrSame_ite busy (done _)⟩

/-- R13, R14: an EXPRESS_READ that is not answered DONE names no station, or is a drop that is counted. -/
theorem handleExpressRead_cases (s : State) (st : Nat) : (handleExpressRead st s).DoneOrSame s
    ∨ handleExpressRead st s = (s.modFlc fun f => { f with expressDrops := min 65535 (f.expressDrops + 1) }).busy := by
  by_cases hst : st < 48
  · cases ht : s.expressTaken ⟨.station st, none⟩ with
    | true => exact .inl (by rw [handleExpressRead_taken hst ht]; exact doneOrSame_done _ _)
    | false =>
      have hf : s.flc.express.any (·.same ⟨.station st, none⟩) = false ∧ 8 ≤ s.flc.express.length := by
        simpa only [State.expressTaken, Bool.or_eq_false_iff, decide_eq_false_iff_not, Nat.not_lt] using ht
      exact .inr (by rw [handleExpressRead_dropped hst ht, offerExpress_dropped hf.1 hf.2])
  · refine .inl ?_
    unfold handleExpressRead
    rw [if_pos (Nat.not_lt.mp hst)]
    exact doneOrSame_refused s

/-- Settles O7: the handlers of Table 61 one by one, EXPRESS_READ with its drop. -/
theorem requestsAreDoneOrChangeNothing : Obligations.RequestsAreDoneOrChangeNothing := by
  intro c q s hq hsave hs
  have answer (x : Handled) (hx : handle q.hdr q.body (s.addressed q.hdr) = (x.state, some (x.status, x.report)))
      (hd : x.DoneOrSame (s.addressed q.hdr)) : ∃ u status report,
      exec c s = .next (u.answered q.hdr q.body.code status report)
        ∧ (status = .done ∨ report = [] ∧ (u = s.addressed q.hdr ∨ status = .busy ∧ (∃ st, q.body = .expressRead st)
          ∧ u = (s.addressed q.hdr).modFlc fun f => { f with expressDrops := min 65535 (f.expressDrops + 1) })) := by
    refine ⟨_, _, _, exec_ready hq hs hx, ?_⟩
    by_cases hdone : x.status = .done
    · exact .inl hdone
    · exact .inr ⟨if_neg hdone, .inl (hd.resolve_left hdone).2⟩
  by_cases hread : ∃ st, q.body = .expressRead st
  · obtain ⟨st, hst⟩ := hread
    have hh : handle q.hdr q.body (s.addressed q.hdr) = ((handleExpressRead st (s.addressed q.hdr)).state,
        some ((handleExpressRead st (s.addressed q.hdr)).status, (handleExpressRead st (s.addressed q.hdr)).report)) := by
      rw [hst]; rfl
    rcases handleExpressRead_cases (s.addressed q.hdr) st with hd | hdrop
    · exact answer _ hh hd
    · rw [hdrop] at hh
      exact ⟨_, _, _, exec_ready hq hs hh, .inr ⟨rfl, .inr ⟨rfl, ⟨st, hst⟩, rfl⟩⟩⟩
  · obtain ⟨x, hx, hd⟩ := handle_doneOrSame (s.addressed q.hdr) q.hdr hsave fun st h => hread ⟨st, h⟩
    exact answer x hx hd

end Sys2Proof.Machine
end

section
/-! The line arbiter, said once: what it may do to a state (`LineMoves`), what the answer of a request leaves alone, and what
the events of a poll and of a frame do to the line. -/

namespace Sys2Proof.Machine

open Sys2Proof

variable {s t u : State} {P : State → Prop}

/-! ### A turn that begins -/

/-- R5: the turn that begins to a target that `i` answers for. -/
def State.turnTo (s : State) (fromRoster : Bool) (t : Target) (i : Nat) (payload : Option Drive) : Turn :=
  { fromRoster := fromRoster, station := i,
    group := match t with
      | .station _ => none
      | .group g => some g,
    addr := match t, payload with
      | .group g, some _ => 112 + g
      | _, _ => (s.station i).cfg.addr,
    answerAddr := (s.station i).cfg.addr, payload := payload, window := s.flc.line.window,
    retries := if (s.station i).health = .lost then 0 else s.flc.line.retries, retriesMade := 0, phase := .sending }

theorem beginTurn_eq {x : Target} {i : Nat} (hi : s.answerer x = some i) (fromRoster : Bool) (payload : Option Drive) :
    s.beginTurn fromRoster x payload
      = s.modFlc fun f => { f with turn := some (s.turnTo fromRoster x i payload), gap := false } := by
  unfold State.beginTurn
  rw [hi]
  rfl

/-- R10, R15: what a turn to the target may carry: nothing, what a roster DRIVE carries, what an express entry carries. -/
def State.MayCarry (s : State) (x : Target) (payload : Option Drive) : Prop :=
  payload = none ∨ payload = s.rosterPayload x ∨ ∃ d, payload = s.expressPayload ⟨x, d⟩

/-- R1, R15: a target that a turn can be made to has a configured station that answers for it. -/
theorem answerer_of_pollable {x : Target} (hx : s.unpollable x = false) :
    ∃ i, s.answerer x = some i ∧ (s.station i).cfg.configured = true := by
  unfold State.unpollable at hx
  split at hx
  · cases hx
  · exact ⟨_, ‹_›, by simpa using (Bool.or_eq_false_iff.mp hx).1⟩

/-! ### What the arbiter may do -/

/-- What the arbiter leaves of the field line controller where it begins no turn; the round too, while its timer runs. -/
structure Flc.MovesOn (a b : Flc) : Prop where
  overruns : b.overruns = a.overruns
  expressDrops : b.expressDrops = a.expressDrops
  line : b.line = a.line
  turn : b.turn = a.turn
  round : a.roundTimer.isSome = true →
    b.round = a.round ∧ b.active = a.active ∧ b.staged = a.staged ∧ b.roundTimer = a.roundTimer

/-- A move within the round and the express queue. -/
theorem Flc.MovesOn.of_eq {a b : Flc} (h : b = { a with
    passEnded := b.passEnded, passRest := b.passRest, gap := b.gap, consecOverruns := b.consecOverruns,
    express := b.express }) : a.MovesOn b := by
  rw [h]
  exact ⟨rfl, rfl, rfl, rfl, fun _ => ⟨rfl, rfl, rfl, rfl⟩⟩

/-- Kept by all the line arbiter does: it moves on in the round and in the queue, clears ROUND_OVERRUN, and begins a turn. -/
structure LineMoves (P : State → Prop) : Prop where
  flc : ∀ {s : State} (f : Flc → Flc), s.flc.MovesOn (f s.flc) → P s → P (s.modFlc f)
  clear : ∀ {s : State}, P s → P (s.clearAlarm .roundOverrun .fieldLine)
  turn : ∀ {s : State} (fromRoster : Bool) (x : Target) (i : Nat) (payload : Option Drive), s.answerer x = some i →
    (s.station i).cfg.configured = true → s.MayCarry x payload → P s →
    P (s.modFlc fun f => { f with turn := some (s.turnTo fromRoster x i payload), gap := false })

theorem LineMoves.beginTurn (hP : LineMoves P) (h : P s) {x : Target} (hx : s.unpollable x = false) (fromRoster : Bool)
    {payload : Option Drive} (hd : s.MayCarry x payload) : P (s.beginTurn fromRoster x payload) := by
  obtain ⟨i, hi, hc⟩ := answerer_of_pollable hx
  rw [beginTurn_eq hi]
  exact hP.turn fromRoster x i payload hi hc hd h

theorem LineMoves.settlePass (hP : LineMoves P) (h : P s) : P s.settlePass := by
  unfold State.settlePass
  split
  · exact h
  · split
    · exact h
    · have ended := hP.flc (fun f => { f with
        passEnded := true, passRest := [],
        consecOverruns := if s.flc.roundTimer.isSome then 0 else f.consecOverruns }) (.of_eq rfl) h
      exact ite_keeps (hP.clear ended) ended

/-- The first entry of what is left after passing over some is not passed over. -/
theorem head_of_dropWhile {α : Type} {p : α → Bool} {l rest : List α} {x : α} (h : l.dropWhile p = x :: rest) :
    p x = false := by
  have := List.head?_dropWhile_not p l
  rwa [h] at this

theorem LineMoves.rosterTurn (hP : LineMoves P) (h : P s) : P s.rosterTurn := by
  unfold State.rosterTurn
  split
  · exact h
  · rename_i e rest he
    have visited : s.passedOver e = false := head_of_dropWhile he
    have hx : s.unpollable e.target = false := (Bool.or_eq_false_iff.mp visited).2
    refine LineMoves.beginTurn (s := s.modFlc fun f => { f with passRest := rest }) hP
      (hP.flc _ (.of_eq rfl) h) hx true ?_
    cases e.kind
    · exact .inl rfl
    · exact .inr (.inl rfl)

theorem LineMoves.expressTurn (hP : LineMoves P) (h : P s) {e : ExpressEntry} (he : s.unpollable e.target = false)
    (rest : List ExpressEntry) : P (s.expressTurn e rest) :=
  LineMoves.beginTurn (s := s.modFlc fun f => { f with express := rest }) hP (hP.flc _ (.of_eq rfl) h) he false
    (.inr (.inr ⟨e.payload, rfl⟩))

theorem LineMoves.idleExpress (hP : LineMoves P) (h : P s) : P s.idleExpress := by
  unfold State.idleExpress
  split
  · exact hP.flc _ (.of_eq rfl) h
  · rename_i e rest he
    have served : s.unpollable e.target = false := head_of_dropWhile (p := fun e : ExpressEntry => s.unpollable e.target) he
    exact hP.expressTurn h served _

theorem LineMoves.gapExpress (hP : LineMoves P) (h : P s) : P s.gapExpress := by
  unfold State.gapExpress
  split
  · exact hP.flc _ (.of_eq rfl) h
  · split
    · exact hP.flc _ (.of_eq rfl) h
    · exact hP.expressTurn h (Bool.eq_false_iff.mpr ‹_›) _

theorem LineMoves.startRound (hP : LineMoves P) (h : P s) (hr : s.flc.roundTimer.isNone = true) : P s.startRound :=
  hP.flc _ ⟨rfl, rfl, rfl, rfl, fun hs => by simp_all⟩ h

theorem LineMoves.nextTurn (hP : LineMoves P) (h : P s) : P s.nextTurn := by
  have round : P (if s.flc.passEnded && s.flc.roundTimer.isNone then s.startRound.settlePass else s) := by
    split
    · exact hP.settlePass (hP.startRound h (Bool.and_eq_true_iff.mp ‹_›).2)
    · exact h
  exact ite_keeps h (ite_keeps (hP.idleExpress round) (hP.rosterTurn round))

theorem LineMoves.lineArbiter (hP : LineMoves P) (h : P s) : P s.lineArbiter :=
  have settled := hP.settlePass h
  ite_keeps h (hP.nextTurn (ite_keeps (hP.gapExpress settled) settled))

/-- A line that is not free keeps its turn. -/
theorem lineArbiter_of_turn (h : s.flc.turn.isSome = true) : s.lineArbiter = s := if_pos h

/-! ### A clear on the alarm list -/

/-- R153: the alarm list after a clear. -/
def Alarms.cleared (a : Alarms) (now : Nat) (code : AlarmCode) (src : Source) : Alarms :=
  match a.records.find? (·.is code src) with
  | none => a
  | some r =>
    match r.state with
    | .raisedUnack => a.replace { r with state := .clearedUnack, unack := none, last := now }
    | .raisedAck => a.remove code src
    | .clearedUnack => a

/-- A clear reads and changes the alarm list alone, its notice apart. -/
theorem clearAlarm_alarms (s : State) (code : AlarmCode) (src : Source) :
    (s.clearAlarm code src).alarms = s.alarms.cleared s.uptime code src := by
  unfold State.clearAlarm Alarms.cleared State.record
  cases s.alarms.records.find? (·.is code src) with
  | none => rfl
  | some r => cases hst : r.state <;> simp only [hst] <;> rfl

theorem clearAlarm_uptime (s : State) (code : AlarmCode) (src : Source) : (s.clearAlarm code src).uptime = s.uptime := by
  rw [(clearAlarm_only s code src).2]

theorem is_iff (r : AlarmRecord) (code : AlarmCode) (src : Source) : r.is code src = true ↔ r.code = code ∧ r.source = src := by
  simp [AlarmRecord.is]

/-- The record of a code and source after another has been put in its place. -/
theorem find_replace {a : Alarms} {r r' : AlarmRecord} {code : AlarmCode} {src : Source}
    (hr : a.records.find? (·.is code src) = some r) (hc : r'.code = code) (hs : r'.source = src) :
    (a.replace r').records.find? (·.is code src) = some r' := by
  subst hc hs
  have hput : ((·.is r'.code r'.source) ∘ fun x : AlarmRecord => if x.is r'.code r'.source then r' else x)
      = (·.is r'.code r'.source) := by
    funext x
    by_cases hx : x.is r'.code r'.source = true <;> simp [hx, (is_iff r' _ _).mpr ⟨rfl, rfl⟩]
  unfold Alarms.replace
  rw [List.find?_map, hput, hr, Option.map_some, if_pos]
  simpa using List.find?_some hr

/-- A clear made twice is a clear. -/
theorem cleared_again (a : Alarms) (now : Nat) (code : AlarmCode) (src : Source) :
    (a.cleared now code src).cleared now code src = a.cleared now code src := by
  cases hr : a.records.find? (·.is code src) with
  | none => simp only [Alarms.cleared, hr]
  | some r =>
    have key : r.code = code ∧ r.source = src := (is_iff r _ _).mp (by simpa using List.find?_some hr)
    cases hst : r.state with
    | raisedUnack =>
      have after : a.cleared now code src = a.replace { r with state := .clearedUnack, unack := none, last := now } := by
        simp only [Alarms.cleared, hr, hst]
      rw [after]
      simp only [Alarms.cleared, find_replace (r' := { r with state := .clearedUnack, unack := none, last := now })
        hr key.1 key.2]
    | raisedAck =>
      have after : a.cleared now code src = a.remove code src := by simp only [Alarms.cleared, hr, hst]
      have gone : (a.remove code src).records.find? (·.is code src) = none := by
        simp [Alarms.remove, List.find?_eq_none]
      rw [after]
      simp only [Alarms.cleared, gone]
    | clearedUnack => simp only [Alarms.cleared, hr, hst]

/-- A clear leaves the records of other codes. -/
theorem mem_cleared_of_code {a : Alarms} {now : Nat} {code : AlarmCode} {src : Source} {r : AlarmRecord}
    (hc : r.code ≠ code) : r ∈ (a.cleared now code src).records ↔ r ∈ a.records := by
  have other : r.is code src = false := Bool.eq_false_iff.mpr fun h => hc ((is_iff r _ _).mp h).1
  unfold Alarms.cleared
  split
  · rfl
  · rename_i x hx
    have key : x.code = code ∧ x.source = src := (is_iff x _ _).mp (by simpa using List.find?_some hx)
    split
    · simp only [Alarms.replace, List.mem_map, key.1, key.2]
      refine ⟨fun ⟨y, hy, hyr⟩ => ?_, fun h => ⟨r, h, if_neg (Bool.eq_false_iff.mp other)⟩⟩
      split at hyr
      · exact absurd (congrArg AlarmRecord.code hyr).symm hc
      · exact hyr ▸ hy
    · simp [Alarms.remove, other]
    · rfl

/-! ### What an answer leaves alone -/

theorem lineArbiter_counts (u : State) : u.lineArbiter.flc.overruns = u.flc.overruns
    ∧ u.lineArbiter.flc.expressDrops = u.flc.expressDrops := by
  have moves : LineMoves fun t => t.flc.overruns = u.flc.overruns ∧ t.flc.expressDrops = u.flc.expressDrops :=
    { flc := fun _ hf h => ⟨hf.overruns.trans h.1, hf.expressDrops.trans h.2⟩
      clear := fun {s} h => by rw [(clearAlarm_only s _ _).2]; exact h
      turn := fun _ _ _ _ _ _ _ h => h }
  exact moves.lineArbiter ⟨rfl, rfl⟩

/-- R3: the arbiter leaves the alarm list, or clears ROUND_OVERRUN. -/
theorem lineArbiter_alarms (u : State) : u.lineArbiter.alarms = u.alarms
    ∨ u.lineArbiter.alarms = (u.clearAlarm .roundOverrun .fieldLine).alarms := by
  have moves : LineMoves fun t => t.uptime = u.uptime ∧ (t.alarms = u.alarms
      ∨ t.alarms = (u.clearAlarm .roundOverrun .fieldLine).alarms) :=
    { flc := fun _ _ h => h
      clear := fun {s} h => by
        obtain ⟨hu, ha⟩ := h
        refine ⟨(clearAlarm_uptime s _ _).trans hu, .inr ?_⟩
        rw [clearAlarm_alarms] at ha ⊢
        rw [clearAlarm_alarms u, hu]
        rcases ha with ha | ha <;> rw [ha]
        exact cleared_again _ _ _ _
      turn := fun _ _ _ _ _ _ _ h => h }
  exact (moves.lineArbiter ⟨rfl, .inl rfl⟩).2

/-- The list the arbiter leaves, as the records of the other codes show it. -/
theorem mem_lineArbiter_of_code {r : AlarmRecord} (hc : r.code ≠ .roundOverrun) :
    r ∈ u.lineArbiter.alarms.records ↔ r ∈ u.alarms.records := by
  rcases lineArbiter_alarms u with h | h
  · rw [h]
  · rw [h, clearAlarm_alarms, mem_cleared_of_code hc]

/-- The arbiter leaves the settings of the alarm list. -/
theorem lineArbiter_alarmSettings (u : State) : u.lineArbiter.alarms.silenced = u.alarms.silenced
    ∧ u.lineArbiter.alarms.lineMap = u.alarms.lineMap ∧ u.lineArbiter.alarms.codeClasses = u.alarms.codeClasses
    ∧ u.lineArbiter.alarms.escalation = u.alarms.escalation := by
  rcases lineArbiter_alarms u with h | h
  · rw [h]; exact ⟨rfl, rfl, rfl, rfl⟩
  · rw [h, clearAlarm_alarms]
    unfold Alarms.cleared
    split
    · exact ⟨rfl, rfl, rfl, rfl⟩
    · split <;> exact ⟨rfl, rfl, rfl, rfl⟩

/-- The last act of an answer is the transmitter's: the field line and the alarm list stand as the arbiter left them. -/
theorem answered_flc (u : State) (h : Hdr) (code : Nat) (status : Status) (report : List Byte) :
    (u.answered h code status report).flc = u.lineArbiter.flc := by
  unfold State.answered; rw [transmit_eq]; rfl

theorem answered_alarms (u : State) (h : Hdr) (code : Nat) (status : Status) (report : List Byte) :
    (u.answered h code status report).alarms = { u.lineArbiter.alarms with lines := u.lineArbiter.linesNow } := by
  unfold State.answered; rw [transmit_eq]; rfl

/-- The reply of an answer, where the arbiter has left the transmitter alone. -/
theorem replied_answered (u : State) (h : Hdr) (code : Nat) (status : Status) (report : List Byte) :
    u.replied (u.answered h code status report) ⟨h.src, h.tag, code, status, report⟩ := by
  have own : u.lineArbiter.updateLines.port.own = u.port.own :=
    (ownPort_effects _).flags _ rfl ((ownPort_effects _).lineArbiter rfl)
  exact transmit_replied (congrArg Port.tx own :) (congrArg Port.replies own :) _

/-- Settles O5: the arbiter, the annunciator, the reply and the transmitter in turn. -/
theorem answersKeepTheBlocks : Obligations.AnswersKeepTheBlocks := by
  intro u h code status report t
  have kept := Settled.answered u h code status report
  have alarms : t.alarms = { u.lineArbiter.alarms with lines := u.lineArbiter.linesNow } :=
    answered_alarms u h code status report
  have flc : t.flc = u.lineArbiter.flc := answered_flc u h code status report
  obtain ⟨overruns, drops⟩ := lineArbiter_counts u
  obtain ⟨silenced, lineMap, codeClasses, escalation⟩ := lineArbiter_alarmSettings u
  rw [flc, alarms]
  refine ⟨replied_answered u h code status report, kept.stations, kept.groups, kept.points, kept.lanes, kept.zones,
    kept.blowers, kept.pool, kept.channels, kept.pairs, kept.storm, kept.hand, kept.uptime, kept.config, overruns, drops,
    fun r hr hc => (mem_lineArbiter_of_code hc).mpr hr, fun r hr hc => (mem_lineArbiter_of_code hc).mp hr, ?_, silenced,
    lineMap, codeClasses, escalation, rfl⟩
  rcases lineArbiter_alarms u with ha | ha
  · exact .inl ⟨(congrArg Alarms.records ha :), (congrArg Alarms.full ha :)⟩
  · exact .inr ⟨(congrArg Alarms.records ha :), (congrArg Alarms.full ha :)⟩

/-! ### Frames that are no answer, and polls -/

theorem openWindow_of_window {x : Turn} (hx : s.flc.turn = some x) (hp : x.phase = .window) : s.openWindow = some x := by
  unfold State.openWindow
  rw [hx]
  exact if_pos hp

theorem openWindow_of_sending (hx : ∀ x, s.flc.turn = some x → x.phase = .sending) : s.openWindow = none := by
  unfold State.openWindow
  split
  · rename_i x hturn
    exact if_neg (by rw [hx x hturn]; decide)
  · rfl

/-- R7: outside a window a frame that is no answer is unsolicited. -/
theorem badFieldFrame_outside (h : s.openWindow = none) :
    s.badFieldFrame = { s with flc := { s.flc with unsolicited := min 65535 (s.flc.unsolicited + 1) } } := by
  unfold State.badFieldFrame
  rw [h]
  rfl

/-- R6: inside a window it is a format error of the polled station. -/
theorem badFieldFrame_inside {x : Turn} (h : s.openWindow = some x) : s.badFieldFrame = s.formatError x.station := by
  unfold State.badFieldFrame
  rw [h]

theorem fieldFrame_rejected {chars : List Byte} (hc : readFieldFrame chars = .rejected) :
    s.fieldFrame chars = s.badFieldFrame := by
  unfold State.fieldFrame
  rw [hc]

theorem fieldFrame_outside {chars : List Byte} (hc : readFieldFrame chars ≠ .passedOver) (h : s.openWindow = none) :
    s.fieldFrame chars = s.badFieldFrame := by
  unfold State.fieldFrame
  rw [h]
  cases hr : readFieldFrame chars with
  | passedOver => exact absurd hr hc
  | rejected => rfl
  | whole => rfl

/-- R182: a body that is no answer of the polled station. -/
theorem fieldFrame_unanswered {chars body : List Byte} {x : Turn} (hc : readFieldFrame chars = .whole body)
    (h : s.openWindow = some x) (hb : validAnswer x body = none) : s.fieldFrame chars = s.badFieldFrame := by
  unfold State.fieldFrame
  rw [hc, h]
  simp only [hb]

theorem fieldFrame_answered {chars body : List Byte} {x : Turn} {a : Answer} (hc : readFieldFrame chars = .whole body)
    (h : s.openWindow = some x) (hb : validAnswer x body = some a) :
    s.fieldFrame chars = (s.closeTurn x).turnGood x.station a := by
  unfold State.fieldFrame
  rw [hc, h]
  simp only [hb]

theorem validAnswer_none {x : Turn} {body : List Byte} (hb : ∀ a, readAnswer body = some a → a.source ≠ x.answerAddr) :
    validAnswer x body = none := by
  unfold validAnswer
  split
  · rfl
  · exact if_neg (hb _ ‹_›)

theorem validAnswer_some {x : Turn} {body : List Byte} {a : Answer} (hb : readAnswer body = some a)
    (ha : a.source = x.answerAddr) : validAnswer x body = some a := by
  unfold validAnswer
  rw [hb]
  exact if_pos ha

/-- Settles O37: what each link does with a frame that is neither a request nor an answer. -/
theorem otherFramesAreCountedOrPassedOver : Obligations.OtherFramesAreCountedOrPassedOver := by
  intro s chars checked unasked badly
  have field : exec (.fieldFrameReceived chars) s = .next (s.fieldFrame chars).finish := rfl
  have plant : exec (.plantFrameReceived chars) s = .next (s.plantFrameIn chars) := rfl
  refine ⟨fun hc => ?_, rfl, fun hc => ?_, fun f hc hf => ?_, fun x hx hp => ?_, fun hx => ?_⟩
  · rw [plant, State.plantFrameIn, hc]
    rfl
  · rw [plant, State.plantFrameIn, hc]
  · rw [plant, State.plantFrameIn, hc]
    exact congrArg _ (if_pos hf)
  · have window := openWindow_of_window hx hp
    have bad : s.badFieldFrame = badly x := badFieldFrame_inside window
    refine ⟨congrArg _ bad, fun hc => ?_, fun body hc hb => ?_⟩
    · rw [field, fieldFrame_rejected hc, bad]
    · rw [field, fieldFrame_unanswered hc window (validAnswer_none hb), bad]
  · have window := openWindow_of_sending hx
    have bad : s.badFieldFrame = unasked := badFieldFrame_outside window
    refine ⟨congrArg _ bad, fun hc => ?_⟩
    rw [field, fieldFrame_outside hc window, bad]

theorem windowExpiry_retries {x : Turn} (h : s.openWindow = some x) (hr : x.retriesMade < x.retries) :
    s.windowExpiry = s.modFlc fun f =>
      { f with turn := some { x with retriesMade := x.retriesMade + 1, phase := .sending } } := by
  unfold State.windowExpiry
  rw [h]
  exact if_pos hr

theorem windowExpiry_fails {x : Turn} (h : s.openWindow = some x) (hr : x.retries ≤ x.retriesMade) :
    s.windowExpiry = (s.closeTurn x).turnFailed x.station := by
  unfold State.windowExpiry
  rw [h]
  exact if_neg (Nat.not_lt.mpr hr)

theorem exec_answerWindowExpiry {x : Turn} (h : s.openWindow = some x) :
    exec .answerWindowExpiry s = .next s.windowExpiry.finish :=
  congrArg Host.Outcome.next (if_pos (by rw [h]; rfl))

/-- Settles O51: while a turn stands, the arbiter does nothing. -/
theorem pollsOpenWindowsAndAreRetried : Obligations.PollsOpenWindowsAndAreRetried := by
  intro s x hx
  refine ⟨?_, fun hp hr => ?_⟩
  · refine congrArg Host.Outcome.next (modFlc_congr (g := fun f => { f with turn := some { x with phase := .window } }) ?_)
    rw [hx]
    rfl
  · rw [exec_answerWindowExpiry (openWindow_of_window hx hp), windowExpiry_retries (openWindow_of_window hx hp) hr]
    unfold State.finish
    rw [lineArbiter_of_turn rfl]

end Sys2Proof.Machine
end

section
/-! Which entry the line arbiter takes and what its turn carries (R1, R2, R10 to R12, R15, R16), and the round timer's expiry
(R2, R3). -/

namespace Sys2Proof.Machine

open Sys2Proof

variable {s t u : State}

/-! ### Targets that a turn can be made to -/

/-- R1, R15: a configured station, or a group that has a member and a configured answering member. -/
def State.Reachable (s : State) (x : Target) : Prop :=
  match x with
  | .station i => (s.station i).cfg.configured = true
  | .group g => (s.group g).members ≠ [] ∧ ∃ i ∈ (s.group g).answering, (s.station i).cfg.configured = true

theorem unpollable_false_iff (x : Target) : s.unpollable x = false ↔ s.Reachable x := by
  cases x with
  | station i => simp [State.unpollable, State.answerer, State.Reachable]
  | group g =>
    simp only [State.unpollable, State.answerer, State.Reachable]
    cases (s.group g).answering with
    | none => simp
    | some i => simp [and_comm]

theorem unpollable_iff (x : Target) : s.unpollable x = true ↔ ¬ s.Reachable x := by
  rw [← unpollable_false_iff, Bool.not_eq_false]

/-- R1: the entries that this round visits. -/
theorem passedOver_false_iff (e : RosterEntry) :
    s.passedOver e = false ↔ s.flc.round % e.divisor = e.phase ∧ s.Reachable e.target := by
  rw [← unpollable_false_iff]
  simp [State.passedOver]

theorem passedOver_iff (e : RosterEntry) :
    s.passedOver e = true ↔ ¬ (s.flc.round % e.divisor = e.phase ∧ s.Reachable e.target) := by
  rw [← passedOver_false_iff, Bool.not_eq_false]

/-- The first entry that is not passed over, behind those that are. -/
theorem dropWhile_split {α : Type} {p : α → Bool} {before after : List α} {x : α} (hb : ∀ d ∈ before, p d = true)
    (hx : p x = false) : (before ++ x :: after).dropWhile p = x :: after := by
  rw [List.dropWhile_append_of_pos hb, List.dropWhile_cons_of_neg (by simp [hx])]

/-! ### The end of the pass -/

/-- The pass ends. -/
def State.endPass (s : State) : State :=
  s.modFlc fun f =>
    { f with passEnded := true, passRest := [], consecOverruns := if s.flc.roundTimer.isSome then 0 else f.consecOverruns }

/-- The pass ends, in time or not (R1, R3). -/
def State.passEnds (s : State) : State :=
  if s.flc.roundTimer.isSome then s.endPass.clearAlarm .roundOverrun .fieldLine else s.endPass

theorem settlePass_of_ended (h : s.flc.passEnded = true) : s.settlePass = s := if_pos h

theorem settlePass_of_visit {before after : List RosterEntry} {e : RosterEntry} (he : s.flc.passEnded = false)
    (hs : s.flc.passRest = before ++ e :: after) (hb : ∀ d ∈ before, s.passedOver d = true) (hv : s.passedOver e = false) :
    s.settlePass = s := by
  unfold State.settlePass
  rw [if_neg (by simp [he]), hs, dropWhile_split hb hv]

theorem settlePass_of_none (he : s.flc.passEnded = false) (hn : ∀ e ∈ s.flc.passRest, s.passedOver e = true) :
    s.settlePass = s.passEnds := by
  unfold State.settlePass
  rw [if_neg (by simp [he]), List.dropWhile_eq_nil_iff.mpr hn]
  rfl

theorem clearAlarm_flc (s : State) (code : AlarmCode) (src : Source) : (s.clearAlarm code src).flc = s.flc := by
  rw [(clearAlarm_only s code src).2]

theorem passEnds_flc (s : State) : s.passEnds.flc = s.endPass.flc := by
  unfold State.passEnds
  split
  · exact clearAlarm_flc _ _ _
  · rfl

/-- The end of a pass is all that settling can do. -/
theorem settlePass_cases (s : State) : s.settlePass = s ∨ s.settlePass = s.passEnds := by
  unfold State.settlePass
  split
  · exact .inl rfl
  · split
    · exact .inl rfl
    · exact .inr rfl

/-- What settling the pass leaves of the line. -/
theorem settlePass_line (s : State) : s.settlePass.flc.turn = s.flc.turn ∧ s.settlePass.flc.gap = s.flc.gap
    ∧ s.settlePass.flc.roundTimer = s.flc.roundTimer := by
  rcases settlePass_cases s with h | h <;> rw [h]
  · exact ⟨rfl, rfl, rfl⟩
  · rw [passEnds_flc]
    exact ⟨rfl, rfl, rfl⟩

/-! ### The arbiter, case by case -/

theorem lineArbiter_of_free (h : s.flc.turn = none) :
    s.lineArbiter = (if s.settlePass.flc.gap then s.settlePass.gapExpress else s.settlePass).nextTurn := by
  unfold State.lineArbiter
  rw [if_neg (by simp [h])]

theorem nextTurn_of_turn (h : s.flc.turn.isSome = true) : s.nextTurn = s := if_pos h

/-- A turn that begins takes the line, whatever the arbiter has left to say. -/
theorem beginTurn_nextTurn {x : Target} (hx : s.Reachable x) (b : Bool) (d : Option Drive) :
    (s.beginTurn b x d).nextTurn = s.beginTurn b x d := by
  obtain ⟨i, hi, -⟩ := answerer_of_pollable ((unpollable_false_iff x).mpr hx)
  rw [beginTurn_eq hi]
  exact nextTurn_of_turn rfl

/-- A turn that begins leaves no mark that one has closed. -/
theorem beginTurn_gap {x : Target} (hx : s.Reachable x) (b : Bool) (d : Option Drive) (g : Bool) :
    (s.modFlc fun f => { f with gap := g }).beginTurn b x d = s.beginTurn b x d := by
  obtain ⟨i, hi, -⟩ := answerer_of_pollable ((unpollable_false_iff x).mpr hx)
  rw [beginTurn_eq hi, beginTurn_eq (s := s.modFlc fun f => { f with gap := g }) hi]
  rfl

theorem gapExpress_nil (h : s.flc.express = []) : s.gapExpress = s.modFlc fun f => { f with gap := false } := by
  unfold State.gapExpress
  rw [h]

theorem gapExpress_reachable {x : ExpressEntry} {rest : List ExpressEntry} (h : s.flc.express = x :: rest)
    (hx : s.Reachable x.target) : s.gapExpress = s.expressTurn x rest := by
  unfold State.gapExpress
  rw [h]
  exact if_neg (by simp [(unpollable_false_iff _).mpr hx])

theorem gapExpress_unreachable {x : ExpressEntry} {rest : List ExpressEntry} (h : s.flc.express = x :: rest)
    (hx : ¬ s.Reachable x.target) : s.gapExpress = s.modFlc fun f => { f with express := rest, gap := false } := by
  unfold State.gapExpress
  rw [h]
  exact if_pos ((unpollable_iff _).mpr hx)

theorem expressTurn_nextTurn {x : ExpressEntry} {rest : List ExpressEntry} (hx : s.Reachable x.target) :
    (s.expressTurn x rest).nextTurn = s.expressTurn x rest :=
  beginTurn_nextTurn (s := s.modFlc fun f => { f with express := rest }) hx _ _

/-- What the arbiter goes on with where no express entry is owed to the last roster turn. -/
theorem owedNone_cases (h : s.flc.gap = false ∨ s.flc.express = []) :
    (if s.flc.gap then s.gapExpress else s) = s
      ∨ (if s.flc.gap then s.gapExpress else s) = s.modFlc fun f => { f with gap := false } := by
  cases hg : s.flc.gap with
  | false => exact .inl rfl
  | true => exact .inr (gapExpress_nil (h.resolve_left (by simp [hg])))

/-- The roster turn of the entry `e`, with `after` left of the pass, as `s` gives its payload. -/
def State.rosteredTo (s : State) (e : RosterEntry) (after : List RosterEntry) (u : State) : State :=
  (u.modFlc fun f => { f with passRest := after }).beginTurn true e.target
    (match e.kind with
      | .read => none
      | .drive => s.rosterPayload e.target)

/-- What the arbiter goes on with inside a round: an express entry once the pass has ended, the roster before. -/
def State.goesOn (s : State) : State := if s.flc.passEnded then s.idleExpress else s.rosterTurn

/-- R2, R16: a round goes on while its pass has not ended or its timer runs. -/
theorem nextTurn_goesOn (ht : s.flc.turn = none) (hr : (s.flc.passEnded && s.flc.roundTimer.isNone) = false) :
    s.nextTurn = s.goesOn := by
  unfold State.nextTurn
  rw [if_neg (by simp [ht])]
  simp only [hr, Bool.false_eq_true, if_false]
  rfl

theorem nextTurn_rosters {before after : List RosterEntry} {e : RosterEntry} (ht : s.flc.turn = none)
    (he : s.flc.passEnded = false) (hs : s.flc.passRest = before ++ e :: after) (hb : ∀ d ∈ before, s.passedOver d = true)
    (hv : s.passedOver e = false) : s.nextTurn = s.rosteredTo e after s := by
  rw [nextTurn_goesOn ht (by rw [he]; rfl)]
  unfold State.goesOn State.rosterTurn
  rw [if_neg (by simp [he]), hs, dropWhile_split hb hv]
  rfl

/-- R2, R16: in a round whose timer runs, the express entries are what is left once the pass has ended. -/
theorem nextTurn_idles (ht : s.flc.turn = none) (he : s.flc.passEnded = true) (hr : s.flc.roundTimer.isSome = true) :
    s.nextTurn = s.idleExpress := by
  rw [nextTurn_goesOn ht (by rw [he, Option.isNone_eq_false_iff.mpr hr]; rfl)]
  exact if_pos he

/-- R2: a round that waits begins. -/
theorem nextTurn_starts (ht : s.flc.turn = none) (he : s.flc.passEnded = true) (hr : s.flc.roundTimer = none) :
    s.nextTurn = s.startRound.lineArbiter := by
  obtain ⟨turn, gap, timer⟩ := settlePass_line s.startRound
  have calm : s.startRound.settlePass.flc.gap = false := gap
  have begun : s.nextTurn = s.startRound.settlePass.goesOn := by
    unfold State.nextTurn
    rw [if_neg (by simp [ht])]
    simp only [he, hr, Option.isNone_none, Bool.and_self, if_true]
    rfl
  rw [begun, lineArbiter_of_free (s := s.startRound) ht, calm, if_neg Bool.false_ne_true, nextTurn_goesOn (turn.trans ht)]
  rw [timer]
  exact Bool.and_false _

theorem idleExpress_none (h : ∀ x ∈ s.flc.express, ¬ s.Reachable x.target) :
    s.idleExpress = s.modFlc fun f => { f with express := [], gap := false } := by
  unfold State.idleExpress
  rw [List.dropWhile_eq_nil_iff.mpr fun x hx => (unpollable_iff _).mpr (h x hx)]

theorem idleExpress_serves {before rest : List ExpressEntry} {x : ExpressEntry} (h : s.flc.express = before ++ x :: rest)
    (hb : ∀ d ∈ before, ¬ s.Reachable d.target) (hx : s.Reachable x.target) : s.idleExpress = s.expressTurn x rest := by
  unfold State.idleExpress
  rw [h, dropWhile_split (p := fun e : ExpressEntry => s.unpollable e.target) (fun d hd => (unpollable_iff _).mpr (hb d hd))
    ((unpollable_false_iff _).mpr hx)]

/-! ### Which entry the arbiter takes -/

/-- R1, R16: the next roster entry that this round visits, after the express entry owed to the last roster turn. -/
theorem lineArbiter_visits {before after : List RosterEntry} {e : RosterEntry} (ht : s.flc.turn = none)
    (he : s.flc.passEnded = false) (hs : s.flc.passRest = before ++ e :: after) (hb : ∀ d ∈ before, s.passedOver d = true)
    (hv : s.passedOver e = false) :
    (s.flc.gap = false ∨ s.flc.express = [] → s.lineArbiter = s.rosteredTo e after s)
      ∧ ∀ x rest, s.flc.gap = true → s.flc.express = x :: rest →
        (s.Reachable x.target →
          s.lineArbiter = (s.modFlc fun f => { f with express := rest }).beginTurn false x.target (s.expressPayload x))
        ∧ (¬ s.Reachable x.target →
          s.lineArbiter = s.rosteredTo e after (s.modFlc fun f => { f with express := rest })) := by
  have reach : s.Reachable e.target := ((passedOver_false_iff e).mp hv).2
  have settled : s.settlePass = s := settlePass_of_visit he hs hb hv
  have arbiter := lineArbiter_of_free ht
  rw [settled] at arbiter
  refine ⟨fun hg => ?_, fun x rest hg hx => ⟨fun hr => ?_, fun hr => ?_⟩⟩
  · rw [arbiter]
    rcases owedNone_cases hg with h | h <;> rw [h]
    · exact nextTurn_rosters ht he hs hb hv
    · exact (nextTurn_rosters (s := s.modFlc fun f => { f with gap := false }) ht he hs hb hv).trans
        (beginTurn_gap (s := s.modFlc fun f => { f with passRest := after }) reach _ _ _)
  · rw [arbiter, if_pos hg, gapExpress_reachable hx hr, expressTurn_nextTurn hr]
    rfl
  · rw [arbiter, if_pos hg, gapExpress_unreachable hx hr]
    exact (nextTurn_rosters (s := s.modFlc fun f => { f with express := rest, gap := false }) ht he hs hb hv).trans
      (beginTurn_gap (s := s.modFlc fun f => { f with express := rest, passRest := after }) reach _ _ _)

/-- R1, R3: a pass with nothing left to visit ends, and the arbiter goes on. -/
theorem lineArbiter_ends (ht : s.flc.turn = none) (he : s.flc.passEnded = false)
    (hn : ∀ e ∈ s.flc.passRest, s.passedOver e = true) : s.lineArbiter = s.passEnds.lineArbiter := by
  have ended : s.passEnds.flc.passEnded = true := by rw [passEnds_flc]; rfl
  have free : s.passEnds.flc.turn = none := by rw [passEnds_flc]; exact ht
  rw [lineArbiter_of_free ht, settlePass_of_none he hn, lineArbiter_of_free free, settlePass_of_ended ended]

/-- R16: the express entry owed to the last roster turn of a pass. -/
theorem lineArbiter_owes {x : ExpressEntry} {rest : List ExpressEntry} (ht : s.flc.turn = none) (he : s.flc.passEnded = true)
    (hg : s.flc.gap = true) (hx : s.flc.express = x :: rest) :
    (s.Reachable x.target → s.lineArbiter
      = (s.modFlc fun f => { f with express := rest, gap := false }).beginTurn false x.target (s.expressPayload x))
    ∧ (¬ s.Reachable x.target →
      s.lineArbiter = (s.modFlc fun f => { f with express := rest, gap := false }).lineArbiter) := by
  have arbiter := lineArbiter_of_free ht
  rw [settlePass_of_ended he, if_pos hg] at arbiter
  refine ⟨fun hr => ?_, fun hr => ?_⟩
  · rw [arbiter, gapExpress_reachable hx hr, expressTurn_nextTurn hr]
    exact (beginTurn_gap (s := s.modFlc fun f => { f with express := rest }) hr _ _ false).symm
  · rw [arbiter, gapExpress_unreachable hx hr, lineArbiter_of_free (s := s.modFlc fun f => { f with express := rest, gap := false }) ht,
      settlePass_of_ended (s := s.modFlc fun f => { f with express := rest, gap := false }) he]
    rfl

/-- R2: a round that waits gives way to its successor. -/
theorem lineArbiter_waits (ht : s.flc.turn = none) (he : s.flc.passEnded = true) (hr : s.flc.roundTimer = none)
    (hg : s.flc.gap = false ∨ s.flc.express = []) : s.lineArbiter = s.startRound.lineArbiter := by
  rw [lineArbiter_of_free ht, settlePass_of_ended he]
  rcases owedNone_cases hg with h | h <;> rw [h]
  · exact nextTurn_starts ht he hr
  · exact nextTurn_starts (s := s.modFlc fun f => { f with gap := false }) ht he hr

/-- R16: with the pass ended and nothing to serve the express queue empties. -/
theorem lineArbiter_idle (ht : s.flc.turn = none) (he : s.flc.passEnded = true) (hr : s.flc.roundTimer.isSome = true)
    (hn : ∀ x ∈ s.flc.express, ¬ s.Reachable x.target) :
    s.lineArbiter = s.modFlc fun f => { f with express := [], gap := false } := by
  have idles (l : List ExpressEntry) (b : Bool) (hl : ∀ x ∈ l, x ∈ s.flc.express) :
      (s.modFlc fun f => { f with express := l, gap := b }).nextTurn
        = s.modFlc fun f => { f with express := [], gap := false } :=
    (nextTurn_idles (s := s.modFlc fun f => { f with express := l, gap := b }) ht he hr).trans
      (idleExpress_none (s := s.modFlc fun f => { f with express := l, gap := b }) fun x hx => hn x (hl x hx))
  rw [lineArbiter_of_free ht, settlePass_of_ended he]
  cases hg : s.flc.gap with
  | false => exact (nextTurn_idles ht he hr).trans (idleExpress_none hn)
  | true =>
    rw [if_pos rfl]
    cases hx : s.flc.express with
    | nil =>
      rw [gapExpress_nil hx, ← idles [] false (fun x hx => absurd hx List.not_mem_nil)]
      exact congrArg State.nextTurn (modFlc_congr (by rw [hx]))
    | cons x rest =>
      rw [gapExpress_unreachable hx (hn x (by simp [hx]))]
      exact idles rest false fun y hy => by simp [hx, hy]

/-- R16: with the pass ended the first entry that a turn can be made to is served, and those before it are discarded. -/
theorem lineArbiter_serves {before rest : List ExpressEntry} {x : ExpressEntry} (ht : s.flc.turn = none)
    (he : s.flc.passEnded = true) (hr : s.flc.roundTimer.isSome = true) (hs : s.flc.express = before ++ x :: rest)
    (hb : ∀ d ∈ before, ¬ s.Reachable d.target) (hx : s.Reachable x.target) :
    s.lineArbiter = (s.modFlc fun f => { f with express := rest }).beginTurn false x.target (s.expressPayload x) := by
  rw [lineArbiter_of_free ht, settlePass_of_ended he]
  cases hg : s.flc.gap with
  | false => exact (nextTurn_idles ht he hr).trans (idleExpress_serves hs hb hx)
  | true =>
    rw [if_pos rfl]
    cases before with
    | nil =>
      rw [gapExpress_reachable hs hx, expressTurn_nextTurn hx]
      rfl
    | cons d before =>
      rw [gapExpress_unreachable hs (hb d List.mem_cons_self)]
      refine (nextTurn_idles (s := s.modFlc fun f => { f with express := before ++ x :: rest, gap := false }) ht he hr).trans ?_
      refine (idleExpress_serves (s := s.modFlc fun f => { f with express := before ++ x :: rest, gap := false }) rfl
        (fun y hy => hb y (List.mem_cons_of_mem d hy)) hx).trans ?_
      exact beginTurn_gap (s := s.modFlc fun f => { f with express := rest }) hx _ _ false

/-! ### What the turn carries -/

/-- The turn is one to a target that answers, with a payload that it may carry. -/
def State.Fits (s : State) (x : Turn) : Prop :=
  ∃ fromRoster target i payload, s.answerer target = some i ∧ (s.station i).cfg.configured = true
    ∧ s.MayCarry target payload ∧ x = s.turnTo fromRoster target i payload

/-- Between `s` and `t` only the line, the alarm list and the port have moved, and a turn that stands is one that fits. -/
def State.Arbitrated (s t : State) : Prop :=
  ∃ f a p, t = { s with flc := f, alarms := a, port := p } ∧ f.line = s.flc.line ∧ ∀ x, f.turn = some x → s.Fits x

theorem arbitrated_moves (s : State) : LineMoves s.Arbitrated where
  flc := by
    rintro _ g hg ⟨f, a, p, rfl, hl, ht⟩
    exact ⟨g f, a, p, rfl, hg.line.trans hl, fun x hx => ht x (hg.turn.symm.trans hx)⟩
  clear := by
    rintro t ⟨f, a, p, rfl, hl, ht⟩
    exact ⟨f, _, _, (clearAlarm_only _ _ _).2, hl, ht⟩
  turn := by
    rintro _ b x i d hi hc hd ⟨f, a, p, rfl, hl, ht⟩
    refine ⟨_, a, p, rfl, hl, fun y hy => ⟨b, x, i, d, hi, hc, hd, (Option.some.inj hy).symm.trans ?_⟩⟩
    unfold State.turnTo
    simp only [hl]
    rfl

/-- On a free line the turn that the arbiter begins fits the state it is begun in. -/
theorem lineArbiter_fits {x : Turn} (ht : s.flc.turn = none) (hx : s.lineArbiter.flc.turn = some x) : s.Fits x := by
  obtain ⟨f, a, p, hs, -, hf⟩ := (arbitrated_moves s).lineArbiter
    ⟨s.flc, s.alarms, s.port, rfl, rfl, fun x hx => by rw [ht] at hx; cases hx⟩
  rw [hs] at hx
  exact hf x hx

theorem lineHealth_of_answerer {x : Target} {i : Nat} (hi : s.answerer x = some i) : s.lineHealth x = (s.station i).health := by
  unfold State.lineHealth
  rw [hi]

theorem rosterPayload_of_lost {x : Target} (h : s.lineHealth x = .lost) : s.rosterPayload x = none := if_pos h

theorem expressPayload_of_lost {e : ExpressEntry} (h : s.lineHealth e.target = .lost) : s.expressPayload e = none := if_pos h

/-- R10: no demand is carried to a LOST station. -/
theorem mayCarry_of_lost {x : Target} {d : Option Drive} (h : s.lineHealth x = .lost) (hd : s.MayCarry x d) : d = none := by
  rcases hd with hd | hd | ⟨e, hd⟩
  · exact hd
  · exact hd.trans (rosterPayload_of_lost h)
  · exact hd.trans (expressPayload_of_lost h)

/-- R10: the demand of a zone's valve. -/
theorem zonePayload_eq {x : Target} {z : Nat} (hz : s.zoneOfTarget x = some z) :
    s.zonePayload x = match (s.zone z).mode with
      | .off | .waiting => none
      | .auto | .fallback => some (.position (min (s.zone z).desired (s.zone z).cap))
      | .hand => some (.position (s.handPosition z)) := by
  unfold State.zonePayload
  rw [hz]
  cases hm : (s.zone z).mode <;> simp only [hm, State.driven]

theorem blowerPayload_eq (i : Nat) :
    s.blowerPayload i = match s.blowerOfStation i with
      | none => none
      | some b => match (s.blower b).state with
        | .unknown | .lockedOut => none
        | .starting | .running => some (.run (s.blower b).speed)
        | .stopped | .stopping | .tripped => some (.stop (s.blower b).speed)
        | .localMode => some (if s.readsRunning b then .run (s.blower b).speed else .stop (s.blower b).speed) := by
  unfold State.blowerPayload
  cases s.blowerOfStation i with
  | none => rfl
  | some b => cases hm : (s.blower b).state <;> simp [hm, State.blowerDrive, State.blowerRun]

/-- R10: a DRIVE to a blower or a pump carries no position. -/
theorem blowerPayload_no_position (i p : Nat) : s.blowerPayload i ≠ some (.position p) := by
  rw [blowerPayload_eq]
  repeat' split
  all_goals simp

theorem pumpPayload_no_position (i p : Nat) : s.pumpPayload i ≠ some (.position p) := by
  unfold State.pumpPayload pumpDrive
  repeat' split
  all_goals simp

/-- R10: Table 7, of a target that is not LOST. -/
theorem rosterPayload_of_seen {x : Target} : s.lineHealth x ≠ .lost →
    s.rosterPayload x = match x with
      | .group _ => s.zonePayload x
      | .station i => match (s.station i).cfg.role with
        | .probe => none
        | .valve => s.zonePayload x
        | .blower => s.blowerPayload i
        | .pump => s.pumpPayload i := fun h => if_neg h

/-- R15: an express DRIVE of another form than a position, or a READ, is carried as it is stored. -/
theorem expressPayload_stored {x : Target} {d : Option Drive} (h : s.lineHealth x ≠ .lost) (hd : ∀ p, d ≠ some (.position p)) :
    s.expressPayload ⟨x, d⟩ = d := by
  unfold State.expressPayload
  rw [if_neg h]
  cases d with
  | none => rfl
  | some d => cases d <;> first | rfl | exact absurd rfl (hd _)

/-- R15: a stored position is limited to the cap of a zone in AUTO or FALLBACK. -/
theorem expressPayload_capped {x : Target} {z : Nat} (h : s.lineHealth x ≠ .lost) (hz : s.zoneOfTarget x = some z)
    (hm : (s.zone z).mode = .auto ∨ (s.zone z).mode = .fallback) (p : Nat) :
    s.expressPayload ⟨x, some (.position p)⟩ = some (.position (min p (s.zone z).cap)) := by
  unfold State.expressPayload
  rw [if_neg h]
  simp only [hz]
  rcases hm with hm | hm <;> rw [hm]

theorem expressPayload_uncapped {x : Target} (h : s.lineHealth x ≠ .lost)
    (hz : ∀ z, s.zoneOfTarget x = some z → (s.zone z).mode ≠ .auto ∧ (s.zone z).mode ≠ .fallback) (p : Nat) :
    s.expressPayload ⟨x, some (.position p)⟩ = some (.position p) := by
  unfold State.expressPayload
  rw [if_neg h]
  dsimp only
  split
  · rfl
  · rename_i z hx
    obtain ⟨hauto, hfall⟩ := hz z hx
    cases hm : (s.zone z).mode <;> first | rfl | exact absurd hm hauto | exact absurd hm hfall

/-- R11: a position carried to the valve of a zone in AUTO or FALLBACK is at most the zone's cap. -/
theorem mayCarry_capped {x : Target} {z p : Nat} (hz : s.zoneOfTarget x = some z)
    (hm : (s.zone z).mode = .auto ∨ (s.zone z).mode = .fallback) (hd : s.MayCarry x (some (.position p))) :
    p ≤ (s.zone z).cap := by
  have seen : s.lineHealth x ≠ .lost := fun h => by simpa using mayCarry_of_lost h hd
  have roster (h : some (Drive.position p) = s.zonePayload x) : p ≤ (s.zone z).cap := by
    rw [zonePayload_eq hz] at h
    rcases hm with hm | hm <;> rw [hm] at h <;> cases h <;> exact Nat.min_le_right _ _
  rcases hd with hd | hd | ⟨e, hd⟩
  · cases hd
  · rw [rosterPayload_of_seen seen] at hd
    cases x with
    | group g => exact roster hd
    | station i =>
      dsimp only at hd
      cases hr : (s.station i).cfg.role <;> rw [hr] at hd
      · cases hd
      · exact roster hd
      · exact absurd hd.symm (blowerPayload_no_position i p)
      · exact absurd hd.symm (pumpPayload_no_position i p)
  · by_cases he : ∃ q, e = some (.position q)
    · obtain ⟨q, rfl⟩ := he
      rw [expressPayload_capped seen hz hm] at hd
      cases hd
      exact Nat.min_le_right _ _
    · rw [expressPayload_stored seen fun q hq => he ⟨q, hq⟩] at hd
      exact absurd ⟨p, hd.symm⟩ he

/-- Settles O55: the turn that fits, the entry by the cases of the arbiter, the turn's settings, the payloads of Table 7 and R15. -/
theorem turnsCarryNoDemandTheyMayNot : Obligations.TurnsCarryNoDemandTheyMayNot := by
  refine ⟨fun s t ht hx => ?_, fun s ht => ?_, fun s b x d i hi => beginTurn_eq hi b d, fun s x hx => ?_⟩
  · obtain ⟨b, x, i, d, hi, -, hd, rfl⟩ := lineArbiter_fits ht hx
    refine ⟨fun hp hl => ?_, fun z p hz hm hp => ?_, rfl, rfl, rfl, rfl⟩
    · rw [show (s.turnTo b x i d).payload = none from mayCarry_of_lost ((lineHealth_of_answerer hi).trans hl) hd] at hp
      cases hp
    · have target : (match (s.turnTo b x i d).group with
          | some g => Target.group g
          | none => .station (s.turnTo b x i d).station) = x := by
        cases x with
        | group g => rfl
        | station j => exact congrArg Target.station (Option.some.inj hi).symm
      have bound : s.zoneOfTarget x = some z := (congrArg s.zoneOfTarget target).symm.trans hz
      change d = _ at hp
      exact mayCarry_capped bound hm (hp ▸ hd)
  · intro reachable visited
    have skips (e : RosterEntry) : s.passedOver e = true ↔ ¬ visited e := passedOver_iff e
    have stops (e : RosterEntry) : s.passedOver e = false ↔ visited e := passedOver_false_iff e
    refine ⟨fun before e after he hs hb hv => ?_, fun he hn => ?_, fun x rest he hg hx => lineArbiter_owes ht he hg hx,
      fun he hr hg => lineArbiter_waits ht he hr hg, fun he hr => ⟨fun hn => lineArbiter_idle ht he hr hn,
        fun before x rest hs hb hx => lineArbiter_serves ht he hr hs hb hx⟩⟩
    · exact lineArbiter_visits ht he hs (fun d hd => (skips d).mpr (hb d hd)) ((stops e).mpr hv)
    · exact lineArbiter_ends ht he fun e h => (skips e).mpr (hn e h)
  · obtain ⟨i, hi⟩ := hx
    intro lost valve blower pump
    have lost_iff : lost ↔ s.lineHealth x = .lost := by
      rw [lineHealth_of_answerer hi]
      simp [lost, hi]
    have valve_eq : s.zonePayload x = valve := by
      cases hz : s.zoneOfTarget x with
      | none => simp only [State.zonePayload, valve, hz]
      | some z => simp only [zonePayload_eq hz, valve, hz] <;> rfl
    refine ⟨fun hl => ?_, fun hl => ?_, fun hl => ?_⟩
    · rw [lost_iff] at hl
      exact ⟨rosterPayload_of_lost hl, fun d => expressPayload_of_lost hl⟩
    · rw [lost_iff] at hl
      rw [rosterPayload_of_seen hl, valve_eq]
      cases x with
      | group g => rfl
      | station j =>
        cases hr : (s.station j).cfg.role <;> simp only [hr]
        · exact blowerPayload_eq j
        · rfl
    · rw [lost_iff] at hl
      exact ⟨⟨expressPayload_stored hl (by simp), fun v => ⟨expressPayload_stored hl (by simp),
        expressPayload_stored hl (by simp)⟩⟩, fun p => ⟨fun z hz hm => expressPayload_capped hl hz hm p,
        fun hz => expressPayload_uncapped hl hz p⟩⟩

/-! ### The round timer (R2, R3) -/

theorem exec_roundTimerExpiry (h : s.flc.roundTimer.isSome = true) :
    exec .roundTimerExpiry s = .next s.roundExpiry.finish :=
  congrArg Host.Outcome.next (if_pos h)

theorem roundExpiry_of_ended (h : s.flc.passEnded = true) :
    s.roundExpiry = s.modFlc fun f => { f with roundTimer := none } := if_pos h

/-- R3: the expiry of an unended pass, before the alarm is judged. -/
def State.overrun (s : State) : State :=
  s.modFlc fun f => { f with
    roundTimer := none, overruns := min 65535 (f.overruns + 1), consecOverruns := min 255 (f.consecOverruns + 1) }

theorem roundExpiry_of_overrun (h : s.flc.passEnded = false) :
    s.roundExpiry = if 3 ≤ min 255 (s.flc.consecOverruns + 1) then
      s.overrun.raiseAlarm .roundOverrun .fieldLine (some (min 255 (s.flc.consecOverruns + 1))) else s.overrun :=
  if_neg (by simp [h])

/-- What the end of a handling leaves of the field line where a turn stands. -/
theorem finish_of_turn (h : s.flc.turn.isSome = true) : s.finish.flc = s.flc
    ∧ s.finish.alarms.records = s.alarms.records := by
  unfold State.finish
  rw [lineArbiter_of_turn h, transmit_eq]
  exact ⟨rfl, rfl⟩

theorem finish_flc (s : State) : s.finish.flc = s.lineArbiter.flc := by
  unfold State.finish
  rw [transmit_eq]
  rfl

/-- While the round timer runs the arbiter begins no round. -/
theorem lineArbiter_round (h : s.flc.roundTimer.isSome = true) : s.lineArbiter.flc.round = s.flc.round
    ∧ s.lineArbiter.flc.active = s.flc.active ∧ s.lineArbiter.flc.staged = s.flc.staged
    ∧ s.lineArbiter.flc.roundTimer = s.flc.roundTimer ∧ s.lineArbiter.flc.overruns = s.flc.overruns := by
  have moves : LineMoves fun t => t.flc.round = s.flc.round ∧ t.flc.active = s.flc.active ∧ t.flc.staged = s.flc.staged
      ∧ t.flc.roundTimer = s.flc.roundTimer ∧ t.flc.overruns = s.flc.overruns :=
    { flc := fun _ hf ⟨h1, h2, h3, h4, h5⟩ => by
        obtain ⟨k1, k2, k3, k4⟩ := hf.round (h4 ▸ h)
        exact ⟨k1.trans h1, k2.trans h2, k3.trans h3, k4.trans h4, hf.overruns.trans h5⟩
      clear := fun {t} h => by rw [(clearAlarm_only t _ _).2]; exact h
      turn := fun _ _ _ _ _ _ _ h => h }
  exact moves.lineArbiter ⟨rfl, rfl, rfl, rfl, rfl⟩

/-- A raise does not read the field line controller. -/
theorem raiseAlarm_modFlc (s : State) (f : Flc → Flc) (code : AlarmCode) (src : Source) (v : Option Nat) :
    ((s.modFlc f).raiseAlarm code src v).alarms = (s.raiseAlarm code src v).alarms := by
  have record : (s.modFlc f).record code src = s.record code src := rfl
  have evictee : (s.modFlc f).evictee code src = s.evictee code src := rfl
  unfold State.raiseAlarm
  rw [record, evictee, State.modFlc_alarms]
  cases s.record code src with
  | some r => rfl
  | none =>
    by_cases hroom : s.alarms.records.length < 64
    · rw [if_pos hroom, if_pos hroom]
      rfl
    · rw [if_neg hroom, if_neg hroom]
      cases s.evictee code src <;> rfl

/-- Settles O54: a pass that has ended gives way to the next round or waits for a turn; one that has not has overrun. -/
theorem roundTimerBeginsOrOverruns : Obligations.RoundTimerBeginsOrOverruns := by
  intro s hr
  rw [exec_roundTimerExpiry hr]
  refine ⟨fun he ht => ?_, fun he ht hg => ?_, fun he ht => ?_, fun he ht => ?_⟩
  · rw [roundExpiry_of_ended he]
    rfl
  · rw [roundExpiry_of_ended he]
    have kept := Settled.finish (s.modFlc fun f => { f with roundTimer := none })
    refine ⟨_, rfl, kept.config, ?_⟩
    rw [finish_flc, lineArbiter_waits (s := s.modFlc fun f => { f with roundTimer := none }) ht he rfl hg]
    obtain ⟨round, active, staged, timer, overruns⟩ :=
      lineArbiter_round (s := (s.modFlc fun f => { f with roundTimer := none }).startRound) rfl
    exact ⟨round, active, staged, timer, overruns, kept.stations, kept.points, kept.zones⟩
  · rw [roundExpiry_of_ended he]
    have kept := Settled.finish (s.modFlc fun f => { f with roundTimer := none })
    have stands := finish_of_turn (s := s.modFlc fun f => { f with roundTimer := none })
      (Option.isSome_iff_ne_none.mpr ht)
    exact ⟨_, rfl, stands.1, kept.config, kept.stations, kept.points⟩
  · have busy : s.overrun.flc.turn.isSome = true := Option.isSome_iff_ne_none.mpr ht
    rw [roundExpiry_of_overrun he]
    by_cases h3 : 3 ≤ min 255 (s.flc.consecOverruns + 1)
    · rw [if_pos h3]
      have only := raiseAlarm_only s.overrun .roundOverrun .fieldLine (some (min 255 (s.flc.consecOverruns + 1)))
      have flc : (s.overrun.raiseAlarm .roundOverrun .fieldLine (some (min 255 (s.flc.consecOverruns + 1)))).flc
          = s.overrun.flc := by rw [only.2]
      have kept := Settled.finish (s.overrun.raiseAlarm .roundOverrun .fieldLine
        (some (min 255 (s.flc.consecOverruns + 1))))
      have stands := finish_of_turn (by rw [flc]; exact busy)
      refine ⟨_, rfl, stands.1.trans flc, kept.config.trans only.config, kept.stations.trans (by rw [only.2]; rfl),
        kept.points.trans (by rw [only.2]; rfl), fun h => absurd h (by omega), fun _ => stands.2.trans ?_⟩
      exact congrArg Alarms.records (raiseAlarm_modFlc s _ _ _ _)
    · rw [if_neg h3]
      have kept := Settled.finish s.overrun
      have stands := finish_of_turn busy
      exact ⟨_, rfl, stands.1, kept.config, kept.stations, kept.points, fun _ => stands.2, fun h => absurd h (by omega)⟩

end Sys2Proof.Machine
end

section
/-! SUPPORT. What the events that follow a change of a station or a point leave alone, said once. `Blocks` also covers the trim
step of a zone, which consumes a point's freshness; the events that follow a change never step a zone, so that a property kept by
the changes of `Follows` is kept by them and no point moves. -/

namespace Sys2Proof.Machine

open Sys2Proof

/-- Kept by the small changes that the events following a change of a station or a point are made of. -/
structure Follows (P : State → Prop) : Prop extends AirBlocks P, AnyChannel P where
  lane : ∀ {s : State} (l : Nat) (f : Lane → Lane), P s → P (s.modLane l f)
  storm : ∀ {s : State} (f : Storm → Storm), P s → P (s.modStorm f)
  passage : ∀ {s : State} (t : HandTarget), P s → P (s.dropPassage t)

section
variable {P : State → Prop} {s : State} (hP : Follows P)
include hP

/-! ### The lanes -/

theorem Follows.judgeLane (h : P s) (before : State) (l : Nat) : P (State.judgeLane before l s) := by
  unfold State.judgeLane
  apply_rules [hP.lane, hP.raise, hP.clear, each_keeps, ite_keeps]
  intros
  apply_rules [hP.judgeSetpoint, ite_keeps]

theorem Follows.judgeLanes (h : P s) : P s.judgeLanes :=
  each_keeps _ (fun _ _ h => hP.judgeLane h _ _) h

theorem Follows.lanesPoint (h : P s) (p : Nat) (accepted : Bool) : P (s.lanesPoint p accepted) := by
  refine each_keeps _ (fun l u hu => ?_) h
  have moved := hP.lane l (fun x => (u.moveBand l ((u.point p).value)).lane l) hu
  apply_rules [hP.judgeLane, hP.lane, ite_keeps]

/-! ### The channels -/

theorem Follows.syncCommands (h : P s) (before : State) : P (before.syncCommands s) := by
  refine foldl_keeps (fun _ _ h => ?_) _ (foldl_keeps (fun _ _ h => ?_) _ h) <;> exact hP.offerDrive h _ _

theorem Follows.withCommands (h : P s) {f : State → State} (hf : ∀ s, P s → P (f s)) : P (s.withCommands f) :=
  hP.syncCommands (hf s h) s

theorem Follows.channelPoint (h : P s) (c p : Nat) (accepted : Bool) : P (s.channelPoint c p accepted) := by
  unfold State.channelPoint State.accumulate State.judgeLevel
  dsimp only
  repeat' first
    | with_reducible assumption
    | with_reducible apply hP.meter
    | with_reducible apply hP.enterChannel
    | with_reducible refine hP.channel _ _ (fun _ => rfl) ?_
    | with_reducible apply ite_keeps

theorem Follows.channelsPoint (h : P s) (p : Nat) (accepted : Bool) : P (s.channelsPoint p accepted) :=
  hP.withCommands h fun _ h => each_keeps _ (fun _ _ h => ite_keeps h (hP.channelPoint h _ _ _)) h

theorem Follows.judgeChannel (h : P s) (c : Nat) : P (State.judgeChannel c s) := by
  unfold State.judgeChannel State.losePump State.recoverChannel
  split
  · exact h
  · have recovered := hP.enterFlow (hP.clear .channelNoPump (.channel c)
      (ite_keeps (c := s.pumpAvailable (s.dutyPump c) = true) h (hP.moveDuty h c))) c
    have lost := ite_keeps (c := s.otherAvailable c = true)
      (hP.clear .channelChangeover (.channel c) (hP.raise .channelChangeover (.channel c) none (hP.moveDuty h c)))
      (hP.faultChannel h c)
    split
    · exact ite_keeps h lost
    · exact ite_keeps h lost
    · exact ite_keeps recovered h
    · exact ite_keeps (hP.startChannel h c) h

theorem Follows.judgeChannels (h : P s) : P s.judgeChannels :=
  hP.withCommands h fun _ h => each_keeps _ (fun c _ h => hP.judgeChannel h c) h

/-! ### The Storm Monitor -/

theorem Follows.enterStorm (h : P s) (st : StormState) : P (s.enterStorm st) := by
  unfold State.enterStorm
  dsimp only
  repeat' first
    | with_reducible assumption
    | with_reducible apply hP.storm
    | with_reducible apply hP.notice
    | with_reducible apply hP.setAlarm
    | with_reducible apply hP.judgeLanes
    | with_reducible apply hP.judgeMinimum
    | with_reducible apply ite_keeps

theorem Follows.stormReading (h : P s) (v : Nat) : P (s.stormReading v) := by
  unfold State.stormReading
  dsimp only
  repeat' first
    | with_reducible assumption
    | with_reducible apply hP.storm
    | with_reducible apply hP.enterStorm
    | with_reducible apply ite_keeps
    | split

theorem Follows.holdExpires (h : P s) : P s.holdExpires := by
  unfold State.holdExpires
  dsimp only
  repeat' first
    | with_reducible assumption
    | with_reducible apply hP.storm
    | with_reducible apply hP.enterStorm
    | with_reducible apply ite_keeps
    | split

theorem Follows.thaw (h : P s) : P s.thaw := by
  unfold State.thaw State.entryExpires State.exitExpires
  dsimp only
  repeat' first
    | with_reducible assumption
    | with_reducible apply hP.storm
    | with_reducible apply hP.clear
    | with_reducible apply hP.enterStorm
    | with_reducible apply hP.holdExpires
    | with_reducible apply ite_keeps

theorem Follows.stormPoint (h : P s) (p : Nat) (accepted : Bool) : P (s.stormPoint p accepted) := by
  unfold State.stormPoint State.judgeInfluent State.suspendTimers
  dsimp only
  repeat' first
    | with_reducible assumption
    | with_reducible apply hP.storm
    | with_reducible apply hP.raise
    | with_reducible apply hP.clear
    | with_reducible apply hP.stormReading
    | with_reducible apply hP.thaw
    | with_reducible apply ite_keeps
    | split

/-! ### The passages and the events -/

theorem Follows.endPassage (h : P s) (t : HandTarget) (byLoss : Bool) : P (s.endPassage t byLoss) := by
  unfold State.endPassage
  split
  · exact h
  · have ended := hP.passage t h
    dsimp only
    split
    · exact hP.leaveHand ended _ _
    · exact hP.syncCommands (ite_keeps ended (hP.offerDrive ended _ _)) s

theorem Follows.endLostPassages (h : P s) : P s.endLostPassages := by
  unfold State.endLostPassages
  refine foldl_keeps (fun _ t h => ?_) _ h
  exact ite_keeps (hP.endPassage h t true) h

/-- What the consumers of a point do when it changes. -/
theorem Follows.notifyPoint (h : P s) (p : Nat) (accepted : Bool) : P (s.notifyPoint p accepted) := by
  unfold State.notifyPoint
  have lanes := hP.rejudgeZones (hP.lanesPoint h p accepted)
  exact hP.headerPoint (hP.channelsPoint (hP.stormPoint lanes p accepted) p accepted) p

theorem Follows.notifyPoints (points : List Nat) (h : P s) :
    P (points.foldl (fun (u : State) p => u.notifyPoint p false) s) := by
  refine foldl_keeps (fun _ p h => ?_) _ h
  exact hP.notifyPoint h p false

theorem Follows.flagEvents (h : P s) (st : Nat) (fault localMode : Bool × Bool) : P (s.flagEvents st fault localMode) := by
  have faults := ite_keeps (c := fault.1 = fault.2) h
    (hP.eachBlowerOn (f := State.blowerFaultEvent) (fun b _ h => ite_keeps h (hP.judgeBlower h b)) h st)
  refine ite_keeps faults (hP.eachBlowerOn (fun b _ h => ?_) faults st)
  split
  · exact hP.blowerLocalSet h b
  · exact hP.blowerLocalClear h b

theorem Follows.stationEvents (h : P s) (st : Nat) (old : Station) : P (s.stationEvents st old) :=
  hP.judgeChannels (hP.flagEvents (hP.rejudgeZones h) st _ _)

theorem Follows.adoptAll (h : P s) (st : Nat) : P (s.adoptAll st) :=
  hP.eachBlowerOn (fun _ _ h => ite_keeps (hP.adopt h _) h) h st

theorem Follows.lossEvents (h : P s) (st : Nat) (points : List Nat) : P (s.lossEvents st points) :=
  hP.judgeChannels (hP.eachBlowerOn (fun b _ h => hP.blowerLost h b)
    (hP.rejudgeZones (hP.notifyPoints points (hP.endLostPassages h))) st)

theorem Follows.clearStation (h : P s) (st : Nat) : P (s.clearStation st) :=
  hP.clear _ _ (hP.clear _ _ h)

end
/-! ### What no such event moves -/

/-- The stations, the clock, the turn on the line and the frame being sent are those of `s`, and so are the points offered for
forwarding. -/
def State.Aside (s t : State) : Prop :=
  t.uptime = s.uptime ∧ t.stations = s.stations ∧ t.groups = s.groups ∧ t.flc.turn = s.flc.turn ∧ t.flc.line = s.flc.line
    ∧ t.port.tx = s.port.tx ∧ t.port.forward = s.port.forward

/-- The points are those of `s` as well. -/
def State.Beyond (s t : State) : Prop := s.Aside t ∧ t.points = s.points

variable {s t u : State}

theorem State.Aside.refl (s : State) : s.Aside s := ⟨rfl, rfl, rfl, rfl, rfl, rfl, rfl⟩

theorem State.Aside.trans (h : s.Aside t) (k : t.Aside u) : s.Aside u := by
  obtain ⟨h1, h2, h3, h4, h5, h6, h7⟩ := h
  obtain ⟨k1, k2, k3, k4, k5, k6, k7⟩ := k
  exact ⟨k1.trans h1, k2.trans h2, k3.trans h3, k4.trans h4, k5.trans h5, k6.trans h6, k7.trans h7⟩

theorem State.Beyond.refl (s : State) : s.Beyond s := ⟨.refl s, rfl⟩

theorem State.Beyond.trans (h : s.Beyond t) (k : t.Beyond u) : s.Beyond u := ⟨h.1.trans k.1, k.2.trans h.2⟩

theorem State.Aside.station_eq (h : s.Aside t) (i : Nat) : t.station i = s.station i := by
  obtain ⟨-, stations, -⟩ := h
  unfold State.station
  rw [stations]

theorem State.Beyond.point_eq (h : s.Beyond t) (p : Nat) : t.point p = s.point p := by
  unfold State.point
  rw [h.2]

/-- The alarm list and the notices are beside all these. -/
theorem AlarmsOnly.beyond (h : AlarmsOnly s t) : s.Beyond t := by
  rw [h.2]
  exact .refl s

theorem beyond_follows (s : State) : Follows s.Beyond where
  zone _ _ _ h := h
  blower _ _ _ h := h
  start _ _ _ h := h
  pool _ _ h := h
  notice n h := by rw [offerNotice_eq]; exact h
  express e h := by rw [offerExpress_eq]; exact h
  raise _ _ _ h := h.trans (raiseAlarm_only _ _ _ _).beyond
  clear _ _ h := h.trans (clearAlarm_only _ _ _).beyond
  channel _ _ _ h := h
  pair _ _ _ h := h
  lane _ _ h := h
  storm _ h := h
  passage _ h := h

/-! ### Points taken one after another -/

section
variable {f : Point → Point} {g : State → Nat → State} (hg : ∀ (s : State) (p : Nat), (s.modPoint p f).Beyond (g s p))
include hg

/-- What changes the record of each of some points leaves the rest of `Aside`. -/
theorem foldl_aside (points : List Nat) (s : State) : s.Aside (points.foldl g s) :=
  foldl_keeps (P := s.Aside) (fun u p h => h.trans (u := g u p) (hg u p).1) points (.refl s)

theorem foldl_length (points : List Nat) (s : State) : (points.foldl g s).points.length = s.points.length :=
  foldl_keeps (P := fun u => u.points.length = s.points.length)
    (fun u p h => by rw [(hg u p).2, State.modPoint_points, List.length_modify, h]) points rfl

/-- The points that are taken, each once or more, and the others. -/
theorem foldl_point (hf : ∀ x, f (f x) = f x) (points : List Nat) (s : State) (q : Nat) : (points.foldl g s).point q
    = if q ∈ points ∧ q < s.points.length then f (s.point q) else s.point q := by
  induction points generalizing s with
  | nil => simp
  | cons p points ih =>
    have length : (g s p).points.length = s.points.length := foldl_length hg [p] s
    rw [List.foldl_cons, ih, length, (hg s p).point_eq, State.point_modPoint]
    by_cases hp : q = p
    · subst hp
      by_cases hq : q < s.points.length <;> simp [hq, hf]
    · simp [hp, Ne.symm hp]

end

/-- R38: the record of a point that becomes STALE. -/
def Point.staled (x : Point) : Point := { x with validity := .stale, suspectCause := none, fresh := false, staleDeadline := none }

theorem pointStale_beyond (s : State) (p : Nat) : (s.modPoint p Point.staled).Beyond (s.pointStale p) := by
  have cleared := (beyond_follows (s.modPoint p Point.staled)).clear .pointSuspect (.point p) (.refl _)
  exact ite_keeps ((beyond_follows _).raise _ _ _ cleared) cleared

theorem pointNone_beyond (s : State) (p : Nat) : (s.modPoint p Point.toNone).Beyond (s.pointNone p) := by
  have follows := beyond_follows (s.modPoint p Point.toNone)
  exact follows.clear _ _ (follows.clear _ _ (follows.clear _ _ (.refl _)))

theorem mem_pointsOf {st p : Nat} :
    p ∈ s.pointsOf st ↔ p < 128 ∧ ∃ src ∈ (s.point p).cfg.source, src.station = st := by
  unfold State.pointsOf
  rw [List.mem_filter, List.mem_range]
  cases (s.point p).cfg.source <;> simp

theorem nodup_pointsOf (st : Nat) : (s.pointsOf st).Nodup := List.nodup_range.filter _

theorem current_iff (x : Point) : x.current = true ↔ x.validity = .good ∨ x.validity = .suspect := by
  simp [Point.current]

end Sys2Proof.Machine
end

section
/-! A turn that closes FAILED: the station's record, and what follows where it enters LOST. -/

namespace Sys2Proof.Machine

open Sys2Proof

variable {s t u : State}

/-! ### Records -/

/-- A change of one entry only matters for what that entry is. -/
theorem modify_congr {α : Type} {l : List α} {i : Nat} {f g : α → α} (h : ∀ x, l[i]? = some x → f x = g x) :
    l.modify i f = l.modify i g := by
  apply List.ext_getElem?
  intro j
  rw [List.getElem?_modify, List.getElem?_modify]
  by_cases hij : i = j
  · subst hij
    cases hx : l[i]? with
    | none => rfl
    | some x => simp [h x hx]
  · simp [hij]

/-- The entry that stands at an index is the one read there. -/
theorem station_of_getElem? {i : Nat} {x : Station} (h : s.stations[i]? = some x) : s.station i = x := by
  unfold State.station
  rw [List.getD_eq_getElem?_getD, h]
  rfl

/-- A station that the table does not hold reads as one never configured. -/
theorem station_of_length_le {i : Nat} (h : s.stations.length ≤ i) : s.station i = Station.start .blank := by
  unfold State.station
  rw [List.getD_eq_getElem?_getD, List.getElem?_eq_none h]
  rfl

/-- The arbiter's new turn begins by sending its poll. -/
theorem finish_sends {x : Turn} (hs : s.flc.turn = none) (hx : s.finish.flc.turn = some x) : x.phase = .sending := by
  rw [finish_flc] at hx
  obtain ⟨_, _, _, _, -, -, -, rfl⟩ := lineArbiter_fits hs hx
  rfl

/-! ### The close -/

/-- R8, R19: the record of a station after a FAILED close that finds the threshold at `n`. -/
def Station.failedOnce (n : Nat) (x : Station) : Station :=
  { x with
    consec := min 255 (x.consec + 1),
    counters := { x.counters with
      turns := min 65535 (x.counters.turns + 1), failed := min 65535 (x.counters.failed + 1) },
    health := if n ≤ min 255 (x.consec + 1) then .lost else x.health }

/-- R19: a FAILED close at a threshold of `n` takes the station to LOST. -/
def Station.entersLost (n : Nat) (x : Station) : Prop := n ≤ min 255 (x.consec + 1) ∧ x.health ≠ .lost

/-- R33: the record after the close and all that follows: entering LOST makes the last number absent. -/
def Station.failedTurn (n : Nat) (x : Station) : Station :=
  { x.failedOnce n with
    lastSeq := if n ≤ min 255 (x.consec + 1) ∧ x.health ≠ .lost then none else x.lastSeq }

/-- R20, R39: a station enters LOST: its points go STALE and it is told. -/
def State.lostTold (s : State) (st : Nat) (points : List Nat) : State :=
  let staled := points.foldl State.pointStale s
  if (s.station st).cfg.alarm then staled.raiseAlarm .stationLost (.station st) (some (s.station st).consec) else staled

/-- R39: the points of a station that can become STALE, in the order in which they do. -/
def State.ageing (s : State) (st : Nat) : List Nat := (s.pointsOf st).filter fun p => (s.point p).current

theorem mem_ageing {st p : Nat} : p ∈ s.ageing st ↔ p < 128 ∧ (∃ src ∈ (s.point p).cfg.source, src.station = st)
    ∧ ((s.point p).validity = .good ∨ (s.point p).validity = .suspect) := by
  unfold State.ageing
  rw [List.mem_filter, mem_pointsOf, current_iff, and_assoc]

theorem nodup_ageing (s : State) (st : Nat) : (s.ageing st).Nodup := (nodup_pointsOf st).filter _

theorem lostTold_aside (s : State) (st : Nat) (points : List Nat) : s.Aside (s.lostTold st points) := by
  have staled := foldl_aside pointStale_beyond points s
  refine ite_keeps (P := s.Aside) ?_ staled
  exact staled.trans (raiseAlarm_only _ _ _ _).beyond.1

theorem lostTold_point (s : State) (st : Nat) (points : List Nat) (p : Nat) :
    (s.lostTold st points).point p = (points.foldl State.pointStale s).point p := by
  unfold State.lostTold
  dsimp only
  split
  · exact (raiseAlarm_only _ _ _ _).beyond.point_eq p
  · rfl

theorem enterLost_eq (s : State) (st : Nat) : s.enterLost st
    = ((s.modStation st fun x => { x with lastSeq := none }).lostTold st (s.ageing st)).lossEvents st (s.ageing st) := by
  have told (v : State) (points : List Nat) (hv : (points.foldl State.pointStale v).station st = v.station st) :
      (if ((points.foldl State.pointStale v).station st).cfg.alarm then
        (points.foldl State.pointStale v).raiseAlarm .stationLost (.station st)
          (some ((points.foldl State.pointStale v).station st).consec)
        else points.foldl State.pointStale v) = v.lostTold st points := by
    rw [hv]
    rfl
  exact congrArg (State.lossEvents · st _) (told _ _ ((foldl_aside pointStale_beyond _ _).station_eq st))

theorem modStation_congr {st : Nat} {f g : Station → Station} (h : f (s.station st) = g (s.station st)) :
    s.modStation st f = s.modStation st g :=
  congrArg (fun l => { s with stations := l }) (modify_congr fun x hx => by rwa [station_of_getElem? hx] at h)

theorem failedOnce_lost {n : Nat} {x : Station} (hx : x.health ≠ .lost) :
    (x.failedOnce n).health = .lost ↔ n ≤ min 255 (x.consec + 1) := by
  unfold Station.failedOnce
  dsimp only
  split <;> simp_all

/-- R19: whether the close takes the station to LOST, as the record after it shows. -/
theorem entersLost_iff {st : Nat} (hst : st < s.stations.length) (n : Nat) : (s.station st).entersLost n
    ↔ (s.station st).health ≠ .lost ∧ ((s.modStation st (Station.failedOnce n)).station st).health = .lost := by
  rw [State.station_modStation, if_pos ⟨rfl, hst⟩]
  exact ⟨fun h => ⟨h.2, (failedOnce_lost h.2).mpr h.1⟩, fun h => ⟨(failedOnce_lost h.1).mp h.2, h.1⟩⟩

theorem turnFailed_of_stays {st : Nat} (h : ¬ (s.station st).entersLost s.flc.line.lostThreshold)
    (hst : st < s.stations.length) :
    s.turnFailed st = s.modStation st (Station.failedTurn s.flc.line.lostThreshold) := by
  refine (if_neg fun k => h ((entersLost_iff hst _).mpr k)).trans (modStation_congr ?_)
  exact congrArg (fun q => ({ (s.station st).failedOnce s.flc.line.lostThreshold with lastSeq := q } : Station)) (if_neg h).symm

/-- The close of a turn to a station that the table does not hold. -/
theorem turnFailed_of_length_le {st : Nat} (hst : s.stations.length ≤ st) : s.turnFailed st = s := by
  have same (f : Station → Station) : s.modStation st f = s :=
    congrArg (fun l => { s with stations := l }) (List.modify_eq_self hst)
  unfold State.turnFailed
  simp only [same, station_of_length_le hst]
  rfl

theorem turnFailed_of_enters {st : Nat} (hst : st < s.stations.length)
    (h : (s.station st).entersLost s.flc.line.lostThreshold) :
    s.turnFailed st = ((s.modStation st (Station.failedTurn s.flc.line.lostThreshold)).lostTold st (s.ageing st)).lossEvents st
        (s.ageing st) := by
  have closed : (s.modStation st (Station.failedOnce s.flc.line.lostThreshold)).modStation st
      (fun x => { x with lastSeq := none }) = s.modStation st (Station.failedTurn s.flc.line.lostThreshold) := by
    refine Eq.trans (congrArg (fun l => { s with stations := l }) (List.modify_modify_eq _ _ _ _)) (modStation_congr ?_)
    exact congrArg (fun q => ({ (s.station st).failedOnce s.flc.line.lostThreshold with lastSeq := q } : Station)) (if_pos h).symm
  refine (if_pos ((entersLost_iff hst _).mp h)).trans ((enterLost_eq _ st).trans ?_)
  exact congrArg (fun v : State => (v.lostTold st (s.ageing st)).lossEvents st (s.ageing st)) closed

/-- R8: beside the station's record the close and what follows leave the stations, the groups and the line alone. -/
theorem turnFailed_aside (s : State) (st : Nat) :
    (s.modStation st (Station.failedTurn s.flc.line.lostThreshold)).Aside (s.turnFailed st) := by
  rcases Nat.lt_or_ge st s.stations.length with hst | hst
  · by_cases h : (s.station st).entersLost s.flc.line.lostThreshold
    · rw [turnFailed_of_enters hst h]
      exact (lostTold_aside _ _ _).trans ((beyond_follows _).lossEvents (.refl _) _ _).1
    · rw [turnFailed_of_stays h hst]
      exact .refl _
  · have same : s.modStation st (Station.failedTurn s.flc.line.lostThreshold) = s :=
      congrArg (fun l => { s with stations := l }) (List.modify_eq_self hst)
    rw [same, turnFailed_of_length_le hst]
    exact .refl s

/-! ### The statement -/

/-- Settles O52: the close, then what entering LOST brings, then the arbiter. -/
theorem turnsCloseFailed : Obligations.TurnsCloseFailed := by
  intro s x hx hp hr
  have window := openWindow_of_window hx hp
  have config : ((s.closeTurn x).turnFailed x.station).finish.config = s.config :=
    ((Settled.finish _).config).trans ((config_plant s.config).turnFailed (s := s.closeTurn x) rfl x.station)
  have settled := Settled.finish ((s.closeTurn x).turnFailed x.station)
  obtain ⟨-, stations, groups, turn, -⟩ := turnFailed_aside (s.closeTurn x) x.station
  refine ⟨_, by rw [exec_answerWindowExpiry window, windowExpiry_fails window hr], config, settled.groups.trans groups,
    fun h => ?_, settled.stations.trans stations, fun hst => ?_⟩
  · rw [finish_sends turn h] at hp
    cases hp
  · intro y failed enters closed ageing
    have hclosed : closed = (s.closeTurn x).modStation x.station (Station.failedTurn s.flc.line.lostThreshold) := by
      exact congrArg (fun l => { s.closeTurn x with stations := l }) (settled.stations.trans stations)
    have lost (h : y.entersLost s.flc.line.lostThreshold) : (s.closeTurn x).turnFailed x.station
        = (closed.lostTold x.station (s.ageing x.station)).lossEvents x.station (s.ageing x.station) := by
      rw [hclosed]
      exact turnFailed_of_enters (s := s.closeTurn x) hst h
    have points (h : y.entersLost s.flc.line.lostThreshold) (p : Nat) :
        ((s.closeTurn x).turnFailed x.station).finish.point p
          = if p ∈ s.ageing x.station ∧ p < s.points.length then (s.point p).staled else s.point p := by
      have kept : (((s.closeTurn x).turnFailed x.station).finish).point p
          = ((s.closeTurn x).turnFailed x.station).point p :=
        congrArg (fun l : List Point => l.getD p (Point.start .blank)) settled.points
      rw [kept, lost h, ((beyond_follows _).lossEvents (.refl _) _ _).point_eq, lostTold_point, foldl_point pointStale_beyond fun _ => rfl]
      rfl
    refine ⟨fun h => ?_, fun h => ⟨s.ageing x.station, nodup_ageing s _, fun p => mem_ageing, ?_, ?_, ?_⟩⟩
    · rw [turnFailed_of_stays (s := s.closeTurn x) h hst, hclosed]
      rfl
    · have record : closed.station x.station = y.failedTurn s.flc.line.lostThreshold := by
        rw [hclosed, State.station_modStation, if_pos ⟨rfl, hst⟩]
        rfl
      rw [lost h]
      unfold State.lostTold
      rw [record]
      rfl
    · intro p hp hlen ha
      rw [points h p, if_pos ⟨mem_ageing.mpr ⟨hp, ha⟩, hlen⟩]
      rfl
    · intro p hp
      rw [points h p, if_neg fun k => hp (mem_ageing.mp k.1)]

end Sys2Proof.Machine
end

section
/-! A reading delivered to its point: what it does to the point and to the forward queue, and that it does nothing else to
either. -/

namespace Sys2Proof.Machine

open Sys2Proof

variable {s t u : State} {p q : Nat}

/-! ### Reading rules -/

theorem State.point_modPoint_same (h : p < s.points.length) (f : Point → Point) : (s.modPoint p f).point p = f (s.point p) := by
  rw [State.point_modPoint, if_pos ⟨rfl, h⟩]

theorem State.point_modPoint_ne (h : q ≠ p) (f : Point → Point) : (s.modPoint p f).point q = s.point q := by
  rw [State.point_modPoint, if_neg fun k => h k.1.symm]

theorem State.modPoint_modPoint (s : State) (p : Nat) (f g : Point → Point) :
    (s.modPoint p f).modPoint p g = s.modPoint p (g ∘ f) :=
  congrArg (fun l => { s with points := l }) (List.modify_modify_eq f g p s.points)

theorem point_of_getElem? {x : Point} (h : s.points[p]? = some x) : s.point p = x := by
  unfold State.point
  rw [List.getD_eq_getElem?_getD, h]
  rfl

theorem modPoint_congr {f g : Point → Point} (h : f (s.point p) = g (s.point p)) : s.modPoint p f = s.modPoint p g :=
  congrArg (fun l => { s with points := l }) (modify_congr fun x hx => by rwa [point_of_getElem? hx] at h)

theorem State.Beyond.modPoint (h : s.Beyond t) (f : Point → Point) : (s.modPoint p f).Beyond (t.modPoint p f) :=
  ⟨h.1, congrArg (List.modify · p f) h.2⟩

/-! ### The record of a point that takes a reading -/

/-- R36, R37: the record of a point that has accepted a value at `now`. -/
def Point.accepted (now v : Nat) (x : Point) : Point :=
  { x with
    value := v, lastTime := some now, staleDeadline := some (now + x.cfg.staleLimit),
    validity := if plausible x.cfg v then .good else .suspect,
    suspectCause := if plausible x.cfg v then none else some .range, fresh := plausible x.cfg v }

/-- R35: the record of a point that was brought a reading not well formed. -/
def Point.mismatched (x : Point) : Point := { x with validity := .suspect, suspectCause := some .kind, fresh := false }

/-- R42: the record after its value has been offered to a queue that takes it or does not. -/
def Point.offered (takes : Bool) (x : Point) : Point :=
  if x.offers x.value && takes then { x with lastForwarded := some x.value } else x

/-- R172: the forward queue after an offer. -/
def offeredTo (queue : List PendingPoint) (e : PendingPoint) : List PendingPoint :=
  if queue.any (·.point == e.point) then queue.map fun x => if x.point == e.point then e else x
  else if queue.length < 16 then queue ++ [e]
  else queue

theorem offerForward_forward (s : State) (e : PendingPoint) :
    (s.offerForward e).port.forward = offeredTo s.port.forward e := by
  unfold State.offerForward offeredTo State.modPort
  dsimp only
  repeat' split
  all_goals rfl

/-! ### What a delivered reading does -/

theorem pointGoodNow_beyond (s : State) (p : Nat) : (s.modPoint p fun x =>
    { x with validity := .good, suspectCause := none, fresh := true }).Beyond (s.pointGoodNow p) :=
  (beyond_follows _).clear _ _ ((beyond_follows _).clear _ _ (.refl _))

theorem pointOutOfRange_beyond (s : State) (p : Nat) : (s.modPoint p fun x =>
    { x with validity := .suspect, suspectCause := some .range, fresh := false }).Beyond (s.pointOutOfRange p) := by
  have cleared := (beyond_follows (s.modPoint p fun x =>
    { x with validity := .suspect, suspectCause := some .range, fresh := false })).clear .pointStale (.point p) (.refl _)
  exact ite_keeps ((beyond_follows _).raise _ _ _ cleared) cleared

theorem modPoint_of_fix {f : Point → Point} (h : f (s.point p) = s.point p) : s.modPoint p f = s :=
  (modPoint_congr (g := id) h).trans (congrArg (fun l => { s with points := l }) (List.modify_id p s.points))

theorem offered_of_offers {x : Point} (h : x.offers x.value = true) (takes : Bool) :
    x.offered takes = if takes then { x with lastForwarded := some x.value } else x := by
  unfold Point.offered
  rw [h, Bool.true_and]

theorem offered_of_not_offers {x : Point} (h : x.offers x.value = false) (takes : Bool) : x.offered takes = x := by
  unfold Point.offered
  rw [h, Bool.false_and]
  rfl

/-- R42: a value that is not offered. -/
theorem forwardReading_keeps (h : (s.point p).offers (s.point p).value = false) : s.forwardReading p = s := by
  unfold State.forwardReading
  dsimp only
  rw [h]
  rfl

/-- R42: a value that is offered. -/
theorem forwardReading_offers (h : (s.point p).offers (s.point p).value = true) : s.forwardReading p
    = (s.offerForward ⟨p, (s.point p).value, (s.point p).validity⟩).modPoint p (Point.offered (s.forwardTakes p)) := by
  have same : (s.offerForward ⟨p, (s.point p).value, (s.point p).validity⟩).point p = s.point p := by
    rw [offerForward_eq]
    rfl
  unfold State.forwardReading
  dsimp only
  rw [h, Bool.not_true, if_neg (by decide)]
  cases ht : s.forwardTakes p with
  | true =>
    refine modPoint_congr ?_
    rw [same, offered_of_offers h]
    rfl
  | false =>
    refine (modPoint_of_fix (s := s.offerForward ⟨p, (s.point p).value, (s.point p).validity⟩) ?_).symm
    rw [same, offered_of_offers h]
    rfl

theorem forwardReading_points (s : State) (p : Nat) :
    (s.forwardReading p).points = (s.modPoint p (Point.offered (s.forwardTakes p))).points := by
  cases h : (s.point p).offers (s.point p).value with
  | true => rw [forwardReading_offers h, offerForward_eq]; rfl
  | false => rw [forwardReading_keeps h, modPoint_of_fix (offered_of_not_offers h _)]

theorem forwardReading_forward (s : State) (p : Nat) : (s.forwardReading p).port.forward
    = if (s.point p).offers (s.point p).value then
        offeredTo s.port.forward ⟨p, (s.point p).value, (s.point p).validity⟩
      else s.port.forward := by
  cases h : (s.point p).offers (s.point p).value with
  | true => rw [forwardReading_offers h, State.modPoint_port, offerForward_forward]; rfl
  | false => rw [forwardReading_keeps h]; rfl

theorem forwardTakes_congr (h : t.port.forward = s.port.forward) (p : Nat) : t.forwardTakes p = s.forwardTakes p := by
  unfold State.forwardTakes
  rw [h]

/-- R36: a point takes a value and its time. -/
def State.givenValue (s : State) (p v : Nat) : State :=
  s.modPoint p fun x => { x with value := v, lastTime := some s.uptime, staleDeadline := some (s.uptime + x.cfg.staleLimit) }

/-- R37: a point takes a value and judges it. -/
def State.judgedValue (s : State) (p v : Nat) : State :=
  if plausible ((s.givenValue p v).point p).cfg v then (s.givenValue p v).pointGoodNow p
  else (s.givenValue p v).pointOutOfRange p

theorem acceptValue_eq (s : State) (p v : Nat) :
    s.acceptValue p v = ((s.judgedValue p v).notifyPoint p true).forwardReading p := rfl

theorem cfg_givenValue (h : p < s.points.length) (v : Nat) : ((s.givenValue p v).point p).cfg = (s.point p).cfg := by
  unfold State.givenValue
  rw [State.point_modPoint_same h]

/-- R37: the judgement of a value changes its point alone. -/
theorem judgedValue_beyond (h : p < s.points.length) (v : Nat) :
    (s.modPoint p (Point.accepted s.uptime v)).Beyond (s.judgedValue p v) := by
  have judged (f g : Point → Point) (hfg : g (f (s.point p)) = (s.point p).accepted s.uptime v) :
      (s.modPoint p f).modPoint p g = s.modPoint p (Point.accepted s.uptime v) :=
    (State.modPoint_modPoint s p f g).trans (modPoint_congr hfg)
  unfold State.judgedValue
  rw [cfg_givenValue h]
  split <;> rename_i hv
  · have good := pointGoodNow_beyond (s.givenValue p v) p
    rwa [State.givenValue, judged _ _ (by simp [Point.accepted, hv])] at good
  · have ranged := pointOutOfRange_beyond (s.givenValue p v) p
    rwa [State.givenValue, judged _ _ (by simp [Point.accepted, hv])] at ranged

/-- R37, R41: before its offer a value accepted changes its point alone, and its consumers follow. -/
theorem accepted_beyond (h : p < s.points.length) (v : Nat) :
    (s.modPoint p (Point.accepted s.uptime v)).Beyond ((s.judgedValue p v).notifyPoint p true) :=
  (beyond_follows _).notifyPoint (judgedValue_beyond h v) p true

theorem acceptValue_points (h : p < s.points.length) (v : Nat) : (s.acceptValue p v).points
    = (s.modPoint p fun x => (x.accepted s.uptime v).offered (s.forwardTakes p)).points := by
  obtain ⟨⟨-, -, -, -, -, -, forward⟩, points⟩ := accepted_beyond h v
  rw [acceptValue_eq, forwardReading_points, State.modPoint_points, points, forwardTakes_congr (s := s) forward]
  exact List.modify_modify_eq _ _ _ _

theorem acceptValue_forward (h : p < s.points.length) (v : Nat) : (s.acceptValue p v).port.forward
    = if ((s.point p).accepted s.uptime v).offers v then
        offeredTo s.port.forward ⟨p, v, ((s.point p).accepted s.uptime v).validity⟩
      else s.port.forward := by
  have point := ((accepted_beyond h v).point_eq p).trans (State.point_modPoint_same h _)
  obtain ⟨⟨-, -, -, -, -, -, forward⟩, -⟩ := accepted_beyond h v
  rw [acceptValue_eq, forwardReading_forward, point, forward]
  rfl

theorem kindMismatch_beyond (s : State) (p : Nat) : (s.modPoint p Point.mismatched).Beyond (s.kindMismatch p) := by
  have follows := beyond_follows (s.modPoint p Point.mismatched)
  have cleared := follows.clear .pointSuspect (.point p) (follows.raise .pointKindMismatch (.point p) none (.refl _))
  have aged := ite_keeps (c := (s.point p).validity = .stale) (follows.clear .pointStale (.point p) cleared) cleared
  exact ite_keeps aged (follows.notifyPoint aged p false)

/-- R35 to R37, R42: the record of a point that a reading has been delivered to. -/
def Point.taken (now : Nat) (legacy : Bool) (r : Reading) (takes : Bool) (x : Point) : Point :=
  if wellFormedReading x.cfg legacy r then (x.accepted now (readingValue x.cfg r)).offered takes else x.mismatched

theorem takeReading_points (h : p < s.points.length) (legacy : Bool) (r : Reading) : (s.takeReading p legacy r).points
    = (s.modPoint p (Point.taken s.uptime legacy r (s.forwardTakes p))).points := by
  unfold State.takeReading
  split <;> rename_i hr
  · have cleared := (beyond_follows s).clear .pointKindMismatch (.point p) (.refl s)
    have length : p < (s.clearAlarm .pointKindMismatch (.point p)).points.length := by rw [cleared.2]; exact h
    obtain ⟨⟨uptime, -, -, -, -, -, forward⟩, points⟩ := cleared
    rw [acceptValue_points length, State.modPoint_points, points, uptime, forwardTakes_congr (s := s) forward]
    have taken : (s.modPoint p fun x => (x.accepted s.uptime (readingValue (s.point p).cfg r)).offered (s.forwardTakes p))
        = s.modPoint p (Point.taken s.uptime legacy r (s.forwardTakes p)) := modPoint_congr (if_pos hr).symm
    exact congrArg State.points taken
  · exact (kindMismatch_beyond s p).2.trans (congrArg State.points (modPoint_congr (if_neg hr).symm))

theorem takeReading_forward (h : p < s.points.length) (legacy : Bool) (r : Reading) :
    (s.takeReading p legacy r).port.forward
      = if wellFormedReading (s.point p).cfg legacy r
          && ((s.point p).accepted s.uptime (readingValue (s.point p).cfg r)).offers (readingValue (s.point p).cfg r) then
          offeredTo s.port.forward ⟨p, readingValue (s.point p).cfg r,
            ((s.point p).accepted s.uptime (readingValue (s.point p).cfg r)).validity⟩
        else s.port.forward := by
  unfold State.takeReading
  cases hr : wellFormedReading (s.point p).cfg legacy r with
  | true =>
    have cleared := (beyond_follows s).clear .pointKindMismatch (.point p) (.refl s)
    have length : p < (s.clearAlarm .pointKindMismatch (.point p)).points.length := by rw [cleared.2]; exact h
    have point := cleared.point_eq p
    obtain ⟨⟨uptime, -, -, -, -, -, forward⟩, -⟩ := cleared
    rw [if_pos rfl, acceptValue_forward length, point, uptime, forward, Bool.true_and]
  | false =>
    obtain ⟨⟨-, -, -, -, -, -, forward⟩, -⟩ := kindMismatch_beyond s p
    exact forward

/-- A reading leaves the clock, the stations, the groups, the line and the transmitter alone. -/
def State.Stays (s t : State) : Prop :=
  t.uptime = s.uptime ∧ t.stations = s.stations ∧ t.groups = s.groups ∧ t.flc.turn = s.flc.turn ∧ t.port.tx = s.port.tx

theorem stays_pointBlocks (s : State) : PointBlocks s.Stays := by
  have beyond {t u : State} (h : s.Stays t) (k : t.Beyond u) : s.Stays u := by
    obtain ⟨h1, h2, h3, h4, h5⟩ := h
    obtain ⟨⟨k1, k2, k3, k4, -, k5, -⟩, -⟩ := k
    exact ⟨k1.trans h1, k2.trans h2, k3.trans h3, k4.trans h4, k5.trans h5⟩
  exact {
    zone := fun _ _ _ h => h
    blower := fun _ _ _ h => h
    start := fun _ _ _ h => h
    pool := fun _ _ h => h
    notice := fun n h => beyond h ((beyond_follows _).notice n (.refl _))
    express := fun e h => beyond h ((beyond_follows _).express e (.refl _))
    raise := fun _ _ _ h => beyond h (raiseAlarm_only _ _ _ _).beyond
    clear := fun _ _ h => beyond h (clearAlarm_only _ _ _).beyond
    channel := fun _ _ _ h => h
    startChannel := fun c _ h => beyond h ((beyond_follows _).startChannel (.refl _) c)
    meter := fun c v h => beyond h ((beyond_follows _).meter (.refl _) c v)
    pair := fun _ _ _ h => h
    lane := fun _ _ _ h => h
    storm := fun _ _ h => h
    stepped := fun _ h => h
    passage := fun _ h => h
    point := fun _ _ _ h => h
    forward := fun e h => by rw [offerForward_eq]; exact h }

end Sys2Proof.Machine
end

section
/-! The readings of an answer, delivered in their order: what one of them makes of its point, and that the others spare it. -/

namespace Sys2Proof.Machine

open Sys2Proof

variable {s t u : State} {p q st : Nat}

/-! ### The first reading of each channel -/

theorem firstPerChannel_spec (rs : List Reading) (seen : List Nat) :
    (firstPerChannel seen rs).length ≤ rs.length
      ∧ ∀ r ∈ firstPerChannel seen rs, r ∈ rs ∧ r.channel ∉ seen := by
  induction rs generalizing seen with
  | nil => exact ⟨Nat.le_refl _, fun r h => by cases h⟩
  | cons x rs ih =>
    unfold firstPerChannel
    split <;> rename_i hx
    · obtain ⟨hlen, hmem⟩ := ih seen
      exact ⟨Nat.le_succ_of_le hlen, fun r h => ⟨List.mem_cons_of_mem _ (hmem r h).1, (hmem r h).2⟩⟩
    · obtain ⟨hlen, hmem⟩ := ih (x.channel :: seen)
      refine ⟨Nat.succ_le_succ hlen, fun r h => ?_⟩
      rcases List.mem_cons.mp h with rfl | h
      · exact ⟨List.mem_cons_self, by simpa using hx⟩
      · exact ⟨List.mem_cons_of_mem _ (hmem r h).1, fun k => (hmem r h).2 (List.mem_cons_of_mem _ k)⟩

/-- R34: the first reading of its channel is delivered, and no other of that channel. -/
theorem firstPerChannel_split {r : Reading} {after : List Reading} (before : List Reading) (seen : List Nat)
    (hb : ∀ q ∈ before, q.channel ≠ r.channel) (hs : r.channel ∉ seen) :
    ∃ b a, firstPerChannel seen (before ++ r :: after) = b ++ r :: a
      ∧ b.length + (a.length + 1) ≤ (before ++ r :: after).length
      ∧ (∀ q ∈ b, q.channel ≠ r.channel) ∧ ∀ q ∈ a, q.channel ≠ r.channel := by
  induction before generalizing seen with
  | nil =>
    obtain ⟨hlen, hmem⟩ := firstPerChannel_spec after (r.channel :: seen)
    refine ⟨[], _, ?_, by simpa using hlen, fun q h => (by cases h),
      fun q h k => (hmem q h).2 (k ▸ List.mem_cons_self)⟩
    exact if_neg (by simpa using hs)
  | cons x before ih =>
    have hx : x.channel ≠ r.channel := hb x List.mem_cons_self
    have hb' : ∀ q ∈ before, q.channel ≠ r.channel := fun q h => hb q (List.mem_cons_of_mem _ h)
    rw [List.cons_append, firstPerChannel]
    split
    · obtain ⟨b, a, heq, hlen, h⟩ := ih seen hb' hs
      exact ⟨b, a, heq, by simp only [List.length_cons]; omega, h⟩
    · obtain ⟨b, a, heq, hlen, hbs, has⟩ := ih (x.channel :: seen) hb' (by simp [hs, hx.symm])
      refine ⟨x :: b, a, by rw [heq, List.cons_append], by simp only [List.length_cons]; omega, fun q h => ?_, has⟩
      rcases List.mem_cons.mp h with rfl | h
      · exact hx
      · exact hbs q h

/-! ### The forward queue -/

theorem length_offeredTo (queue : List PendingPoint) (e : PendingPoint) : (offeredTo queue e).length ≤ queue.length + 1 := by
  unfold offeredTo
  repeat' split
  all_goals simp

theorem mem_offeredTo_self {queue : List PendingPoint} {e : PendingPoint} (h : queue.length < 16) : e ∈ offeredTo queue e := by
  unfold offeredTo
  split
  · rename_i hany
    obtain ⟨x, hx, hp⟩ := List.any_eq_true.mp hany
    exact List.mem_map.mpr ⟨x, hx, if_pos hp⟩
  · exact List.mem_append_right _ List.mem_cons_self

theorem mem_offeredTo_of_ne {queue : List PendingPoint} {e x : PendingPoint} (hx : x ∈ queue) (hp : x.point ≠ e.point) :
    x ∈ offeredTo queue e := by
  unfold offeredTo
  split
  · exact List.mem_map.mpr ⟨x, hx, if_neg (by simpa using hp)⟩
  · split
    · exact List.mem_append_left _ hx
    · exact hx

theorem forwardTakes_of_length (h : s.port.forward.length < 16) (p : Nat) : s.forwardTakes p = true := by
  simp [State.forwardTakes, h]

/-! ### The point bound to a channel -/

theorem cfg_of_map (h : t.points.map Point.cfg = s.points.map Point.cfg) (q : Nat) : (t.point q).cfg = (s.point q).cfg := by
  have hq : (t.points.map Point.cfg)[q]? = (s.points.map Point.cfg)[q]? := by rw [h]
  unfold State.point
  rw [List.getD_eq_getElem?_getD, List.getD_eq_getElem?_getD]
  rw [List.getElem?_map, List.getElem?_map] at hq
  cases hs : s.points[q]? <;> cases ht : t.points[q]? <;> simp_all

theorem pointOn_congr (h : t.points.map Point.cfg = s.points.map Point.cfg) (st ch : Nat) : t.pointOn st ch = s.pointOn st ch := by
  unfold State.pointOn
  simp only [cfg_of_map h]

/-- A point that the table does not hold is bound to nothing. -/
theorem lt_length_of_source {src : PointSource} (h : (s.point p).cfg.source = some src) : p < s.points.length := by
  refine Nat.lt_of_not_le fun hp => ?_
  unfold State.point at h
  rw [List.getD_eq_getElem?_getD, List.getElem?_eq_none hp] at h
  cases h

theorem pointOn_some {ch : Nat} (h : s.pointOn st ch = some q) : (s.point q).cfg.source = some ⟨st, ch⟩ := by
  simpa using List.find?_some h

theorem pointOn_first {ch : Nat} (hp : p < 128) (hs : (s.point p).cfg.source = some ⟨st, ch⟩)
    (hf : ∀ q < p, (s.point q).cfg.source ≠ some ⟨st, ch⟩) : s.pointOn st ch = some p := by
  unfold State.pointOn
  rw [List.find?_range_eq_some]
  exact ⟨by simpa using hs, List.mem_range.mpr hp, fun q hq => by simpa using hf q hq⟩

/-! ### One reading -/

/-- R34: one reading is delivered. -/
def State.deliver (s : State) (st : Nat) (legacy : Bool) (r : Reading) : State :=
  match s.pointOn st r.channel with
  | none => s
  | some p => s.takeReading p legacy r

theorem deliverReadings_eq (s : State) (st : Nat) (rs : List Reading) : s.deliverReadings st rs
    = (firstPerChannel [] rs).foldl (fun u r => u.deliver st (s.station st).cfg.legacy r) s := rfl

/-- Between `s` and `t` point `p` has been spared, its pending reading too, and at most `n` points have joined the queue. -/
structure State.Spares (p n : Nat) (s t : State) : Prop where
  stays : s.Stays t
  cfgs : t.points.map Point.cfg = s.points.map Point.cfg
  point : t.point p = s.point p
  kept : ∀ e ∈ s.port.forward, e.point = p → e ∈ t.port.forward
  length : t.port.forward.length ≤ s.port.forward.length + n

theorem State.Stays.refl (s : State) : s.Stays s := ⟨rfl, rfl, rfl, rfl, rfl⟩

theorem State.Stays.trans (h : s.Stays t) (k : t.Stays u) : s.Stays u := by
  obtain ⟨h1, h2, h3, h4, h5⟩ := h
  obtain ⟨k1, k2, k3, k4, k5⟩ := k
  exact ⟨k1.trans h1, k2.trans h2, k3.trans h3, k4.trans h4, k5.trans h5⟩

theorem State.Spares.refl (p : Nat) (s : State) : s.Spares p 0 s := ⟨.refl s, rfl, rfl, fun _ h _ => h, Nat.le_refl _⟩

theorem State.Spares.trans {n m : Nat} (h : s.Spares p n t) (k : t.Spares p m u) : s.Spares p (n + m) u where
  stays := h.stays.trans k.stays
  cfgs := k.cfgs.trans h.cfgs
  point := k.point.trans h.point
  kept e he hp := k.kept e (h.kept e he hp) hp
  length := by have := h.length; have := k.length; omega

theorem Point.cfg_taken (now : Nat) (legacy : Bool) (r : Reading) (takes : Bool) (x : Point) :
    (x.taken now legacy r takes).cfg = x.cfg := by
  unfold Point.taken Point.offered
  repeat' split
  all_goals rfl

theorem takeReading_cfgs (h : q < s.points.length) (legacy : Bool) (r : Reading) :
    (s.takeReading q legacy r).points.map Point.cfg = s.points.map Point.cfg := by
  rw [takeReading_points h]
  exact map_modify_of_fix _ _ (Point.cfg_taken _ _ _ _) _ _

/-- A reading of another point spares this one. -/
theorem takeReading_spares (h : q < s.points.length) (hq : p ≠ q) (legacy : Bool) (r : Reading) :
    s.Spares p 1 (s.takeReading q legacy r) where
  stays := (stays_pointBlocks s).takeReading (.refl s) q legacy r
  cfgs := takeReading_cfgs h legacy r
  point := by
    unfold State.point
    rw [takeReading_points h]
    exact State.point_modPoint_ne hq _
  kept e he hp := by
    rw [takeReading_forward h]
    split
    · exact mem_offeredTo_of_ne he (hp ▸ hq)
    · exact he
  length := by
    rw [takeReading_forward h]
    split
    · exact length_offeredTo _ _
    · exact Nat.le_succ _

/-- A reading of a channel that the point is not bound to spares it. -/
theorem deliver_spares {legacy : Bool} {r : Reading} (h : (s.point p).cfg.source ≠ some ⟨st, r.channel⟩) :
    s.Spares p 1 (s.deliver st legacy r) := by
  unfold State.deliver
  split
  · exact ⟨.refl s, rfl, rfl, fun _ h _ => h, Nat.le_succ _⟩
  · rename_i q hq
    exact takeReading_spares (lt_length_of_source (pointOn_some hq)) (fun k => h (by rw [k]; exact pointOn_some hq)) legacy r

theorem deliverAll_spares {legacy : Bool} (rs : List Reading)
    (h : ∀ r ∈ rs, (s.point p).cfg.source ≠ some ⟨st, r.channel⟩) :
    s.Spares p rs.length (rs.foldl (fun u r => u.deliver st legacy r) s) := by
  induction rs generalizing s with
  | nil => exact .refl p s
  | cons r rs ih =>
    have first : s.Spares p 1 (s.deliver st legacy r) := deliver_spares (h r List.mem_cons_self)
    have rest := ih (s := s.deliver st legacy r) fun x hx => by
      rw [first.point]
      exact h x (List.mem_cons_of_mem _ hx)
    have both := first.trans rest
    rwa [Nat.add_comm] at both

/-- R34 to R37, R42: what the readings of an answer make of the point that the first of a channel is delivered to. -/
theorem deliverReadings_takes {rs before after : List Reading} {r : Reading} (hrs : rs = before ++ r :: after)
    (hb : ∀ q ∈ before, q.channel ≠ r.channel) (hp : p < 128) (hs : (s.point p).cfg.source = some ⟨st, r.channel⟩)
    (hf : ∀ q < p, (s.point q).cfg.source ≠ some ⟨st, r.channel⟩) :
    let v := readingValue (s.point p).cfg r
    let held := (s.point p).accepted s.uptime v
    ∃ takes, (s.deliverReadings st rs).point p = (s.point p).taken s.uptime (s.station st).cfg.legacy r takes
      ∧ (s.port.forward.length + rs.length ≤ 16 → takes = true
        ∧ (wellFormedReading (s.point p).cfg (s.station st).cfg.legacy r = true → held.offers v = true →
          ∃ e ∈ (s.deliverReadings st rs).port.forward, e.point = p ∧ e.value = v ∧ e.validity = held.validity)) := by
  intro v held
  obtain ⟨b, a, split, length, others, later⟩ := firstPerChannel_split (after := after) before [] hb (by simp)
  have unbound (x : Reading) (hx : x.channel ≠ r.channel) : (s.point p).cfg.source ≠ some ⟨st, x.channel⟩ := by
    rw [hs]
    intro k
    injection k with k
    injection k with _ k
    exact hx k.symm
  have early : s.Spares p b.length (b.foldl (fun u r => u.deliver st (s.station st).cfg.legacy r) s) :=
    deliverAll_spares b fun x hx => unbound x (others x hx)
  generalize hw : b.foldl (fun u r => u.deliver st (s.station st).cfg.legacy r) s = w at early
  have delivered : s.deliverReadings st rs
      = a.foldl (fun u r => u.deliver st (s.station st).cfg.legacy r) (w.takeReading p (s.station st).cfg.legacy r) := by
    have on : w.pointOn st r.channel = some p := (pointOn_congr early.cfgs st _).trans (pointOn_first hp hs hf)
    rw [deliverReadings_eq, hrs, split, List.foldl_append, hw, List.foldl_cons, State.deliver, on]
  have hlen : p < w.points.length := lt_length_of_source (by rw [early.point]; exact hs)
  have point : (w.takeReading p (s.station st).cfg.legacy r).point p
      = (s.point p).taken s.uptime (s.station st).cfg.legacy r (w.forwardTakes p) := by
    unfold State.point
    rw [takeReading_points hlen]
    refine (State.point_modPoint_same hlen _).trans ?_
    rw [early.point, early.stays.1]
    rfl
  have late : (w.takeReading p (s.station st).cfg.legacy r).Spares p a.length (s.deliverReadings st rs) := by
    rw [delivered]
    refine deliverAll_spares a fun x hx => ?_
    rw [point, Point.cfg_taken]
    exact unbound x (later x hx)
  refine ⟨w.forwardTakes p, late.point.trans point, fun room => ?_⟩
  have space : w.port.forward.length < 16 := by
    have := early.length
    rw [← hrs] at length
    omega
  refine ⟨forwardTakes_of_length space p, fun fits offers => ⟨⟨p, v, held.validity⟩, late.kept _ ?_ rfl, rfl, rfl, rfl⟩⟩
  rw [takeReading_forward hlen, early.point, early.stays.1, fits, offers]
  exact mem_offeredTo_self space

/-- A point that no reading of the answer is for. -/
theorem deliverReadings_spares {rs : List Reading} (h : ∀ r ∈ rs, (s.point p).cfg.source ≠ some ⟨st, r.channel⟩) :
    (s.deliverReadings st rs).point p = (s.point p) := by
  rw [deliverReadings_eq]
  exact (deliverAll_spares _ fun r hr => h r ((firstPerChannel_spec rs []).2 r hr).1).point

end Sys2Proof.Machine
end

section
/-! A turn that closes GOOD: the station's record, the events of its flags, its readings, and the blowers that adopt. -/

namespace Sys2Proof.Machine

open Sys2Proof

variable {s t u : State} {p st : Nat} {a : Answer}

/-! ### What a reading does to the alarms of its point -/

theorem takeReading_of_fits {legacy : Bool} {r : Reading} (h : wellFormedReading (s.point p).cfg legacy r = true) :
    s.takeReading p legacy r
      = (s.clearAlarm .pointKindMismatch (.point p)).acceptValue p (readingValue (s.point p).cfg r) := if_pos h

theorem takeReading_of_misfits {legacy : Bool} {r : Reading} (h : wellFormedReading (s.point p).cfg legacy r = false) :
    s.takeReading p legacy r = s.kindMismatch p := if_neg (by rw [h]; decide)

theorem plausible_iff (c : PointCfg) (v : Nat) : plausible c v = true ↔ c.low ≤ v ∧ v ≤ c.high := by
  simp [plausible]

theorem plausible_false_iff (c : PointCfg) (v : Nat) : plausible c v = false ↔ v < c.low ∨ c.high < v := by
  rw [← Bool.not_eq_true, plausible_iff]
  omega

/-- R35: what a well-formed reading is. -/
theorem wellFormedReading_iff (c : PointCfg) (legacy : Bool) (r : Reading) : wellFormedReading c legacy r = true
    ↔ match r.tag with
      | some k => c.kind = .val k
      | none => legacy = true := by
  unfold wellFormedReading
  cases r.tag with
  | none => exact Iff.rfl
  | some k => exact beq_iff_eq

theorem judgedValue_of_plausible (h : p < s.points.length) {v : Nat} (hv : plausible (s.point p).cfg v = true) :
    s.judgedValue p v = (s.givenValue p v).pointGoodNow p := if_pos (by rw [cfg_givenValue h]; exact hv)

theorem judgedValue_of_implausible (h : p < s.points.length) {v : Nat} (hv : plausible (s.point p).cfg v = false) :
    s.judgedValue p v = (s.givenValue p v).pointOutOfRange p := if_neg (by rw [cfg_givenValue h, hv]; decide)

/-- R37: a value out of plausibility, as the record of its point and the alarm flag have it. -/
theorem pointOutOfRange_eq {x : Point} (h : p < s.points.length) (hx : s.point p = x) : s.pointOutOfRange p
    = let ranged := (s.modPoint p fun y =>
        { y with validity := .suspect, suspectCause := some .range, fresh := false }).clearAlarm .pointStale (.point p)
      if x.cfg.alarm then ranged.raiseAlarm .pointSuspect (.point p) (some x.value) else ranged := by
  have point : ((s.modPoint p fun y => { y with validity := .suspect, suspectCause := some .range, fresh := false }).clearAlarm
      .pointStale (.point p)).point p = { x with validity := .suspect, suspectCause := some .range, fresh := false } := by
    rw [((beyond_follows _).clear .pointStale (.point p) (.refl _)).point_eq, State.point_modPoint_same h, hx]
  unfold State.pointOutOfRange State.pointValue
  dsimp only
  rw [point]

/-- R35: a reading not well formed, taken to its alarms. -/
theorem kindMismatch_eq (s : State) (p : Nat) : s.kindMismatch p
    = let mixed := ((s.modPoint p fun y =>
        { y with validity := .suspect, suspectCause := some .kind, fresh := false }).raiseAlarm .pointKindMismatch (.point p)
          none).clearAlarm .pointSuspect (.point p)
      let aged := if (s.point p).validity = .stale then mixed.clearAlarm .pointStale (.point p) else mixed
      if (s.point p).validity = .suspect then aged else aged.notifyPoint p false := rfl

/-- R37: the two ways a well-formed reading is taken. -/
theorem takeReading_alarms (s : State) (p : Nat) (legacy : Bool) (r : Reading) (h : p < s.points.length) :
    let x := s.point p
    let v := readingValue x.cfg r
    let taken := (s.clearAlarm .pointKindMismatch (.point p)).modPoint p fun y =>
      { y with value := v, lastTime := some s.uptime, staleDeadline := some (s.uptime + x.cfg.staleLimit) }
    let good := ((taken.modPoint p fun y => { y with validity := .good, suspectCause := none, fresh := true }).clearAlarm
      .pointSuspect (.point p)).clearAlarm .pointStale (.point p)
    let ranged := (taken.modPoint p fun y =>
      { y with validity := .suspect, suspectCause := some .range, fresh := false }).clearAlarm .pointStale (.point p)
    let told := if x.cfg.alarm then ranged.raiseAlarm .pointSuspect (.point p) (some v) else ranged
    wellFormedReading x.cfg legacy r = true →
      (plausible x.cfg v = true → s.takeReading p legacy r = (good.notifyPoint p true).forwardReading p)
      ∧ (plausible x.cfg v = false → s.takeReading p legacy r = (told.notifyPoint p true).forwardReading p) := by
  intro x v taken good ranged told fits
  have cleared := (beyond_follows s).clear .pointKindMismatch (.point p) (.refl s)
  have length : p < (s.clearAlarm .pointKindMismatch (.point p)).points.length := by rw [cleared.2]; exact h
  have point := cleared.point_eq p
  have given : (s.clearAlarm .pointKindMismatch (.point p)).givenValue p v = taken := by
    refine modPoint_congr ?_
    rw [point, clearAlarm_uptime]
  refine ⟨fun hv => ?_, fun hv => ?_⟩
  · rw [takeReading_of_fits fits, acceptValue_eq, judgedValue_of_plausible length (by rw [point]; exact hv), given]
    rfl
  · have heldCfg : (taken.point p).cfg = x.cfg := by rw [← given, cfg_givenValue length, point]
    have heldValue : (taken.point p).value = v := by
      rw [State.point_modPoint_same length]
    rw [takeReading_of_fits fits, acceptValue_eq, judgedValue_of_implausible length (by rw [point]; exact hv), given,
      pointOutOfRange_eq (by simpa [taken] using length) rfl, heldCfg, heldValue]

/-! ### The station's record -/

theorem answered_flags (x : Station) (a : Answer) : (x.answered a).fault = a.fault ∧ (x.answered a).localMode = a.localMode := by
  unfold Station.answered Station.judged
  split <;> exact ⟨rfl, rfl⟩

/-! ### The close -/

/-- R19, R20, R30, R31: what an answer tells the alarms and the owners of its station before its readings are delivered. -/
def State.answerTold (s : State) (st : Nat) (a : Answer) : State :=
  (((s.modStation st (·.answered a)).clearAlarm .stationLost (.station st)).localAlarm st (s.station st).localMode
    a.localMode).stationEvents st (s.station st)

/-- R33: an answer that repeats its number, or that says it was held, delivers nothing. -/
def State.silentAnswer (s : State) (st : Nat) (a : Answer) : Prop :=
  judgeSeq (s.station st).lastSeq a.sequence = .again ∨ a.held = true

theorem turnGood_of_silent (h : s.silentAnswer st a) : s.turnGood st a = (s.answerTold st a).adoptAll st :=
  congrArg (State.adoptAll · st) (if_pos h)

theorem turnGood_of_delivered (h : ¬ s.silentAnswer st a) :
    s.turnGood st a = ((s.answerTold st a).deliverReadings st a.readings).adoptAll st :=
  congrArg (State.adoptAll · st) (if_neg h)

theorem turnGood_of_told (h : s.answerTold st a = t) : s.turnGood st a
    = (if judgeSeq (s.station st).lastSeq a.sequence = .again ∨ a.held = true then t
      else t.deliverReadings st a.readings).adoptAll st := by
  subst h
  rfl

theorem localAlarm_beyond (s : State) (st : Nat) (was is : Bool) : s.Beyond (s.localAlarm st was is) := by
  unfold State.localAlarm
  refine ite_keeps (ite_keeps ?_ (.refl s)) ?_
  · exact (raiseAlarm_only _ _ _ _).beyond
  · exact (clearAlarm_only _ _ _).beyond

theorem answerTold_beyond (s : State) (st : Nat) (a : Answer) :
    (s.modStation st (·.answered a)).Beyond (s.answerTold st a) :=
  (beyond_follows _).stationEvents ((clearAlarm_only _ _ _).beyond.trans (localAlarm_beyond _ _ _ _)) _ _

theorem State.Beyond.stays (h : s.Beyond t) : s.Stays t := by
  obtain ⟨⟨h1, h2, h3, h4, -, h5, -⟩, -⟩ := h
  exact ⟨h1, h2, h3, h4, h5⟩

theorem adoptAll_beyond (s : State) (st : Nat) : s.Beyond (s.adoptAll st) := (beyond_follows s).adoptAll (.refl s) st

theorem turnGood_stays (s : State) (st : Nat) (a : Answer) : (s.modStation st (·.answered a)).Stays (s.turnGood st a) := by
  have told := (answerTold_beyond s st a).stays
  by_cases h : s.silentAnswer st a
  · rw [turnGood_of_silent h]
    exact told.trans (adoptAll_beyond _ _).stays
  · rw [turnGood_of_delivered h]
    exact (told.trans ((stays_pointBlocks _).deliverReadings (.refl _) st _)).trans (adoptAll_beyond _ _).stays

/-! ### The events, as the flags of the answer have them -/

/-- R76: adoption is the judgement of a configured blower that waits for it. -/
theorem adopt_eq_judgeBlower {b : Nat} (hc : (s.blower b).cfg.configured = true) :
    (if s.adoptable b then s.adopt b else s)
      = if (s.blower b).state = .unknown ∨ (s.blower b).state = .tripped ∧ (s.blower b).tripCause = some .lost then
          s.judgeBlower b else s := by
  by_cases waits : (s.blower b).state = .unknown ∨ (s.blower b).state = .tripped ∧ (s.blower b).tripCause = some .lost
  · rw [if_pos waits]
    rcases waits with hs | ⟨hs, hl⟩ <;> simp [State.judgeBlower, *]
  · rw [if_neg waits, if_neg]
    intro h
    unfold State.adoptable at h
    simp_all

theorem eachBlowerOn_congr {f g : Nat → State → State} (s : State) (st : Nat)
    (h : ∀ b u, (u.blower b).cfg.configured = true → f b u = g b u) : s.eachBlowerOn st f = s.eachBlowerOn st g := by
  refine congrArg (State.each s 6) (funext fun b => funext fun u => ?_)
  split
  · rename_i hc
    exact h b u (Bool.and_eq_true_iff.mp hc).1
  · rfl

theorem adoptAll_eq (s : State) (st : Nat) : s.adoptAll st = s.eachBlowerOn st fun b v =>
    if (v.blower b).state = .unknown ∨ (v.blower b).state = .tripped ∧ (v.blower b).tripCause = some .lost then
      v.judgeBlower b else v :=
  eachBlowerOn_congr s st fun _ _ hc => adopt_eq_judgeBlower hc

/-- R31: STATION_LOCAL, as the flag before and the station's alarm flag have it. -/
theorem localAlarm_eq {x : Station} (hx : (s.station st).cfg = x.cfg) (was is : Bool) : s.localAlarm st was is
    = if is then (if !was && x.cfg.alarm then s.raiseAlarm .stationLocal (.station st) none else s)
      else s.clearAlarm .stationLocal (.station st) := by
  unfold State.localAlarm
  rw [hx]

/-- R30: the events of a station's flags, as the answer has them. -/
theorem stationEvents_eq {fault localMode : Bool} (hf : (s.station st).fault = fault) (hl : (s.station st).localMode = localMode)
    (old : Station) : s.stationEvents st old
      = (s.rejudgeZones.flagEvents st (old.fault, fault) (old.localMode, localMode)).judgeChannels := by
  subst hf hl
  rfl

/-- The events before the readings, from the station's record alone. -/
theorem answerTold_eq (hst : st < s.stations.length) : s.answerTold st a
    = let returned := (s.modStation st (·.answered a)).clearAlarm .stationLost (.station st)
      let told := if a.localMode then
          (if !(s.station st).localMode && (s.station st).cfg.alarm then
            returned.raiseAlarm .stationLocal (.station st) none else returned)
        else returned.clearAlarm .stationLocal (.station st)
      (told.rejudgeZones.flagEvents st ((s.station st).fault, a.fault) ((s.station st).localMode, a.localMode)).judgeChannels := by
  have record : (s.modStation st (·.answered a)).station st = (s.station st).answered a := by
    rw [State.station_modStation, if_pos ⟨rfl, hst⟩]
  have returned := (clearAlarm_only (s.modStation st (·.answered a)) .stationLost (.station st)).beyond
  have told := returned.trans (localAlarm_beyond _ st (s.station st).localMode a.localMode)
  have flags : ((((s.modStation st (·.answered a)).clearAlarm .stationLost (.station st)).localAlarm st
      (s.station st).localMode a.localMode).station st) = (s.station st).answered a := (told.1.station_eq st).trans record
  unfold State.answerTold
  rw [stationEvents_eq ((congrArg Station.fault flags).trans (answered_flags _ a).1)
    ((congrArg Station.localMode flags).trans (answered_flags _ a).2),
    localAlarm_eq (x := s.station st) (by rw [returned.1.station_eq, record, answered_cfg])]

/-! ### The end of the handling -/

/-- While a frame is being sent the end of a handling takes no pending point. -/
theorem finish_forward (h : s.port.tx.isSome = true) : s.finish.port.forward = s.port.forward := by
  have moves : LineMoves fun t => t.port.forward = s.port.forward ∧ t.port.tx = s.port.tx :=
    { flc := fun _ _ h => h
      clear := fun {t} h => by rw [(clearAlarm_only t _ _).2]; exact h
      turn := fun _ _ _ _ _ _ _ h => h }
  obtain ⟨forward, tx⟩ := moves.lineArbiter (s := s) ⟨rfl, rfl⟩
  have busy : s.lineArbiter.updateLines.port.tx.isSome = true := (congrArg Option.isSome tx).trans h
  exact (congrArg (fun u : State => u.port.forward) (if_pos busy)).trans forward

/-! ### The record of a point -/

/-- R42: the offers of a forward mode. -/
theorem offers_iff (x : Point) (v : Nat) : x.offers v = true ↔ x.cfg.forward = .val .every
    ∨ x.cfg.forward = .val .change ∧ ∀ last ∈ x.lastForwarded, x.cfg.band < max v last - min v last := by
  unfold Point.offers
  split <;> rename_i hm
  · simp [hm]
  · cases x.lastForwarded <;> simp [hm]
  · simp_all

/-- R35: a reading not well formed. -/
theorem taken_of_misfits {x : Point} {now : Nat} {legacy : Bool} {r : Reading} {takes : Bool}
    (h : ¬ wellFormedReading x.cfg legacy r = true) :
    x.taken now legacy r takes = { x with validity := .suspect, suspectCause := some .kind, fresh := false } := if_neg h

/-- R36, R37, R42: a well-formed reading. -/
theorem taken_of_fits {x : Point} {now : Nat} {legacy : Bool} {r : Reading} {takes : Bool}
    (h : wellFormedReading x.cfg legacy r = true) : x.taken now legacy r takes
      = { x.accepted now (readingValue x.cfg r) with
          lastForwarded := if x.offers (readingValue x.cfg r) && takes then some (readingValue x.cfg r) else x.lastForwarded } := by
  refine (if_pos h).trans ?_
  unfold Point.offered
  have same : (x.accepted now (readingValue x.cfg r)).offers (x.accepted now (readingValue x.cfg r)).value
      = x.offers (readingValue x.cfg r) := rfl
  rw [same]
  split <;> rfl

/-! ### The statement -/

theorem answered_record (x : Station) (a : Answer) : x.answered a
    = { x with
        health := .live, consec := 0, fault := a.fault, localMode := a.localMode, held := a.held,
        lastSeq := if judgeSeq x.lastSeq a.sequence = .again then x.lastSeq else some a.sequence,
        counters := { x.counters with
          turns := min 65535 (x.counters.turns + 1),
          repeats := if judgeSeq x.lastSeq a.sequence = .again then min 65535 (x.counters.repeats + 1) else x.counters.repeats,
          gaps := match judgeSeq x.lastSeq a.sequence with
            | .gap n => min 65535 (x.counters.gaps + n)
            | _ => x.counters.gaps } } := by
  unfold Station.answered Station.judged
  dsimp only
  cases judgeSeq x.lastSeq a.sequence <;> rfl

/-- The clock and the queue of the state in which the readings are delivered, and the records of its points. -/
theorem answerTold_facts (s : State) (x : Turn) (a : Answer) :
    let v := (s.closeTurn x).answerTold x.station a
    v.points = s.points ∧ v.uptime = s.uptime ∧ v.port.forward = s.port.forward
      ∧ (v.station x.station).cfg.legacy = (s.station x.station).cfg.legacy := by
  have told := answerTold_beyond (s.closeTurn x) x.station a
  have record := told.1.station_eq x.station
  obtain ⟨⟨uptime, -, -, -, -, -, forward⟩, points⟩ := told
  refine ⟨points, uptime, forward, ?_⟩
  rw [record, State.station_modStation]
  split
  · rw [answered_cfg]
    rfl
  · rfl

/-- What the handling of an answer leaves of a point and of its pending reading. -/
theorem goodClose_point (s : State) (x : Turn) (a : Answer) (p : Nat) :
    ((s.closeTurn x).turnGood x.station a).finish.point p = ((s.closeTurn x).turnGood x.station a).point p :=
  congrArg (fun l : List Point => l.getD p (Point.start .blank)) (Settled.finish _).points

/-- Settles O53: the answer, its events, its readings one by one, the blowers that adopt, then the arbiter. -/
theorem validAnswersCloseTheirTurnGood : Obligations.ValidAnswersCloseTheirTurnGood := by
  refine ⟨fun s x chars body a hx hp hc hb ha => ?_, fun s p legacy r h => ?_⟩
  · have handled : exec (.fieldFrameReceived chars) s = .next ((s.closeTurn x).turnGood x.station a).finish :=
      congrArg (fun u : State => Host.Outcome.next u.finish)
        (fieldFrame_answered hc (openWindow_of_window hx hp) (validAnswer_some hb ha))
    have config : ((s.closeTurn x).turnGood x.station a).finish.config = s.config :=
      (Settled.finish _).config.trans ((config_plant s.config).turnGood (s := s.closeTurn x) rfl x.station a)
    have settled := Settled.finish ((s.closeTurn x).turnGood x.station a)
    have stays := turnGood_stays (s.closeTurn x) x.station a
    obtain ⟨-, stations, groups, turn, tx⟩ := stays
    have written : ((s.closeTurn x).turnGood x.station a).finish.stations = s.stations.modify x.station (·.answered a) :=
      settled.stations.trans stations
    refine ⟨_, handled, config, settled.groups.trans groups, fun h => ?_,
      written.trans (congrArg (List.modify s.stations x.station) (funext fun y => answered_record y a)), ?_, ?_⟩
    · rw [finish_sends turn h] at hp
      cases hp
    · intro silent
      obtain ⟨points, uptime, forward, legacy⟩ := answerTold_facts s x a
      have read (p : Nat) : ((s.closeTurn x).answerTold x.station a).point p = s.point p :=
        congrArg (fun l : List Point => l.getD p (Point.start .blank)) points
      refine ⟨fun h => ?_, fun h p hp hlen => ?_⟩
      · rw [settled.points, turnGood_of_silent (s := s.closeTurn x) h, (adoptAll_beyond _ _).2, points]
      · have delivered : ((s.closeTurn x).turnGood x.station a).finish.point p
            = (((s.closeTurn x).answerTold x.station a).deliverReadings x.station a.readings).point p := by
          rw [goodClose_point, turnGood_of_delivered (s := s.closeTurn x) h, (adoptAll_beyond _ _).point_eq]
        refine ⟨fun unread => ?_, fun before r after hrs hb hs hf => ?_⟩
        · rw [delivered, deliverReadings_spares, read]
          intro r hr hs
          rw [read] at hs
          exact unread _ hs rfl r hr rfl
        · intro fits v offers
          obtain ⟨takes, record, room⟩ := deliverReadings_takes (s := (s.closeTurn x).answerTold x.station a) hrs hb hp
            (by rw [read]; exact hs) (fun q hq => by rw [read]; exact hf q hq)
          rw [read, uptime, legacy] at record
          rw [read, uptime, legacy, forward] at room
          have tag := wellFormedReading_iff (s.point p).cfg (s.station x.station).cfg.legacy r
          refine ⟨fun misfit => ?_, fun fit => ?_⟩
          · rw [delivered, record]
            exact taken_of_misfits fun k => misfit (tag.mp k)
          · have offered := offers_iff (s.point p) v
            rw [delivered, record, taken_of_fits (tag.mpr fit)]
            refine ⟨rfl, rfl, rfl, rfl, fun hv => ?_, fun hv => ?_, fun ho => ?_, fun ho hroom => ⟨?_, fun busy => ?_⟩⟩
            · have inside := (plausible_iff (s.point p).cfg v).mpr hv
              exact ⟨if_pos inside, if_pos inside, inside⟩
            · have outside := (plausible_false_iff (s.point p).cfg v).mpr hv
              exact ⟨if_neg (Bool.eq_false_iff.mp outside), if_neg (Bool.eq_false_iff.mp outside), outside⟩
            · exact if_neg fun k => ho (offered.mp (Bool.and_eq_true_iff.mp k).1)
            · exact if_pos (Bool.and_eq_true_iff.mpr ⟨offered.mpr ho, (room hroom).1⟩)
            · obtain ⟨e, he, point, value, validity⟩ := (room hroom).2 (tag.mpr fit) (offered.mpr ho)
              refine ⟨e, ?_, point, value, validity⟩
              rw [finish_forward ((congrArg Option.isSome tx).trans busy), turnGood_of_delivered (s := s.closeTurn x) h]
              obtain ⟨⟨-, -, -, -, -, -, queue⟩, -⟩ := adoptAll_beyond
                (((s.closeTurn x).answerTold x.station a).deliverReadings x.station a.readings) x.station
              rw [queue]
              exact he
    · intro hst st y closed returned told waits faults flags delivered
      have hclosed : closed = (s.closeTurn x).modStation x.station (·.answered a) :=
        congrArg (fun l => { s.closeTurn x with stations := l }) written
      have before : (s.closeTurn x).answerTold x.station a = flags.judgeChannels := by
        rw [answerTold_eq (s := s.closeTurn x) hst, ← hclosed]
        rfl
      have after : (s.closeTurn x).turnGood x.station a = delivered.adoptAll x.station := turnGood_of_told before
      rw [after, adoptAll_eq]
  · intro x fits v taken good ranged told mixed aged
    have tag : wellFormedReading x.cfg legacy r = true ↔ fits := wellFormedReading_iff _ _ _
    refine ⟨fun hf hl hh => ?_, fun hf hv => ?_, fun hf => ?_⟩
    · exact (takeReading_alarms s p legacy r h (tag.mpr hf)).1 ((plausible_iff _ _).mpr ⟨hl, hh⟩)
    · exact (takeReading_alarms s p legacy r h (tag.mpr hf)).2 ((plausible_false_iff _ _).mpr hv)
    · rw [takeReading_of_misfits (Bool.eq_false_iff.mpr fun k => hf (tag.mp k)), kindMismatch_eq]

end Sys2Proof.Machine
end

section
/-! A station written to the map and cleared from it (R25 to R27, R44): what each of the three ways of a write leaves, and what
a clear leaves. -/

namespace Sys2Proof.Machine

open Sys2Proof

variable {s t u : State} {P : State → Prop} {st : Nat} {cfg : StationCfg}

/-! ### The configuration -/

theorem map_modify_const {α β : Type} (g : α → β) {f : α → α} {b : β} (h : ∀ x, g (f x) = b) (l : List α) (i : Nat) :
    (l.modify i f).map g = (l.map g).modify i fun _ => b := by
  apply List.ext_getElem?
  intro j
  simp only [List.getElem?_map, List.getElem?_modify]
  cases l[j]? <;> by_cases hij : i = j <;> simp [hij, h]

theorem config_modStation {f : Station → Station} (hf : ∀ x, (f x).cfg = cfg) (s : State) (st : Nat) :
    (s.modStation st f).config = { s.config with stations := s.config.stations.modify st fun _ => cfg } :=
  congrArg (fun l => { s.config with stations := l }) (map_modify_const Station.cfg hf s.stations st)

/-! ### The three ways of a write -/

/-- R25: a station that was not configured. -/
theorem rewriteStation_new (h : (s.station st).cfg.configured = false) : s.rewriteStation st cfg
    = (s.modStation st fun _ => Station.start cfg).stationEvents st (Station.start cfg) :=
  if_pos (by rw [h]; rfl)

/-- R26: a station whose address, role or legacy flag changes. -/
theorem rewriteStation_afresh (h : (s.station st).cfg.configured = true)
    (hn : ¬ ((s.station st).cfg.addr = cfg.addr ∧ (s.station st).cfg.role = cfg.role ∧ (s.station st).cfg.legacy = cfg.legacy)) :
    s.rewriteStation st cfg = s.stationAfresh st cfg := by
  refine (if_neg (by rw [h]; decide)).trans (if_pos ?_)
  by_contra hc
  simp only [not_or, not_not] at hc
  exact hn ⟨hc.1.symm, hc.2.1.symm, hc.2.2.symm⟩

/-- R26, R44: a station of which no more than the alarm flag changes. -/
theorem rewriteStation_same (h : (s.station st).cfg.configured = true)
    (hs : (s.station st).cfg.addr = cfg.addr ∧ (s.station st).cfg.role = cfg.role ∧ (s.station st).cfg.legacy = cfg.legacy) :
    s.rewriteStation st cfg = (s.modStation st fun x => { x with cfg := cfg }).stationFlagChange st
      (s.station st).cfg.alarm cfg.alarm := by
  refine (if_neg (by rw [h]; decide)).trans (if_neg ?_)
  simp [hs]

/-- R9: the line after a turn to the station has closed VOID. -/
theorem voidTurn_eq (s : State) (st : Nat) : s.voidTurn st = s.modFlc fun f => match f.turn with
    | some t => if t.station = st then { f with turn := none, gap := t.fromRoster } else f
    | none => f := by
  unfold State.voidTurn
  split <;> rename_i h
  · exact modFlc_congr (f := id) (by rw [h]; rfl)
  · split <;> rename_i hst
    · exact modFlc_congr (by rw [h]; exact (if_pos hst).symm)
    · exact modFlc_congr (f := id) (by rw [h]; exact (if_neg hst).symm)

/-- R26: the station's entry afresh, its points at NONE, its alarms cleared, a turn to it closed. -/
def State.emptied (s : State) (st : Nat) (cfg : StationCfg) : State :=
  (((s.pointsOf st).foldl State.pointNone (s.modStation st fun _ => Station.start cfg)).clearStation st).voidTurn st

/-- R30, R41: the events that follow. -/
theorem stationAfresh_eq (s : State) (st : Nat) (cfg : StationCfg) : s.stationAfresh st cfg
    = ((s.pointsOf st).filter fun p => (s.point p).validity != .none).foldl (fun u p => u.notifyPoint p false)
        ((s.emptied st cfg).stationEvents st (s.station st)) := rfl

theorem stationAfresh_beyond (s : State) (st : Nat) (cfg : StationCfg) : (s.emptied st cfg).Beyond (s.stationAfresh st cfg) :=
  (beyond_follows _).notifyPoints _ ((beyond_follows _).stationEvents (.refl _) _ _)

theorem voidTurn_keeps (s : State) (st : Nat) : (s.voidTurn st).stations = s.stations ∧ (s.voidTurn st).groups = s.groups
    ∧ (s.voidTurn st).points = s.points := by
  rw [voidTurn_eq]
  exact ⟨rfl, rfl, rfl⟩

theorem clearStation_beyond (s : State) (st : Nat) : s.Beyond (s.clearStation st) := (beyond_follows s).clearStation (.refl s) st

theorem emptied_stations (s : State) (st : Nat) (cfg : StationCfg) :
    (s.emptied st cfg).stations = s.stations.modify st (fun _ => Station.start cfg) ∧ (s.emptied st cfg).groups = s.groups := by
  obtain ⟨-, stations, groups, -⟩ := (foldl_aside pointNone_beyond (s.pointsOf st)
    (s.modStation st fun _ => Station.start cfg)).trans (clearStation_beyond _ st).1
  obtain ⟨stations', groups', -⟩ := voidTurn_keeps
    (((s.pointsOf st).foldl State.pointNone (s.modStation st fun _ => Station.start cfg)).clearStation st) st
  exact ⟨stations'.trans stations, groups'.trans groups⟩

theorem point_congr (h : t.points = s.points) (p : Nat) : t.point p = s.point p := by
  unfold State.point
  rw [h]

theorem emptied_point (s : State) (st : Nat) (cfg : StationCfg) (p : Nat) : (s.emptied st cfg).point p
    = if p ∈ s.pointsOf st ∧ p < s.points.length then (s.point p).toNone else s.point p := by
  obtain ⟨-, -, points⟩ := voidTurn_keeps
    (((s.pointsOf st).foldl State.pointNone (s.modStation st fun _ => Station.start cfg)).clearStation st) st
  refine (point_congr (points.trans (clearStation_beyond _ st).2) p).trans ?_
  rw [foldl_point pointNone_beyond fun _ => rfl]
  rfl

theorem Plant.voidTurn (hP : Plant P) (h : P s) (st : Nat) : P (s.voidTurn st) := by
  rw [voidTurn_eq]
  refine hP.flc _ ?_ h
  repeat' split
  all_goals rfl

/-- R9: no turn to the station stands. -/
theorem voidTurn_turn {x : Turn} (hx : (s.voidTurn st).flc.turn = some x) : x.station ≠ st := by
  unfold State.voidTurn at hx
  split at hx
  · rename_i hs
    rw [hs] at hx
    cases hx
  · rename_i y hs
    split at hx
    · cases hx
    · rename_i hst
      rw [hs] at hx
      cases hx
      exact hst

theorem Plant.emptied (hP : Plant P) (h : P (s.modStation st fun _ => Station.start cfg)) : P (s.emptied st cfg) :=
  hP.voidTurn (hP.clearStation
    (foldl_keeps (P := P) (f := State.pointNone) (fun _ p h => hP.pointNone h p) (s.pointsOf st) h) st) st

/-- What a write keeps, given the station's entry. -/
theorem Plant.rewriteStation (hP : Plant P) (h : ∀ f, (∀ x, (f x).cfg = cfg) → P (s.modStation st f)) :
    P (s.rewriteStation st cfg) := by
  have fresh := h (fun _ => Station.start cfg) fun _ => rfl
  unfold State.rewriteStation
  refine ite_keeps (hP.stationEvents fresh _ _) (ite_keeps ?_ (hP.stationFlagChange (h _ fun _ => rfl) _ _ _))
  rw [stationAfresh_eq]
  refine foldl_keeps (fun _ p h => ?_) _ (hP.stationEvents (hP.emptied fresh) _ _)
  exact hP.notifyPoint h p false

theorem rewriteStation_config (s : State) (st : Nat) (cfg : StationCfg) : (s.rewriteStation st cfg).config
    = { s.config with stations := s.config.stations.modify st fun _ => cfg } :=
  (config_plant _).rewriteStation fun _ hf => config_modStation hf s st

theorem AlarmsOnly.trans (h : AlarmsOnly s t) (k : AlarmsOnly t u) : AlarmsOnly s u := by
  obtain ⟨hm, hs⟩ := h
  obtain ⟨km, ks⟩ := k
  unfold AlarmsOnly Alarms.Moved at *
  refine ⟨?_, ?_⟩
  · rw [km, hm]
  · rw [ks, hs]

/-- R44: a change of the alarm flag changes the alarm list alone. -/
theorem stationFlagChange_only (s : State) (st : Nat) (old new : Bool) : AlarmsOnly s (s.stationFlagChange st old new) := by
  have told := ite_keeps (P := AlarmsOnly s) (c := (s.station st).health = .lost)
    (raiseAlarm_only s .stationLost (.station st) (some (s.station st).consec)) (.refl s)
  exact ite_keeps (.refl s) (ite_keeps (ite_keeps (told.trans (raiseAlarm_only _ _ _ _)) told)
    ((clearAlarm_only _ _ _).trans (clearAlarm_only _ _ _)))

/-! ### The stations after a write -/

/-- R25, R26: the entry after a write. -/
theorem rewriteStation_stations (s : State) (st : Nat) (cfg : StationCfg)
    (same : Prop) [Decidable same] (hsame : same ↔ (s.station st).cfg.configured = true ∧ (s.station st).cfg.addr = cfg.addr
      ∧ (s.station st).cfg.role = cfg.role ∧ (s.station st).cfg.legacy = cfg.legacy) :
    (s.rewriteStation st cfg).stations
        = s.stations.modify st (fun x => if same then { x with cfg := cfg } else Station.start cfg)
      ∧ (s.rewriteStation st cfg).groups = s.groups := by
  by_cases hc : (s.station st).cfg.configured = true
  · by_cases hs : same
    · obtain ⟨-, kept⟩ := hsame.mp hs
      rw [rewriteStation_same hc kept]
      simp only [if_pos hs]
      rw [(stationFlagChange_only _ _ _ _).2]
      exact ⟨rfl, rfl⟩
    · obtain ⟨⟨-, stations, groups, -⟩, -⟩ := stationAfresh_beyond s st cfg
      rw [rewriteStation_afresh hc fun k => hs (hsame.mpr ⟨hc, k⟩)]
      simp only [if_neg hs]
      exact ⟨stations.trans (emptied_stations s st cfg).1, groups.trans (emptied_stations s st cfg).2⟩
  · have hs : ¬ same := fun k => hc (hsame.mp k).1
    obtain ⟨⟨-, stations, groups, -⟩, -⟩ := (beyond_follows (s.modStation st fun _ => Station.start cfg)).stationEvents
      (.refl _) st (Station.start cfg)
    rw [rewriteStation_new (Bool.eq_false_iff.mpr hc)]
    simp only [if_neg hs]
    exact ⟨stations, groups⟩

/-! ### The events after a write -/

/-- A station's entry after its start: no flag stands, in the table or outside it. -/
theorem started_flags (s : State) (st : Nat) (cfg : StationCfg) :
    ((s.modStation st fun _ => Station.start cfg).station st).fault = false
      ∧ ((s.modStation st fun _ => Station.start cfg).station st).localMode = false := by
  rw [State.station_modStation]
  by_cases h : st < s.stations.length
  · rw [if_pos ⟨rfl, h⟩]
    exact ⟨rfl, rfl⟩
  · rw [if_neg fun k => h k.2, station_of_length_le (Nat.le_of_not_lt h)]
    exact ⟨rfl, rfl⟩

/-- R30: a station that starts has no flag to tell of. -/
theorem startedEvents (s : State) (st : Nat) (cfg : StationCfg) :
    (s.modStation st fun _ => Station.start cfg).stationEvents st (Station.start cfg)
      = (s.modStation st fun _ => Station.start cfg).rejudgeZones.judgeChannels := by
  obtain ⟨fault, localMode⟩ := started_flags s st cfg
  rw [stationEvents_eq fault localMode]
  rfl

/-- R26, R30: the events of a station that starts afresh: the flags it had count as cleared. -/
theorem stationAfresh_events (s : State) (st : Nat) (cfg : StationCfg) :
    let free := s.emptied st cfg
    let faults := if (s.station st).fault then free.rejudgeZones.eachBlowerOn st State.blowerFaultEvent else free.rejudgeZones
    let flags := if (s.station st).localMode then faults.eachBlowerOn st State.blowerLocalClear else faults
    s.stationAfresh st cfg
      = ((s.pointsOf st).filter fun p => (s.point p).validity != .none).foldl (fun u p => u.notifyPoint p false)
          flags.judgeChannels := by
  have record : (s.emptied st cfg).station st = (s.modStation st fun _ => Station.start cfg).station st := by
    unfold State.station
    rw [(emptied_stations s st cfg).1]
    rfl
  obtain ⟨fault, localMode⟩ := started_flags s st cfg
  rw [stationAfresh_eq, stationEvents_eq (fault := false) (localMode := false) (by rw [record]; exact fault) (by rw [record]; exact localMode)]
  unfold State.flagEvents
  cases (s.station st).fault <;> cases (s.station st).localMode <;> rfl

/-- R44: the alarm flag is set: the present state is told. -/
theorem stationFlagChange_set {x : Station} (hx : s.station st = x) : s.stationFlagChange st false true
    = let told := if x.health = .lost then s.raiseAlarm .stationLost (.station st) (some x.consec) else s
      if x.localMode then told.raiseAlarm .stationLocal (.station st) none else told := by
  subst hx
  rfl

/-- R25: the check of an address. -/
theorem addrFree_iff (s : State) (st addr : Nat) : s.addrFree st addr = true
    ↔ ∀ j < 48, j ≠ st → (s.station j).cfg.configured = true → (s.station j).cfg.addr ≠ addr := by
  simp only [State.addrFree, List.all_eq_true, List.mem_range, Bool.or_eq_true, beq_iff_eq, Bool.not_eq_true',
    Bool.and_eq_false_iff]
  refine forall₂_congr fun j _ => ?_
  constructor
  · intro h hj hc ha
    rcases h with h | h | h
    · exact hj h
    · rw [hc] at h; cases h
    · exact absurd ha (by simpa using h)
  · intro h
    by_cases hj : j = st
    · exact .inl hj
    · cases hc : (s.station j).cfg.configured with
      | false => exact .inr (.inl rfl)
      | true => exact .inr (.inr (by simpa using h hj hc))

theorem bne_none (v : Validity) : (v != .none) = decide (v ≠ .none) := by
  cases v <;> rfl

/-- A station that the table does not hold is not configured. -/
theorem lt_length_of_configured (h : (s.station st).cfg.configured = true) : st < s.stations.length := by
  refine Nat.lt_of_not_le fun hst => ?_
  rw [station_of_length_le hst] at h
  cases h

/-- Settles O15: the check, then the three ways of a write. -/
theorem mapWriteConfiguresTheStation : Obligations.MapWriteConfiguresTheStation := by
  intro s h st addr role legacy alarm hs hst hlow hhigh hfree old cfg same
  have accepted : exec (.mapWrite h st addr (.val role) legacy alarm) s
      = .next (((s.addressed h).rewriteStation st cfg).answered h 2 .done []) := by
    refine exec_done (c := .mapWrite h st addr (.val role) legacy alarm) rfl hs ?_
    have ok : (decide (st < 48) && within 1 111 addr && (s.addressed h).addrFree st addr) = true := by
      simp only [Bool.and_eq_true, decide_eq_true_eq, within]
      exact ⟨⟨hst, hlow, hhigh⟩, (addrFree_iff s st addr).mpr hfree⟩
    simp only [handle, handleMapWrite, acceptIf_true ok]
    rfl
  have settled := Settled.answered ((s.addressed h).rewriteStation st cfg) h 2 .done []
  obtain ⟨stations, groups⟩ := rewriteStation_stations (s.addressed h) st cfg same Iff.rfl
  have replied : s.replied (((s.addressed h).rewriteStation st cfg).answered h 2 .done []) (bareReply h 2 .done) :=
    answered_replied ((ownPort_effects _).rewriteStation rfl st cfg) 2 .done []
  refine ⟨_, accepted, replied, settled.stations.trans stations, settled.config.trans (rewriteStation_config _ _ _),
    settled.groups.trans groups, fun hc hn p hp src hsrc hon => ?_, fun hsame => ?_, ?_⟩
  · refine (point_congr settled.points p).trans ?_
    rw [rewriteStation_afresh (s := s.addressed h) (cfg := cfg) hc fun k => hn ⟨hc, k⟩, (stationAfresh_beyond _ _ _).point_eq,
      emptied_point]
    exact if_pos ⟨mem_pointsOf.mpr ⟨hp, src, hsrc, hon⟩, lt_length_of_source hsrc⟩
  · rw [settled.points, settled.zones, settled.blowers, settled.channels,
      rewriteStation_same (s := s.addressed h) (cfg := cfg) hsame.1 hsame.2, (stationFlagChange_only _ _ _ _).2]
    exact ⟨rfl, rfl, rfl, rfl⟩
  · intro a x answers clears fresh written
    have record (hc : old.configured = true) : written.station st = { x with cfg := cfg } := by
      rw [State.station_modStation, if_pos ⟨rfl, lt_length_of_configured (s := a) hc⟩]
      rfl
    have flagged (hsame : same) (u : State) (hu : written.stationFlagChange st old.alarm alarm = u) : answers u := by
      rw [← hu]
      exact congrArg (fun v : State => v.answered h 2 .done [])
        (rewriteStation_same (s := a) (cfg := cfg) hsame.1 hsame.2)
    refine ⟨fun hc => ?_, fun hsame halarm => flagged hsame _ (if_pos halarm.symm), fun hsame hnow hwas => flagged hsame _ ?_,
      fun hsame hnow hwas => flagged hsame _ ?_, fun hc hn => ?_⟩
    · refine congrArg (fun v : State => v.answered h 2 .done []) ?_
      rw [rewriteStation_new (s := a) hc, startedEvents]
    · rw [hnow, hwas]
      rfl
    · rw [hnow, hwas, stationFlagChange_set (record hsame.1)]
    · refine ⟨s.pointsOf st, nodup_pointsOf st, fun p => mem_pointsOf, ?_⟩
      intro noned free waits faults flags
      have emptied : free = a.emptied st cfg := (voidTurn_eq (clears noned) st).symm
      have told : flags = if x.localMode then
            (if x.fault then (a.emptied st cfg).rejudgeZones.eachBlowerOn st State.blowerFaultEvent
              else (a.emptied st cfg).rejudgeZones).eachBlowerOn st State.blowerLocalClear
          else if x.fault then (a.emptied st cfg).rejudgeZones.eachBlowerOn st State.blowerFaultEvent
            else (a.emptied st cfg).rejudgeZones := by
        rw [← emptied]
        rfl
      refine congrArg (fun v : State => v.answered h 2 .done []) ?_
      rw [rewriteStation_afresh (s := a) (cfg := cfg) hc fun k => hn ⟨hc, k⟩, stationAfresh_events, told]
      exact congrArg (fun l : List Nat => l.foldl _ _) (List.filter_congr fun p _ => bne_none (s.point p).validity)

end Sys2Proof.Machine
end

section
/-! A station cleared from the map (R27). -/

namespace Sys2Proof.Machine

open Sys2Proof

variable {s t u : State} {st p : Nat}

/-! ### The points of the station -/

/-- R27: the record of a point that becomes unbound. -/
def Point.unbound (x : Point) : Point := { x.toNone with cfg := { x.cfg with source := none } }

/-- R27: a point becomes unbound and goes to NONE. -/
def State.unbind (s : State) (p : Nat) : State :=
  (((s.modPoint p Point.unbound).clearAlarm .pointStale (.point p)).clearAlarm .pointSuspect (.point p)).clearAlarm
    .pointKindMismatch (.point p)

theorem pointNone_unbound (s : State) (p : Nat) :
    (s.modPoint p fun x => { x with cfg := { x.cfg with source := none } }).pointNone p = s.unbind p := by
  unfold State.pointNone
  rw [State.modPoint_modPoint]
  rfl

theorem unbind_beyond (s : State) (p : Nat) : (s.modPoint p Point.unbound).Beyond (s.unbind p) := by
  have follows := beyond_follows (s.modPoint p Point.unbound)
  exact follows.clear _ _ (follows.clear _ _ (follows.clear _ _ (.refl _)))

/-! ### The station leaves -/

/-- R27, R29: the station's entry afresh, its points unbound, the station in no group. -/
def State.withoutStation (s : State) (st : Nat) : State :=
  { (s.pointsOf st).foldl State.unbind (s.modStation st fun x => Station.start { x.cfg with configured := false }) with
    groups := s.groups.map fun g => g.without st }

/-- R9, R27: its alarms cleared and a turn to it closed. -/
def State.unmapped (s : State) (st : Nat) : State := ((s.withoutStation st).clearStation st).voidTurn st

/-- R28, R39, R142: the owners take the loss up. -/
theorem clearMap_eq (s : State) (st : Nat) : s.clearMap st
    = (s.unmapped st).lossEvents st ((s.pointsOf st).filter fun p => (s.point p).validity != .none) := by
  obtain ⟨-, -, groups, -⟩ := foldl_aside unbind_beyond (s.pointsOf st)
    (s.modStation st fun x => Station.start { x.cfg with configured := false })
  unfold State.clearMap State.unmapped State.withoutStation
  simp only [pointNone_unbound, groups]
  rfl

theorem withoutStation_aside (s : State) (st : Nat) : (s.withoutStation st).stations
      = s.stations.modify st (fun x => Station.start { x.cfg with configured := false })
    ∧ (s.withoutStation st).groups = s.groups.map (fun g => g.without st)
    ∧ (s.withoutStation st).flc.turn = s.flc.turn := by
  obtain ⟨-, stations, -, turn, -⟩ := foldl_aside unbind_beyond (s.pointsOf st)
    (s.modStation st fun x => Station.start { x.cfg with configured := false })
  exact ⟨stations, rfl, turn⟩

theorem withoutStation_point (s : State) (st p : Nat) : (s.withoutStation st).point p
    = if p ∈ s.pointsOf st ∧ p < s.points.length then (s.point p).unbound else s.point p :=
  foldl_point unbind_beyond (fun _ => rfl) (s.pointsOf st) _ p

theorem unmapped_stations (s : State) (st : Nat) : (s.unmapped st).stations
      = s.stations.modify st (fun x => Station.start { x.cfg with configured := false })
    ∧ (s.unmapped st).groups = s.groups.map fun g => g.without st := by
  obtain ⟨stations, groups, -⟩ := withoutStation_aside s st
  obtain ⟨-, cleared, clearedGroups, -⟩ := (clearStation_beyond (s.withoutStation st) st).1
  obtain ⟨void, voidGroups, -⟩ := voidTurn_keeps ((s.withoutStation st).clearStation st) st
  exact ⟨void.trans (cleared.trans stations), voidGroups.trans (clearedGroups.trans groups)⟩

theorem unmapped_point (s : State) (st p : Nat) : (s.unmapped st).point p
    = if p ∈ s.pointsOf st ∧ p < s.points.length then (s.point p).unbound else s.point p := by
  obtain ⟨-, -, points⟩ := voidTurn_keeps ((s.withoutStation st).clearStation st) st
  exact (point_congr (points.trans (clearStation_beyond _ st).2) p).trans (withoutStation_point s st p)

/-- R27: the configuration of the zones, the blowers, the channels and the lanes is that of `s`. -/
def State.SameOwners (s t : State) : Prop := t.config.zones = s.config.zones ∧ t.config.blowers = s.config.blowers
  ∧ t.config.channels = s.config.channels ∧ t.config.lanes = s.config.lanes

theorem sameOwners_of_config (h : s.SameOwners t) (hc : u.config = t.config) : s.SameOwners u := by
  unfold State.SameOwners
  rw [hc]
  exact h

theorem unbind_sameOwners (h : s.SameOwners t) (p : Nat) : s.SameOwners (t.unbind p) :=
  sameOwners_of_config (t := t.modPoint p Point.unbound) h
    (((clearAlarm_only _ _ _).trans (clearAlarm_only _ _ _)).trans (clearAlarm_only _ _ _)).config

theorem clearMap_sameOwners (s : State) (st : Nat) : s.SameOwners (s.clearMap st) := by
  have without : s.SameOwners (s.withoutStation st) :=
    foldl_keeps (P := s.SameOwners) (f := State.unbind) (fun _ p h => unbind_sameOwners h p) (s.pointsOf st)
      (s := s.modStation st fun x => Station.start { x.cfg with configured := false }) ⟨rfl, rfl, rfl, rfl⟩
  have plant := config_plant (s.withoutStation st).config
  refine sameOwners_of_config without ?_
  rw [clearMap_eq]
  exact plant.lossEvents (plant.voidTurn (plant.clearStation rfl st) st) st _

theorem clearMap_beyond (s : State) (st : Nat) : (s.unmapped st).Beyond (s.clearMap st) := by
  rw [clearMap_eq]
  exact (beyond_follows _).lossEvents (.refl _) st _

/-! ### The line after the clear -/

/-- R1, R9: no turn to the station stands or begins. -/
theorem clearMap_turn {x : Turn} {h : Hdr} (hx : ((s.clearMap st).answered h 4 .done []).flc.turn = some x) : x.station ≠ st := by
  obtain ⟨⟨-, stations, -, turn, -⟩, -⟩ := clearMap_beyond s st
  rw [answered_flc] at hx
  cases ht : (s.clearMap st).flc.turn with
  | some y =>
    rw [lineArbiter_of_turn (by rw [ht]; rfl), turn] at hx
    exact voidTurn_turn hx
  | none =>
    obtain ⟨_, _, i, _, -, configured, -, rfl⟩ := lineArbiter_fits ht hx
    intro hst
    obtain rfl : i = st := hst
    have record : (s.clearMap i).station i = (s.modStation i fun x => Station.start { x.cfg with configured := false }).station i := by
      unfold State.station
      rw [stations, (unmapped_stations s i).1]
      rfl
    rw [record, State.station_modStation] at configured
    split at configured
    · cases configured
    · rename_i hlen
      exact hlen ⟨rfl, lt_length_of_configured configured⟩

theorem without_eq (g : Group) (st : Nat) :
    g.without st = ⟨g.members.filter (· ≠ st), if g.answering = some st then none else g.answering⟩ := by
  have kept (i : Nat) : (i != st) = decide (i ≠ st) := by
    by_cases hi : i = st <;> simp [hi]
  simp only [Group.without, kept]

theorem pointsOf_eq (s : State) (st : Nat) :
    s.pointsOf st = (List.range 128).filter fun p => (s.point p).cfg.source.any fun src => src.station == st := by
  unfold State.pointsOf
  refine List.filter_congr fun p _ => ?_
  cases (s.point p).cfg.source <;> rfl

/-- R9: the close of a turn, where the line's turn is known. -/
theorem voidTurn_of_turn (x : Option Turn) (st : Nat) : s.flc.turn = x → s.voidTurn st = match x with
    | none => s
    | some u => if u.station = st then s.modFlc fun f => { f with turn := none, gap := u.fromRoster } else s := by
  rintro rfl
  unfold State.voidTurn
  cases s.flc.turn <;> rfl

/-- Settles O16: the two answers, and what a clear leaves. -/
theorem mapClearRemovesTheStation : Obligations.MapClearRemovesTheStation := by
  intro s h st hs hst
  have accepted (hc : (s.station st).cfg.configured = true) :
      exec (.mapClear h st) s = .next (((s.addressed h).clearMap st).answered h 4 .done []) := by
    refine exec_done (c := .mapClear h st) rfl hs ?_
    have cleared : handleMapClear st (s.addressed h) = ((s.addressed h).clearMap st).done :=
      (if_neg (Nat.not_le.mpr hst)).trans (if_pos hc)
    simp only [handle, cleared, State.done]
  refine ⟨fun hc => ?_, fun hc => ?_, fun hc => ?_⟩
  · refine exec_bare (c := .mapClear h st) (report := []) rfl hs ?_ (by decide)
    have absent : handleMapClear st (s.addressed h) = (s.addressed h).noObject :=
      (if_neg (Nat.not_le.mpr hst)).trans (if_neg (Bool.eq_false_iff.mp hc))
    simp only [handle, absent]
    rfl
  · have settled := Settled.answered ((s.addressed h).clearMap st) h 4 .done []
    obtain ⟨⟨-, stations, groups, -⟩, points⟩ := clearMap_beyond (s.addressed h) st
    obtain ⟨zones, blowers, channels, lanes⟩ := sameOwners_of_config (clearMap_sameOwners (s.addressed h) st) settled.config
    have point (p : Nat) : (((s.addressed h).clearMap st).answered h 4 .done []).point p
        = if p ∈ s.pointsOf st ∧ p < s.points.length then (s.point p).unbound else s.point p :=
      (point_congr (settled.points.trans points) p).trans (unmapped_point (s.addressed h) st p)
    have own : ((s.addressed h).clearMap st).port.own = (s.addressed h).port.own := (ownPort_effects _).clearMap rfl st
    have replied : s.replied (((s.addressed h).clearMap st).answered h 4 .done []) (bareReply h 4 .done) :=
      answered_replied own 4 .done []
    refine ⟨_, accepted hc, replied,
      settled.stations.trans (stations.trans (unmapped_stations _ st).1),
      settled.groups.trans (groups.trans ?_), fun p hp src hsrc hon => ?_, fun p hp => ?_,
      fun u hu => clearMap_turn hu, zones, blowers, channels, lanes⟩
    · refine (unmapped_stations _ st).2.trans (List.map_congr_left fun g _ => ?_)
      exact without_eq g st
    · rw [point, if_pos ⟨mem_pointsOf.mpr ⟨hp, src, hsrc, hon⟩, lt_length_of_source hsrc⟩]
      rfl
    · rw [point, if_neg]
      rintro ⟨hm, -⟩
      obtain ⟨-, src, hsrc, hon⟩ := mem_pointsOf.mp hm
      exact hp src hsrc hon
  · intro bound held emptied unbound left cleared voided told
    have taken : bound = (s.addressed h).pointsOf st := (pointsOf_eq s st).symm
    have changed : held = ((s.addressed h).pointsOf st).filter fun p => ((s.addressed h).point p).validity != .none := by
      rw [← taken]
      exact List.filter_congr fun p _ => (bne_none (s.point p).validity).symm
    have gone : left = (s.addressed h).withoutStation st := by
      rw [State.withoutStation, ← taken]
      exact congrArg (fun l => { unbound with groups := l }) (List.map_congr_left fun g _ => (without_eq g st).symm)
    have line : cleared.flc.turn = s.flc.turn := by
      obtain ⟨⟨-, -, -, turn, -⟩, -⟩ := clearStation_beyond ((s.addressed h).withoutStation st) st
      obtain ⟨-, -, before⟩ := withoutStation_aside (s.addressed h) st
      refine Eq.trans ?_ (turn.trans before)
      rw [← gone]
      rfl
    have closed : voided = (s.addressed h).unmapped st := by
      rw [State.unmapped, ← gone]
      exact (voidTurn_of_turn _ st line).symm
    rw [accepted hc, clearMap_eq, ← changed, ← closed]
    rfl

end Sys2Proof.Machine
end

section
/-! The alarm list at a start: what a raise and a clear make of each record, and what a sequence of them, no two on one record,
makes of the list. -/

namespace Sys2Proof.Machine

open Sys2Proof

variable {s t u : State} {code code' : AlarmCode} {src src' : Source}

/-! ### One record -/

/-- R148, R149: the record of a code and source after a raise, given the one before. -/
def raisedRecord (cls : AlarmClass) (now : Nat) (code : AlarmCode) (src : Source) (value : Option Nat) :
    Option AlarmRecord → AlarmRecord
  | some r => r.raisedAgain now value
  | none =>
    { code := code, source := src, cls := cls, state := .raisedUnack, count := 1, first := now, last := now, value := value,
      unack := some now }

/-- R153: the record after a clear. -/
def clearedRecord (now : Nat) : Option AlarmRecord → Option AlarmRecord
  | none => none
  | some r =>
    match r.state with
    | .raisedUnack => some { r with state := .clearedUnack, unack := none, last := now }
    | .raisedAck => none
    | .clearedUnack => some r

/-- The record of a code and source in a list. -/
def recordIn (l : List AlarmRecord) (code : AlarmCode) (src : Source) : Option AlarmRecord := l.find? (·.is code src)

theorem is_of_recordIn {l : List AlarmRecord} {r : AlarmRecord} (h : recordIn l code src = some r) : r.code = code ∧ r.source = src :=
  (is_iff r _ _).mp (by simpa using List.find?_some h)

/-- Putting a record in its place leaves the records of the other codes and sources. -/
theorem recordIn_replace_ne {a : Alarms} {r : AlarmRecord} (h : ¬ (r.code = code ∧ r.source = src)) :
    recordIn (a.replace r).records code src = recordIn a.records code src := by
  have other (x : AlarmRecord) (hx : x.is code src = true) : x.is r.code r.source = false := by
    obtain ⟨hc, hs⟩ := (is_iff x _ _).mp hx
    exact Bool.eq_false_iff.mpr fun k => h ⟨((is_iff x _ _).mp k).1 ▸ hc, ((is_iff x _ _).mp k).2 ▸ hs⟩
  have put : ((·.is code src) ∘ fun x : AlarmRecord => if x.is r.code r.source then r else x) = (·.is code src) := by
    funext x
    by_cases hx : x.is r.code r.source = true
    · have hr : r.is code src = false := Bool.eq_false_iff.mpr fun k => h ((is_iff r _ _).mp k)
      have hxf : x.is code src = false := Bool.eq_false_iff.mpr fun k => by simp [other x k] at hx
      simp [hx, hr, hxf]
    · simp [hx]
  unfold recordIn Alarms.replace
  rw [List.find?_map, put]
  cases hf : a.records.find? (·.is code src) with
  | none => rfl
  | some x => simp [other x (by simpa using List.find?_some hf)]

theorem recordIn_replace_same {a : Alarms} {r r' : AlarmRecord} (h : recordIn a.records code src = some r)
    (hc : r'.code = code) (hs : r'.source = src) : recordIn (a.replace r').records code src = some r' :=
  find_replace h hc hs

theorem recordIn_remove_ne {a : Alarms} (h : ¬ (code' = code ∧ src' = src)) :
    recordIn (a.remove code' src').records code src = recordIn a.records code src := by
  unfold recordIn Alarms.remove
  rw [List.find?_filter]
  congr 1
  funext x
  by_cases hx : x.is code src = true
  · obtain ⟨hc, hs⟩ := (is_iff x _ _).mp hx
    have : x.is code' src' = false := Bool.eq_false_iff.mpr fun k =>
      h ⟨((is_iff x _ _).mp k).1.symm.trans hc, ((is_iff x _ _).mp k).2.symm.trans hs⟩
    simp [hx, this]
  · simp [hx]

theorem recordIn_remove_same (a : Alarms) : recordIn (a.remove code src).records code src = none := by
  simp [recordIn, Alarms.remove, List.find?_eq_none]

theorem recordIn_append_ne {l : List AlarmRecord} {r : AlarmRecord} (h : ¬ (r.code = code ∧ r.source = src)) :
    recordIn (l ++ [r]) code src = recordIn l code src := by
  have hr : r.is code src = false := Bool.eq_false_iff.mpr fun k => h ((is_iff r _ _).mp k)
  simp [recordIn, List.find?_append, hr]

theorem recordIn_append_same {l : List AlarmRecord} {r : AlarmRecord} (h : recordIn l code src = none)
    (hc : r.code = code) (hs : r.source = src) : recordIn (l ++ [r]) code src = some r := by
  unfold recordIn at h ⊢
  simp [List.find?_append, h, (is_iff r code src).mpr ⟨hc, hs⟩]

theorem hornHeard_flags (a : Alarms) (cls : AlarmClass) : (a.hornHeard cls).full = a.full
    ∧ (a.silenced = false → (a.hornHeard cls).silenced = false) := by
  unfold Alarms.hornHeard
  split
  · exact ⟨rfl, fun _ => rfl⟩
  · exact ⟨rfl, id⟩

/-! ### A raise -/

/-- R148, R149: the alarm list after a raise of a code and source that has a record. -/
theorem raiseAlarm_alarms_again {r : AlarmRecord} (h : s.record code src = some r) (v : Option Nat) :
    (s.raiseAlarm code src v).alarms = (s.alarms.replace (r.raisedAgain s.uptime v)).hornHeard r.cls := by
  unfold State.raiseAlarm
  rw [h]
  dsimp only
  unfold State.noteAlarm
  rw [offerNotice_eq]
  rfl

/-- R149: the alarm list after a raise of one that has none, with room. -/
theorem raiseAlarm_alarms_new (h : s.record code src = none) (hroom : s.alarms.records.length < 64) (v : Option Nat) :
    (s.raiseAlarm code src v).alarms = ({ s.alarms with
      records := s.alarms.records ++ [raisedRecord (s.alarms.classOf code) s.uptime code src v none] } : Alarms).hornHeard
        (s.alarms.classOf code) := by
  unfold State.raiseAlarm
  rw [h]
  dsimp only
  rw [if_pos hroom]
  unfold State.insertRecord State.noteAlarm
  rw [offerNotice_eq]
  rfl

theorem record_raiseAlarm (hroom : s.alarms.records.length < 64) (v : Option Nat) (code' : AlarmCode) (src' : Source) :
    (s.raiseAlarm code src v).record code' src'
      = if code = code' ∧ src = src' then some (raisedRecord (s.alarms.classOf code) s.uptime code src v (s.record code src))
        else s.record code' src' := by
  change recordIn (s.raiseAlarm code src v).alarms.records code' src' = _
  cases hr : s.record code src with
  | some r =>
    obtain ⟨hc, hs⟩ := is_of_recordIn hr
    rw [raiseAlarm_alarms_again hr, hornHeard_records]
    split <;> rename_i hk
    · obtain ⟨rfl, rfl⟩ := hk
      exact recordIn_replace_same hr hc hs
    · exact recordIn_replace_ne fun k => hk ⟨hc.symm.trans k.1, hs.symm.trans k.2⟩
  | none =>
    rw [raiseAlarm_alarms_new hr hroom, hornHeard_records]
    split <;> rename_i hk
    · obtain ⟨rfl, rfl⟩ := hk
      exact recordIn_append_same hr rfl rfl
    · exact recordIn_append_ne hk

theorem length_raiseAlarm (hroom : s.alarms.records.length < 64) (v : Option Nat) :
    (s.raiseAlarm code src v).alarms.records.length ≤ s.alarms.records.length + 1
      ∧ (s.raiseAlarm code src v).alarms.full = s.alarms.full
      ∧ (s.alarms.silenced = false → (s.raiseAlarm code src v).alarms.silenced = false) := by
  cases hr : s.record code src with
  | some r =>
    rw [raiseAlarm_alarms_again hr]
    obtain ⟨full, silenced⟩ := hornHeard_flags (s.alarms.replace (r.raisedAgain s.uptime v)) r.cls
    rw [hornHeard_records, full]
    exact ⟨by simp [Alarms.replace], rfl, silenced⟩
  | none =>
    rw [raiseAlarm_alarms_new hr hroom]
    obtain ⟨full, silenced⟩ := hornHeard_flags { s.alarms with
      records := s.alarms.records ++ [raisedRecord (s.alarms.classOf code) s.uptime code src v none] } (s.alarms.classOf code)
    rw [hornHeard_records, full]
    exact ⟨by simp, rfl, silenced⟩

/-! ### A clear -/

theorem cleared_of_none {a : Alarms} {now : Nat} (h : recordIn a.records code src = none) : a.cleared now code src = a := by
  unfold Alarms.cleared
  rw [show a.records.find? (·.is code src) = none from h]

theorem cleared_of_some {a : Alarms} {now : Nat} {r : AlarmRecord} (h : recordIn a.records code src = some r) :
    (r.state = .raisedUnack →
      a.cleared now code src = a.replace { r with state := .clearedUnack, unack := none, last := now })
    ∧ (r.state = .raisedAck → a.cleared now code src = a.remove code src)
    ∧ (r.state = .clearedUnack → a.cleared now code src = a) := by
  unfold Alarms.cleared
  rw [show a.records.find? (·.is code src) = some r from h]
  refine ⟨fun hst => ?_, fun hst => ?_, fun hst => ?_⟩ <;> simp only [hst]

theorem record_clearAlarm_same (s : State) (code : AlarmCode) (src : Source) :
    (s.clearAlarm code src).record code src = clearedRecord s.uptime (s.record code src) := by
  change recordIn (s.clearAlarm code src).alarms.records code src = _
  rw [clearAlarm_alarms]
  cases hr : s.record code src with
  | none =>
    rw [cleared_of_none hr]
    exact hr
  | some r =>
    obtain ⟨hc, hs⟩ := is_of_recordIn hr
    obtain ⟨unack, ack, cleared⟩ := cleared_of_some (a := s.alarms) (now := s.uptime) hr
    cases hst : r.state with
    | raisedUnack =>
      simp only [clearedRecord, hst, unack hst]
      exact recordIn_replace_same hr hc hs
    | raisedAck =>
      simp only [clearedRecord, hst, ack hst]
      exact recordIn_remove_same _
    | clearedUnack =>
      simp only [clearedRecord, hst, cleared hst]
      exact hr

theorem record_clearAlarm_ne (s : State) (h : ¬ (code = code' ∧ src = src')) :
    (s.clearAlarm code src).record code' src' = s.record code' src' := by
  change recordIn (s.clearAlarm code src).alarms.records code' src' = recordIn s.alarms.records code' src'
  rw [clearAlarm_alarms]
  cases hr : recordIn s.alarms.records code src with
  | none => rw [cleared_of_none hr]
  | some r =>
    obtain ⟨hc, hs⟩ := is_of_recordIn hr
    obtain ⟨unack, ack, cleared⟩ := cleared_of_some (a := s.alarms) (now := s.uptime) hr
    cases hst : r.state with
    | raisedUnack =>
      rw [unack hst]
      exact recordIn_replace_ne fun k => h ⟨hc.symm.trans k.1, hs.symm.trans k.2⟩
    | raisedAck =>
      rw [ack hst]
      exact recordIn_remove_ne h
    | clearedUnack => rw [cleared hst]

theorem length_clearAlarm (s : State) (code : AlarmCode) (src : Source) :
    (s.clearAlarm code src).alarms.records.length ≤ s.alarms.records.length
      ∧ ((s.clearAlarm code src).alarms.full = true → s.alarms.full = true)
      ∧ (s.clearAlarm code src).alarms.silenced = s.alarms.silenced := by
  rw [clearAlarm_alarms]
  unfold Alarms.cleared
  split
  · exact ⟨Nat.le_refl _, id, rfl⟩
  · split
    · exact ⟨by simp [Alarms.replace], id, rfl⟩
    · exact ⟨List.length_filter_le _ _, fun h => (by cases h), rfl⟩
    · exact ⟨Nat.le_refl _, id, rfl⟩

/-! ### What a start tells the list -/

/-- What a start does with the alarm of a code and source. -/
inductive AlarmAct where
  | leave | clear | raise (value : Option Nat)

/-- The state after it. -/
def State.act (s : State) (a : AlarmAct) (code : AlarmCode) (src : Source) : State :=
  match a with
  | .leave => s
  | .clear => s.clearAlarm code src
  | .raise v => s.raiseAlarm code src v

/-- The record after it. -/
def State.acted (s : State) (a : AlarmAct) (code : AlarmCode) (src : Source) : Option AlarmRecord :=
  match a with
  | .leave => s.record code src
  | .clear => clearedRecord s.uptime (s.record code src)
  | .raise v => some (raisedRecord (s.alarms.classOf code) s.uptime code src v (s.record code src))

/-- How many raises it may be. -/
def AlarmAct.raises : AlarmAct → Nat
  | .raise _ => 1
  | _ => 0

/-- The clock and the settings of the list that a raise and a clear read. -/
def State.SameBook (s t : State) : Prop :=
  t.uptime = s.uptime ∧ t.alarms.codeClasses = s.alarms.codeClasses ∧ t.alarms.lineMap = s.alarms.lineMap
    ∧ t.alarms.escalation = s.alarms.escalation

/-- Between `s` and `t` the alarms that `told` names have been acted on as `acts` says, each once, the others not at all, with
at most `n` raises. The list finds room for them where it has it at first. -/
structure Told (acts : AlarmCode → Source → AlarmAct) (told : AlarmCode → Source → Prop) (n : Nat) (s t : State) : Prop where
  book : s.SameBook t
  room : s.alarms.records.length + n ≤ 64 → t.alarms.records.length ≤ s.alarms.records.length + n
    ∧ (t.alarms.full = true → s.alarms.full = true) ∧ (s.alarms.silenced = false → t.alarms.silenced = false)
    ∧ ∀ code src, (told code src → t.record code src = s.acted (acts code src) code src)
      ∧ (¬ told code src → t.record code src = s.record code src)

theorem State.SameBook.refl (s : State) : s.SameBook s := ⟨rfl, rfl, rfl, rfl⟩

theorem State.SameBook.trans (h : s.SameBook t) (k : t.SameBook u) : s.SameBook u := by
  obtain ⟨h1, h2, h3, h4⟩ := h
  obtain ⟨k1, k2, k3, k4⟩ := k
  exact ⟨k1.trans h1, k2.trans h2, k3.trans h3, k4.trans h4⟩

theorem AlarmsOnly.sameBook (h : AlarmsOnly s t) : s.SameBook t := by
  obtain ⟨moved, only⟩ := h
  unfold Alarms.Moved at moved
  refine ⟨?_, ?_, ?_, ?_⟩
  · rw [only]
  all_goals rw [moved]

/-- What an act makes of a record is known by the clock, the class map and the record. -/
theorem acted_congr (h : s.SameBook t) (hr : t.record code src = s.record code src) (a : AlarmAct) :
    t.acted a code src = s.acted a code src := by
  obtain ⟨uptime, classes, -⟩ := h
  unfold State.acted Alarms.classOf
  rw [uptime, classes, hr]

variable {acts : AlarmCode → Source → AlarmAct} {A B : AlarmCode → Source → Prop} {n m : Nat}

/-- A change beside the alarm list. -/
theorem Told.of_alarms (hu : t.uptime = s.uptime) (ha : t.alarms = s.alarms) : Told acts (fun _ _ => False) 0 s t where
  book := ⟨hu, by rw [ha], by rw [ha], by rw [ha]⟩
  room _ := by
    unfold State.record
    rw [ha]
    exact ⟨Nat.le_refl _, id, id, fun _ _ => ⟨fun h => h.elim, fun _ => rfl⟩⟩

theorem Told.trans (h : Told acts A n s t) (k : Told acts B m t u) (hAB : ∀ code src, A code src → ¬ B code src) :
    Told acts (fun code src => A code src ∨ B code src) (n + m) s u where
  book := h.book.trans k.book
  room hroom := by
    obtain ⟨hlen, hfull, hheard, hrec⟩ := h.room (by omega)
    obtain ⟨klen, kfull, kheard, krec⟩ := k.room (by omega)
    refine ⟨by omega, fun hf => hfull (kfull hf), fun hs => kheard (hheard hs), fun code src => ⟨fun told => ?_, fun told => ?_⟩⟩
    · rcases told with ha | hb
      · exact ((krec code src).2 (hAB code src ha)).trans ((hrec code src).1 ha)
      · have first := (hrec code src).2 fun ha => hAB code src ha hb
        exact ((krec code src).1 hb).trans (acted_congr h.book first _)
    · exact ((krec code src).2 fun hb => told (.inr hb)).trans ((hrec code src).2 fun ha => told (.inl ha))

/-- More alarms may be named, where nothing is done with them. -/
theorem Told.mono (h : Told acts A n s t) (hn : n ≤ m) (hA : ∀ code src, A code src → B code src)
    (hB : ∀ code src, B code src → ¬ A code src → acts code src = .leave) : Told acts B m s t where
  book := h.book
  room hroom := by
    obtain ⟨hlen, hfull, heard, hrec⟩ := h.room (by omega)
    refine ⟨by omega, hfull, heard, fun code src => ⟨fun hb => ?_, fun hb => (hrec code src).2 fun ha => hb (hA _ _ ha)⟩⟩
    by_cases ha : A code src
    · exact (hrec code src).1 ha
    · rw [hB _ _ hb ha]
      exact (hrec code src).2 ha

theorem act_only (s : State) (a : AlarmAct) (code : AlarmCode) (src : Source) : AlarmsOnly s (s.act a code src) := by
  cases a with
  | leave => exact .refl s
  | clear => exact clearAlarm_only s code src
  | raise v => exact raiseAlarm_only s code src v

/-- One act. -/
theorem told_act (acts : AlarmCode → Source → AlarmAct) (s : State) (code : AlarmCode) (src : Source) :
    Told acts (fun c x => code = c ∧ src = x) (acts code src).raises s (s.act (acts code src) code src) := by
  refine ⟨(act_only s _ code src).sameBook, fun room => ?_⟩
  cases ha : acts code src with
  | leave =>
    refine ⟨Nat.le_refl _, id, id, fun c x => ⟨?_, fun _ => rfl⟩⟩
    rintro ⟨rfl, rfl⟩
    rw [ha]
    rfl
  | clear =>
    obtain ⟨length, full, silenced⟩ := length_clearAlarm s code src
    refine ⟨length, full, fun h => silenced.trans h, fun c x => ⟨?_, fun h => record_clearAlarm_ne s h⟩⟩
    rintro ⟨rfl, rfl⟩
    rw [ha]
    exact record_clearAlarm_same s code src
  | raise v =>
    have free : s.alarms.records.length < 64 := by
      rw [ha] at room
      exact room
    obtain ⟨length, full, silenced⟩ := length_raiseAlarm (code := code) (src := src) free v
    refine ⟨length, fun h => full ▸ h, silenced, fun c x => ⟨?_, fun h => ?_⟩⟩
    · rintro ⟨rfl, rfl⟩
      rw [ha]
      exact (record_raiseAlarm free v code src).trans (if_pos ⟨rfl, rfl⟩)
    · exact (record_raiseAlarm free v c x).trans (if_neg h)

/-- The acts on the alarms of one source, in the order of a list of codes. -/
def State.actAll (s : State) (acts : AlarmCode → Source → AlarmAct) (codes : List AlarmCode) (src : Source) : State :=
  codes.foldl (fun u code => u.act (acts code src) code src) s

theorem actAll_only (acts : AlarmCode → Source → AlarmAct) (codes : List AlarmCode) (s : State) (src : Source) :
    AlarmsOnly s (s.actAll acts codes src) :=
  foldl_keeps (P := AlarmsOnly s) (f := fun (u : State) code => u.act (acts code src) code src)
    (fun u code h => h.trans (act_only u (acts code src) code src)) codes (.refl s)

/-- The acts on the alarms of one source, no two of one code; of `raisable` codes alone may they be raises. -/
theorem told_actAll {raisable : AlarmCode → Bool} (hr : ∀ code src, raisable code = false → (acts code src).raises = 0)
    (codes : List AlarmCode) (hn : codes.Nodup) (s : State) (src : Source) :
    Told acts (fun c x => c ∈ codes ∧ x = src) (codes.countP raisable) s (s.actAll acts codes src) := by
  induction codes generalizing s with
  | nil => exact (Told.of_alarms rfl rfl).mono (Nat.le_refl _) (fun _ _ h => h.elim) fun _ _ h => absurd h.1 (by simp)
  | cons code codes ih =>
    have apart : code ∉ codes := (List.nodup_cons.mp hn).1
    have first := told_act acts s code src
    have rest := ih (List.nodup_cons.mp hn).2 (s.act (acts code src) code src)
    refine (first.trans rest fun c x h k => apart (h.1 ▸ k.1)).mono ?_ (fun c x h => ?_) fun c x h k => ?_
    · rw [List.countP_cons]
      have most : (acts code src).raises ≤ 1 := by
        cases acts code src <;> simp [AlarmAct.raises]
      by_cases hc : raisable code = true
      · simp only [hc, if_true]
        omega
      · have := hr code src (Bool.eq_false_iff.mpr hc)
        simp only [hc]
        omega
    · rcases h with ⟨rfl, rfl⟩ | ⟨hm, rfl⟩
      · exact ⟨List.mem_cons_self, rfl⟩
      · exact ⟨List.mem_cons_of_mem _ hm, rfl⟩
    · obtain ⟨hm, rfl⟩ := h
      rcases List.mem_cons.mp hm with rfl | hm
      · exact absurd (.inl ⟨rfl, rfl⟩) k
      · exact absurd (.inr ⟨hm, rfl⟩) k

/-- The sources of a bank one after another, each step a change of `AlarmsOnly` from one state given to the next. -/
theorem told_each {codes : List AlarmCode} {src : Nat → Source} (hinj : Function.Injective src) {g : Nat → State → State}
    {X : Nat → State} (n : Nat) (h : AlarmsOnly (X 0) s)
    (hstep : ∀ i < n, ∀ u, AlarmsOnly (X i) u → AlarmsOnly (X (i + 1)) (g i u)
      ∧ Told acts (fun c x => c ∈ codes ∧ x = src i) m u (g i u)) :
    AlarmsOnly (X n) (s.each n g) ∧ Told acts (fun c x => c ∈ codes ∧ ∃ i < n, x = src i) (n * m) s (s.each n g) := by
  induction n with
  | zero =>
    refine ⟨h, (Told.of_alarms rfl rfl).mono (by simp) (fun _ _ h => h.elim) fun _ _ h => ?_⟩
    obtain ⟨-, i, hi, -⟩ := h
    omega
  | succ n ih =>
    obtain ⟨only, told⟩ := ih fun i hi => hstep i (by omega)
    obtain ⟨only', told'⟩ := hstep n (by omega) _ only
    have last : s.each (n + 1) g = g n (s.each n g) := by
      unfold State.each
      rw [List.range_succ, List.foldl_append]
      rfl
    rw [last]
    refine ⟨only', (told.trans told' fun c x k k' => ?_).mono (by rw [Nat.succ_mul]) (fun c x k => ?_) fun c x k k' => ?_⟩
    · obtain ⟨-, i, hi, rfl⟩ := k
      have := hinj k'.2
      omega
    · rcases k with ⟨hc, i, hi, rfl⟩ | ⟨hc, rfl⟩
      · exact ⟨hc, i, by omega, rfl⟩
      · exact ⟨hc, n, by omega, rfl⟩
    · obtain ⟨hc, i, hi, rfl⟩ := k
      rcases Nat.lt_succ_iff_lt_or_eq.mp hi with hi | rfl
      · exact absurd (.inl ⟨hc, i, hi, rfl⟩) k'
      · exact absurd (.inr ⟨hc, rfl⟩) k'

end Sys2Proof.Machine
end

section
/-! The start of the blocks, one after another: what each does to the records it stands on and which alarms it tells of. -/

namespace Sys2Proof.Machine

open Sys2Proof

variable {s t u : State} {img : Settings} {valid : Bool}

/-! ### What a start tells of -/

/-- What a start from an image does with the alarm of a code and source. -/
def Settings.actAtStart (img : Settings) (valid : Bool) (code : AlarmCode) (src : Source) : AlarmAct :=
  match img.raisesAtStart valid code src with
  | some v => .raise v
  | none => if img.clearsAtStart code src then .clear else .leave

/-- The codes that a start may raise. -/
def raisedAtStart : List AlarmCode :=
  [.settingsInvalid, .laneAmmoniaInvalid, .stormActive, .influentInvalid, .blowerLost, .airShort]

theorem raises_actAtStart (code : AlarmCode) (src : Source) (h : decide (code ∈ raisedAtStart) = false) :
    (img.actAtStart valid code src).raises = 0 := by
  have unraised : img.raisesAtStart valid code src = none := by
    unfold Settings.raisesAtStart
    split <;> simp_all [raisedAtStart]
  unfold Settings.actAtStart
  rw [unraised]
  dsimp only
  split <;> rfl

theorem actAtStart_raises {code : AlarmCode} {src : Source} {v : Option Nat} (h : img.raisesAtStart valid code src = some v) :
    img.actAtStart valid code src = .raise v := by
  unfold Settings.actAtStart
  rw [h]

theorem actAtStart_unraised {code : AlarmCode} {src : Source} (h : img.raisesAtStart valid code src = none) :
    img.actAtStart valid code src = if img.clearsAtStart code src then .clear else .leave := by
  unfold Settings.actAtStart
  rw [h]

/-- An alarm that a condition raises, and that is cleared where it does not hold. -/
theorem setAlarm_eq_act {code : AlarmCode} {src : Source} {holds : Bool} {v : Option Nat}
    (hr : img.raisesAtStart valid code src = if holds then some v else none) (hc : img.clearsAtStart code src = true) (s : State) :
    s.setAlarm code src holds v = s.act (img.actAtStart valid code src) code src := by
  cases holds with
  | true =>
    rw [actAtStart_raises hr]
    rfl
  | false =>
    rw [actAtStart_unraised hr, hc]
    rfl

/-! ### The image as the blocks read it -/

/-- The image that a start loads. -/
def State.startImage (s : State) : Settings := if s.port.imageOk then s.port.image else .blank

theorem load_station (s : State) (kind : StartKind) (i : Nat) :
    (s.load kind).station i = Station.start (s.startImage.stations.getD i .blank) := List.getD_map _ _ _

theorem load_point (s : State) (kind : StartKind) (p : Nat) :
    (s.load kind).point p = Point.start (s.startImage.points.getD p .blank) := List.getD_map _ _ _

/-- An entry of a table mapped from the image, within its bounds. -/
theorem getD_map_of_lt {α β : Type} (f : α → β) {l : List α} {i : Nat} (h : i < l.length) (d : α) (e : β) :
    (l.map f).getD i e = f (l.getD i d) := by
  simp [List.getD_eq_getElem?_getD, h]

theorem load_lane (s : State) (kind : StartKind) (hsize : s.startImage.sized) {l : Nat} (hl : l < 6) : (s.load kind).lane l
    = Lane.start s.uptime (s.startImage.lanes.getD l (false, .blank)).1 (s.startImage.lanes.getD l (false, .blank)).2 := by
  obtain ⟨-, -, -, lanes, -⟩ := hsize
  exact getD_map_of_lt (fun p : Bool × LaneCfg => Lane.start s.uptime p.1 p.2) (lanes ▸ hl) (false, .blank) _

theorem load_blower (s : State) (kind : StartKind) (hsize : s.startImage.sized) {b : Nat} (hb : b < 6) : (s.load kind).blower b
    = Blower.start s.uptime (s.startImage.blowerIn b).1 (s.startImage.blowerIn b).2 := by
  obtain ⟨-, -, -, -, -, blowers, -⟩ := hsize
  exact getD_map_of_lt (fun p : Bool × BlowerCfg => Blower.start s.uptime p.1 p.2) (blowers ▸ hb) (false, .blank) _

theorem load_zone (s : State) (kind : StartKind) {z : Nat} (hz : z < 24) : (s.load kind).zone z
    = Zone.start s.uptime (s.startImage.lanes.getD (z / 4) (false, .blank)).1 (s.startImage.zones.getD z .blank) := by
  have length : z < (List.range 24).length := by simpa using hz
  refine (getD_map_of_lt (fun z => Zone.start s.uptime (s.startImage.lanes.getD (laneOf z) (false, .blank)).1
    (s.startImage.zones.getD z .blank)) length 0 _).trans ?_
  simp [List.getD_eq_getElem?_getD, hz, laneOf]

theorem load_channel (s : State) (kind : StartKind) {c : Nat} (hc : c < 4) : (s.load kind).channel c
    = { Channel.start (s.startImage.channels.getD c .blank) with
        autoPending := (s.startImage.channels.getD c .blank).configured
          && !(c % 2 == 1 && (s.startImage.pairs.getD (c / 2) ⟨false, .first⟩).joined)
          && (s.startImage.channels.getD c .blank).autoStart } := by
  have length : c < (List.range 4).length := by simpa using hc
  refine (getD_map_of_lt (fun c => ({ Channel.start (s.startImage.channels.getD c .blank) with
    autoPending := (s.startImage.channels.getD c .blank).configured
      && !(c % 2 == 1 && (s.startImage.pairs.getD (c / 2) ⟨false, .first⟩).joined)
      && (s.startImage.channels.getD c .blank).autoStart } : Channel)) length 0 _).trans ?_
  simp [List.getD_eq_getElem?_getD, hc]

/-! ### Frames -/

theorem AlarmsOnly.modLane (h : AlarmsOnly s t) (l : Nat) (f : Lane → Lane) : AlarmsOnly (s.modLane l f) (t.modLane l f) := by
  obtain ⟨moved, only⟩ := h
  refine ⟨moved, ?_⟩
  rw [only]
  rfl

theorem AlarmsOnly.modBlower (h : AlarmsOnly s t) (b : Nat) (f : Blower → Blower) :
    AlarmsOnly (s.modBlower b f) (t.modBlower b f) := by
  obtain ⟨moved, only⟩ := h
  refine ⟨moved, ?_⟩
  rw [only]
  rfl

/-- What the alarm list and the notices are beside. -/
theorem AlarmsOnly.banks (h : AlarmsOnly s t) : t.stations = s.stations ∧ t.points = s.points ∧ t.lanes = s.lanes
    ∧ t.zones = s.zones ∧ t.blowers = s.blowers ∧ t.storm = s.storm := by
  rw [h.2]
  exact ⟨rfl, rfl, rfl, rfl, rfl, rfl⟩

theorem each_succ (s : State) (n : Nat) (f : Nat → State → State) : s.each (n + 1) f = f n (s.each n f) := by
  unfold State.each
  rw [List.range_succ, List.foldl_append]
  rfl

/-! ### The stages -/

/-- R49: the active band of a lane after a start. -/
def Settings.bandedLane (img : Settings) (x : Lane) : Lane :=
  { x with activeBand := if x.cfg.stormFollow && img.force == .on then .storm
      else if x.cfg.ammoniaPoint.isNone then .mid else .high }

/-- R76: the record of a blower after a start. -/
def Settings.trippedBlower (img : Settings) (x : Blower) : Blower :=
  if x.cfg.configured && !(img.stations.getD x.cfg.station .blank).configured then
    { x with state := .tripped, tripCause := some .lost }
  else x

/-- The state in which the first lanes have judged their bands. -/
def State.banded (s : State) (kind : StartKind) (n : Nat) : State :=
  (s.load kind).each n fun l u => u.modLane l s.startImage.bandedLane

/-- The state in which the first blowers have been judged. -/
def State.tripped (s : State) (kind : StartKind) (n : Nat) : State :=
  (s.banded kind 6).each n fun b u => u.modBlower b s.startImage.trippedBlower

theorem banded_succ (s : State) (kind : StartKind) (n : Nat) :
    s.banded kind (n + 1) = (s.banded kind n).modLane n s.startImage.bandedLane := each_succ _ _ _

theorem tripped_succ (s : State) (kind : StartKind) (n : Nat) :
    s.tripped kind (n + 1) = (s.tripped kind n).modBlower n s.startImage.trippedBlower := each_succ _ _ _

theorem length_banded (s : State) (kind : StartKind) (n : Nat) :
    (s.banded kind n).lanes.length = (s.load kind).lanes.length := by
  induction n with
  | zero => rfl
  | succ n ih => rw [banded_succ, State.modLane_lanes, List.length_modify, ih]

/-- The judgement of the lanes' bands changes the lanes alone, each once. -/
theorem banded_lane (s : State) (kind : StartKind) (n l : Nat) : (s.banded kind n).lane l
    = if l < n ∧ l < (s.load kind).lanes.length then s.startImage.bandedLane ((s.load kind).lane l)
      else (s.load kind).lane l := by
  induction n with
  | zero => simp; rfl
  | succ n ih =>
    rw [banded_succ, State.lane_modLane, length_banded, ih]
    by_cases hl : n = l
    · subst hl
      simp
    · have : l < n + 1 ↔ l < n := by omega
      simp [hl, this]

theorem banded_eq (s : State) (kind : StartKind) (n : Nat) :
    s.banded kind n = { s.load kind with lanes := (s.banded kind n).lanes } := by
  induction n with
  | zero => rfl
  | succ n ih =>
    rw [banded_succ, ih]
    rfl

theorem tripped_blower (s : State) (kind : StartKind) (n b : Nat) : (s.tripped kind n).blower b
    = if b < n ∧ b < (s.load kind).blowers.length then s.startImage.trippedBlower ((s.load kind).blower b)
      else (s.load kind).blower b := by
  have start : (s.banded kind 6).blowers = (s.load kind).blowers := by rw [banded_eq]
  have length (n : Nat) : (s.tripped kind n).blowers.length = (s.load kind).blowers.length := by
    induction n with
    | zero => exact congrArg List.length start
    | succ n ih => rw [tripped_succ, State.modBlower_blowers, List.length_modify, ih]
  induction n with
  | zero =>
    rw [if_neg (by omega)]
    exact congrArg (fun l : List Blower => l.getD b (Blower.start 0 false .blank)) start
  | succ n ih =>
    rw [tripped_succ, State.blower_modBlower, length, ih]
    by_cases hb : n = b
    · subst hb
      simp
    · have : b < n + 1 ↔ b < n := by omega
      simp [hb, this]

theorem tripped_eq (s : State) (kind : StartKind) (n : Nat) :
    s.tripped kind n = { s.banded kind 6 with blowers := (s.tripped kind n).blowers } := by
  induction n with
  | zero => rfl
  | succ n ih =>
    rw [tripped_succ, ih]
    rfl

end Sys2Proof.Machine
end

section
/-! The start of the blocks, stage by stage: the records and the alarms after each. -/

namespace Sys2Proof.Machine

open Sys2Proof

variable {s t u : State} {img : Settings} {valid : Bool}

/-! ### A bank, and a single source -/

/-- The alarms of a bank: each entry in turn, with a change beside the alarm list first. -/
theorem told_bank {acts : AlarmCode → Source → AlarmAct} {raisable : AlarmCode → Bool}
    (hr : ∀ code src, raisable code = false → (acts code src).raises = 0) {codes : List AlarmCode} (hn : codes.Nodup)
    {src : Nat → Source} (hinj : Function.Injective src) {g : Nat → State → State} {X : Nat → State} {n : Nat}
    (hleave : ∀ code ∈ codes, ∀ x, (∀ i < n, x ≠ src i) → acts code x = .leave)
    (hstep : ∀ i < n, ∀ u, AlarmsOnly (X i) u → ∃ v, AlarmsOnly (X (i + 1)) v ∧ v.uptime = u.uptime ∧ v.alarms = u.alarms
      ∧ g i u = v.actAll acts codes (src i)) (h : AlarmsOnly (X 0) s) :
    AlarmsOnly (X n) (s.each n g) ∧ Told acts (fun c _ => c ∈ codes) (n * codes.countP raisable) s (s.each n g) := by
  obtain ⟨only, told⟩ := told_each (acts := acts) (codes := codes) (g := g) (m := codes.countP raisable) hinj n h fun i hi u hu => by
    obtain ⟨v, hv, uptime, alarms, step⟩ := hstep i hi u hu
    rw [step]
    refine ⟨hv.trans (actAll_only acts codes v (src i)), ?_⟩
    exact ((Told.of_alarms uptime alarms).trans (told_actAll hr codes hn v (src i)) fun _ _ k => k.elim).mono (by omega)
      (fun _ _ k => k.resolve_left id) fun _ _ k k' => absurd (.inr k) k'
  exact ⟨only, told.mono (Nat.le_refl _) (fun _ _ k => k.1) fun c x hc k =>
    hleave c hc x fun i hi hx => k ⟨hc, i, hi, hx⟩⟩

/-- The alarms of a single source. -/
theorem told_source {acts : AlarmCode → Source → AlarmAct} {raisable : AlarmCode → Bool}
    (hr : ∀ code src, raisable code = false → (acts code src).raises = 0) {codes : List AlarmCode} (hn : codes.Nodup)
    {src : Source} (hleave : ∀ code ∈ codes, ∀ x, x ≠ src → acts code x = .leave) (s : State) :
    Told acts (fun c _ => c ∈ codes) (codes.countP raisable) s (s.actAll acts codes src) :=
  (told_actAll hr codes hn s src).mono (Nat.le_refl _) (fun _ _ k => k.1) fun c x hc k =>
    hleave c hc x fun hx => k ⟨hc, hx⟩

/-! ### The acts of each stage -/

/-- What a start neither raises nor clears it leaves. -/
theorem actAtStart_leave {code : AlarmCode} {src : Source} (hr : img.raisesAtStart valid code src = none)
    (hc : img.clearsAtStart code src = false) : img.actAtStart valid code src = .leave := by
  rw [actAtStart_unraised hr, hc]
  rfl

theorem actAll_leave {acts : AlarmCode → Source → AlarmAct} {codes : List AlarmCode} {src : Source}
    (h : ∀ code ∈ codes, acts code src = .leave) (s : State) : s.actAll acts codes src = s := by
  induction codes with
  | nil => rfl
  | cons code codes ih =>
    have first : s.act (acts code src) code src = s := by rw [h code List.mem_cons_self]; rfl
    rw [State.actAll, List.foldl_cons, first]
    exact ih fun c hc => h c (List.mem_cons_of_mem _ hc)

theorem actAll_clear {acts : AlarmCode → Source → AlarmAct} {codes : List AlarmCode} {src : Source}
    (h : ∀ code ∈ codes, acts code src = .clear) (s : State) :
    s.actAll acts codes src = codes.foldl (fun u code => u.clearAlarm code src) s := by
  induction codes generalizing s with
  | nil => rfl
  | cons code codes ih =>
    rw [State.actAll, List.foldl_cons, List.foldl_cons, h code List.mem_cons_self]
    exact ih (fun c hc => h c (List.mem_cons_of_mem _ hc)) _

/-- R46: an unbound point. -/
theorem startPoint_acts {p : Nat} (hp : p < 128) (hs : (u.point p).cfg.source = (img.points.getD p .blank).source) :
    u.startPoint p = u.actAll (img.actAtStart valid) [.pointStale, .pointSuspect, .pointKindMismatch] (.point p) := by
  have act (code : AlarmCode) (hc : code ∈ [AlarmCode.pointStale, .pointSuspect, .pointKindMismatch]) :
      img.actAtStart valid code (.point p) = if (img.points.getD p .blank).source.isNone then .clear else .leave := by
    simp only [List.mem_cons, List.not_mem_nil, or_false] at hc
    rcases hc with rfl | rfl | rfl <;> rw [actAtStart_unraised rfl] <;> simp [Settings.clearsAtStart, hp]
  unfold State.startPoint
  rw [hs]
  cases hb : (img.points.getD p .blank).source with
  | none => exact (actAll_clear (fun c hc => (act c hc).trans (by rw [hb]; rfl)) u).symm
  | some x => exact (actAll_leave (fun c hc => (act c hc).trans (by rw [hb]; rfl)) u).symm

/-- R73: a zone that is OFF. -/
theorem startZone_acts {z : Nat} (hz : z < 24) (hm : (u.zone z).mode = if img.waitsAtStart z then .waiting else .off) :
    u.startZone z
      = u.actAll (img.actAtStart valid) [.zoneDoInvalid, .zoneValveUnavailable, .doLow, .airLimited] (.zone z) := by
  have act (code : AlarmCode) (hc : code ∈ [AlarmCode.zoneDoInvalid, .zoneValveUnavailable, .doLow, .airLimited]) :
      img.actAtStart valid code (.zone z) = if img.waitsAtStart z then .leave else .clear := by
    simp only [List.mem_cons, List.not_mem_nil, or_false] at hc
    rcases hc with rfl | rfl | rfl | rfl <;> rw [actAtStart_unraised rfl] <;> cases hw : img.waitsAtStart z <;>
      simp [Settings.clearsAtStart, hz, hw]
  unfold State.startZone
  rw [hm]
  cases hw : img.waitsAtStart z with
  | false => exact (actAll_clear (fun c hc => (act c hc).trans (by rw [hw]; rfl)) u).symm
  | true => exact (actAll_leave (fun c hc => (act c hc).trans (by rw [hw]; rfl)) u).symm

/-- R125: a channel. -/
theorem startChannelAlarms_acts {c : Nat} (hc : c < 4) :
    u.startChannelAlarms c = u.actAll (img.actAtStart valid) [.channelNoPump, .channelPausedLong] (.channel c) := by
  have act (code : AlarmCode) (h : code ∈ [AlarmCode.channelNoPump, .channelPausedLong]) :
      img.actAtStart valid code (.channel c) = .clear := by
    simp only [List.mem_cons, List.not_mem_nil, or_false] at h
    rcases h with rfl | rfl <;> rw [actAtStart_unraised rfl] <;> simp [Settings.clearsAtStart, hc]
  exact (actAll_clear act u).symm

/-- R135: the Storm Monitor. -/
theorem startStorm_acts (hs : u.stormInForce = (img.force == .on)) (hi : u.storm.cfg.influentPoint = img.storm.influentPoint) :
    u.startStorm = u.actAll (img.actAtStart valid) [.stormActive, .influentInvalid] .works := by
  have active : u.setAlarm .stormActive .works u.stormInForce
      = u.act (img.actAtStart valid .stormActive .works) .stormActive .works := by
    rw [hs]
    exact setAlarm_eq_act (v := none) rfl rfl u
  unfold State.startStorm State.actAll
  rw [active, hi]
  exact setAlarm_eq_act (v := none) rfl rfl _

theorem lane_of_getElem? {l : Nat} {x : Lane} (h : s.lanes[l]? = some x) : s.lane l = x := by
  unfold State.lane
  rw [List.getD_eq_getElem?_getD, h]
  rfl

theorem modLane_congr {l : Nat} {f g : Lane → Lane} (h : f (s.lane l) = g (s.lane l)) : s.modLane l f = s.modLane l g :=
  congrArg (fun k => { s with lanes := k }) (modify_congr fun x hx => by rwa [lane_of_getElem? hx] at h)

/-- R49, R73: a lane. -/
theorem startLane_acts {l : Nat} (hl : l < 6) {now : Nat}
    (hlane : u.lane l = Lane.start now (img.lanes.getD l (false, .blank)).1 (img.lanes.getD l (false, .blank)).2)
    (hlen : l < u.lanes.length) (hband : u.activeBandNow l = (img.bandedLane (u.lane l)).activeBand) :
    u.startLane l = (u.modLane l img.bandedLane).actAll (img.actAtStart valid) [.laneAmmoniaInvalid] (.lane l) := by
  have banded : (u.modLane l fun x => { x with activeBand := u.activeBandNow l }) = u.modLane l img.bandedLane := by
    refine modLane_congr ?_
    rw [hband]
    rfl
  have failed : ((u.modLane l img.bandedLane).lane l).ammoniaFailed
      = ((img.lanes.getD l (false, .blank)).1 && (img.lanes.getD l (false, .blank)).2.ammoniaPoint.isSome) := by
    rw [State.lane_modLane, if_pos ⟨rfl, hlen⟩, hlane]
    exact Bool.and_true _
  unfold State.startLane
  rw [banded]
  dsimp only
  rw [failed]
  refine setAlarm_eq_act (v := none) ?_ ?_ _
  · simp [Settings.raisesAtStart, hl]
  · simp [Settings.clearsAtStart, hl]

theorem blower_of_getElem? {b : Nat} {x : Blower} (h : s.blowers[b]? = some x) : s.blower b = x := by
  unfold State.blower
  rw [List.getD_eq_getElem?_getD, h]
  rfl

theorem modBlower_congr {b : Nat} {f g : Blower → Blower} (h : f (s.blower b) = g (s.blower b)) :
    s.modBlower b f = s.modBlower b g :=
  congrArg (fun k => { s with blowers := k }) (modify_congr fun x hx => by rwa [blower_of_getElem? hx] at h)

/-- R83: the alarms of a trip with cause LOST. -/
theorem tripAlarms_lost (s : State) (b : Nat) : s.tripAlarms b (some .lost)
    = ((s.clearAlarm .blowerFault (.blower b)).clearAlarm .blowerStartFail (.blower b)).raiseAlarm .blowerLost (.blower b) := rfl

/-- R76: a blower. -/
theorem startBlower_acts {b : Nat} (hb : b < 6) (hcfg : (u.blower b).cfg = (img.blowerIn b).2)
    (hstation : (u.station (img.blowerIn b).2.station).cfg = img.stations.getD (img.blowerIn b).2.station .blank) :
    u.startBlower b = (u.modBlower b img.trippedBlower).actAll (img.actAtStart valid)
      [.blowerFault, .blowerStartFail, .blowerLost] (.blower b) := by
  have lost : img.actAtStart valid .blowerLost (.blower b) = if img.tripsAtStart b then .raise none else .leave := by
    cases ht : img.tripsAtStart b with
    | true => exact actAtStart_raises (by simp [Settings.raisesAtStart, hb, ht])
    | false => exact actAtStart_leave (by simp [Settings.raisesAtStart, hb, ht]) rfl
  have others (code : AlarmCode) (h : code ∈ [AlarmCode.blowerFault, .blowerStartFail]) :
      img.actAtStart valid code (.blower b) = if img.tripsAtStart b then .clear else .leave := by
    simp only [List.mem_cons, List.not_mem_nil, or_false] at h
    rcases h with rfl | rfl <;> rw [actAtStart_unraised rfl] <;> simp [Settings.clearsAtStart, hb]
  have trips : ((u.blower b).cfg.configured && !(u.station (u.blower b).cfg.station).cfg.configured) = img.tripsAtStart b := by
    rw [hcfg, hstation]
    rfl
  have record : img.trippedBlower (u.blower b) = if img.tripsAtStart b then
      { u.blower b with state := .tripped, tripCause := some .lost } else u.blower b := by
    have same : ((u.blower b).cfg.configured && !(img.stations.getD (u.blower b).cfg.station .blank).configured)
        = img.tripsAtStart b := by
      rw [hcfg]
      rfl
    unfold Settings.trippedBlower
    rw [same]
  unfold State.startBlower
  dsimp only
  rw [trips]
  cases ht : img.tripsAtStart b with
  | true =>
    rw [if_pos rfl, tripAlarms_lost]
    have changed : (u.modBlower b fun x => { x with state := .tripped, tripCause := some .lost })
        = u.modBlower b img.trippedBlower := modBlower_congr (by rw [record, ht]; rfl)
    rw [changed]
    unfold State.actAll
    simp only [List.foldl_cons, List.foldl_nil, lost, others .blowerFault (by simp), others .blowerStartFail (by simp), ht]
    rfl
  | false =>
    have same : u.modBlower b img.trippedBlower = u := by
      refine (modBlower_congr (g := id) (by rw [record, ht]; rfl)).trans ?_
      exact congrArg (fun l => { u with blowers := l }) (List.modify_id b u.blowers)
    rw [if_neg (by decide), same]
    refine (actAll_leave (fun code hc => ?_) u).symm
    simp only [List.mem_cons, List.not_mem_nil, or_false] at hc
    rcases hc with rfl | rfl | rfl
    · exact (others _ (by simp)).trans (by rw [ht]; rfl)
    · exact (others _ (by simp)).trans (by rw [ht]; rfl)
    · exact lost.trans (by rw [ht]; rfl)

end Sys2Proof.Machine
end

section
/-! The start of the blocks as a whole, up to the Header Unit. -/

namespace Sys2Proof.Machine

open Sys2Proof

variable {s t u : State} {img : Settings} {valid : Bool}

/-- One group of codes after another. -/
theorem Told.append {acts : AlarmCode → Source → AlarmAct} {l k : List AlarmCode} {n m : Nat}
    (h : Told acts (fun c _ => c ∈ l) n s t) (h' : Told acts (fun c _ => c ∈ k) m t u) (hd : ∀ c ∈ l, c ∉ k) :
    Told acts (fun c _ => c ∈ l ++ k) (n + m) s u :=
  (h.trans h' fun c _ hc => hd c hc).mono (Nat.le_refl _) (fun _ _ hc => List.mem_append.mpr hc) fun _ _ hc hn =>
    absurd (List.mem_append.mp hc) hn

/-! ### What a bank's codes say of other sources -/

theorem leave_point {code : AlarmCode} (hc : code ∈ [AlarmCode.pointStale, .pointSuspect, .pointKindMismatch]) {x : Source}
    (hx : ∀ i < 128, x ≠ .point i) : img.actAtStart valid code x = .leave := by
  simp only [List.mem_cons, List.not_mem_nil, or_false] at hc
  cases x with
  | point p =>
    have hp : ¬ p < 128 := fun h => hx p h rfl
    rcases hc with rfl | rfl | rfl <;> exact actAtStart_leave rfl (by simp [Settings.clearsAtStart, hp])
  | _ => rcases hc with rfl | rfl | rfl <;> exact actAtStart_leave rfl rfl

theorem leave_zone {code : AlarmCode} (hc : code ∈ [AlarmCode.zoneDoInvalid, .zoneValveUnavailable, .doLow, .airLimited])
    {x : Source} (hx : ∀ i < 24, x ≠ .zone i) : img.actAtStart valid code x = .leave := by
  simp only [List.mem_cons, List.not_mem_nil, or_false] at hc
  cases x with
  | zone z =>
    have hz : ¬ z < 24 := fun h => hx z h rfl
    rcases hc with rfl | rfl | rfl | rfl <;> exact actAtStart_leave rfl (by simp [Settings.clearsAtStart, hz])
  | _ => rcases hc with rfl | rfl | rfl | rfl <;> exact actAtStart_leave rfl rfl

theorem leave_channel {code : AlarmCode} (hc : code ∈ [AlarmCode.channelNoPump, .channelPausedLong]) {x : Source}
    (hx : ∀ i < 4, x ≠ .channel i) : img.actAtStart valid code x = .leave := by
  simp only [List.mem_cons, List.not_mem_nil, or_false] at hc
  cases x with
  | channel c =>
    have hi : ¬ c < 4 := fun h => hx c h rfl
    rcases hc with rfl | rfl <;> exact actAtStart_leave rfl (by simp [Settings.clearsAtStart, hi])
  | _ => rcases hc with rfl | rfl <;> exact actAtStart_leave rfl rfl

theorem leave_lane {code : AlarmCode} (hc : code ∈ [AlarmCode.laneAmmoniaInvalid]) {x : Source}
    (hx : ∀ i < 6, x ≠ .lane i) : img.actAtStart valid code x = .leave := by
  obtain rfl := List.mem_singleton.mp hc
  cases x with
  | lane l =>
    have hl : ¬ l < 6 := fun h => hx l h rfl
    exact actAtStart_leave (by simp [Settings.raisesAtStart, hl]) (by simp [Settings.clearsAtStart, hl])
  | _ => exact actAtStart_leave rfl rfl

theorem leave_blower {code : AlarmCode} (hc : code ∈ [AlarmCode.blowerFault, .blowerStartFail, .blowerLost]) {x : Source}
    (hx : ∀ i < 6, x ≠ .blower i) : img.actAtStart valid code x = .leave := by
  simp only [List.mem_cons, List.not_mem_nil, or_false] at hc
  cases x with
  | blower b =>
    have hb : ¬ b < 6 := fun h => hx b h rfl
    rcases hc with rfl | rfl | rfl <;>
      exact actAtStart_leave (by simp [Settings.raisesAtStart, hb]) (by simp [Settings.clearsAtStart, hb])
  | _ => rcases hc with rfl | rfl | rfl <;> exact actAtStart_leave rfl rfl

theorem leave_works {code : AlarmCode} (hc : code ∈ [AlarmCode.settingsInvalid, .stormActive, .influentInvalid]) {x : Source}
    (hx : x ≠ .works) : img.actAtStart valid code x = .leave := by
  simp only [List.mem_cons, List.not_mem_nil, or_false] at hc
  cases x with
  | works => exact absurd rfl hx
  | _ => rcases hc with rfl | rfl | rfl <;> exact actAtStart_leave rfl rfl

/-! ### The stages in their order -/

/-- The acts of the start of `s`. -/
def State.startActs (s : State) : AlarmCode → Source → AlarmAct := s.startImage.actAtStart s.port.imageOk

/-- R176: the start up to the Header Unit. -/
def State.startedBlocks (s : State) (kind : StartKind) : State :=
  ((((((((s.load kind).setAlarm .settingsInvalid .works (!(s.load kind).port.imageValidAtStart)).each 128 State.startPoint).each
    6 State.startLane).each 24 State.startZone).startStorm).each 4 State.startChannelAlarms).each 6 State.startBlower)

theorem startUp_eq (s : State) (kind : StartKind) : s.startUp kind = (s.startedBlocks kind).header.finish := rfl

theorem raises_startActs (s : State) (code : AlarmCode) (src : Source) (h : decide (code ∈ raisedAtStart) = false) :
    (s.startActs code src).raises = 0 := raises_actAtStart code src h

/-- R176: SETTINGS_INVALID. -/
theorem startSettings_told (s : State) (kind : StartKind) :
    let t := (s.load kind).setAlarm .settingsInvalid .works (!(s.load kind).port.imageValidAtStart)
    AlarmsOnly (s.load kind) t ∧ Told s.startActs (fun c _ => c ∈ [AlarmCode.settingsInvalid]) 1 (s.load kind) t := by
  have acts : (s.load kind).setAlarm .settingsInvalid .works (!(s.load kind).port.imageValidAtStart)
      = (s.load kind).actAll s.startActs [.settingsInvalid] .works := setAlarm_eq_act (v := none) rfl rfl _
  rw [acts]
  exact ⟨actAll_only _ _ _ _, told_source (raises_startActs s) (by simp)
    (fun c hc x hx => leave_works (by simp_all) hx) _⟩

/-- R46. -/
theorem startPoints_told (kind : StartKind) (h : AlarmsOnly (s.load kind) t) :
    AlarmsOnly (s.load kind) (t.each 128 State.startPoint)
      ∧ Told s.startActs (fun c _ => c ∈ [AlarmCode.pointStale, .pointSuspect, .pointKindMismatch]) 0 t
        (t.each 128 State.startPoint) := by
  refine told_bank (X := fun _ => s.load kind) (raises_startActs s) (by simp) (fun _ _ h => Source.point.inj h)
    (fun c hc x hx => leave_point hc hx) (fun p hp u hu => ⟨u, hu, rfl, rfl, ?_⟩) h
  refine startPoint_acts hp ?_
  obtain ⟨-, points, -⟩ := hu.banks
  rw [point_congr points, load_point]
  rfl

/-- R73. -/
theorem startZones_told (kind : StartKind) (h : AlarmsOnly (s.banded kind 6) t) :
    AlarmsOnly (s.banded kind 6) (t.each 24 State.startZone)
      ∧ Told s.startActs (fun c _ => c ∈ [AlarmCode.zoneDoInvalid, .zoneValveUnavailable, .doLow, .airLimited]) 0 t
        (t.each 24 State.startZone) := by
  refine told_bank (X := fun _ => s.banded kind 6) (raises_startActs s) (by simp) (fun _ _ h => Source.zone.inj h)
    (fun c hc x hx => leave_zone hc hx) (fun z hz u hu => ⟨u, hu, rfl, rfl, ?_⟩) h
  refine startZone_acts hz ?_
  obtain ⟨-, -, -, zones, -⟩ := hu.banks
  have zone : u.zone z = (s.load kind).zone z := by
    unfold State.zone
    rw [zones, banded_eq]
  rw [zone, load_zone s kind hz]
  rfl

/-- R125. -/
theorem startChannels_told (kind : StartKind) (h : AlarmsOnly (s.banded kind 6) t) :
    AlarmsOnly (s.banded kind 6) (t.each 4 State.startChannelAlarms)
      ∧ Told s.startActs (fun c _ => c ∈ [AlarmCode.channelNoPump, .channelPausedLong]) 0 t
        (t.each 4 State.startChannelAlarms) :=
  told_bank (X := fun _ => s.banded kind 6) (raises_startActs s) (by simp) (fun _ _ h => Source.channel.inj h)
    (fun c hc x hx => leave_channel hc hx) (fun c hc u hu => ⟨u, hu, rfl, rfl, startChannelAlarms_acts hc⟩) h

/-- R135: a storm is in force after a start where the image forces one. -/
theorem started_stormInForce (kind : StartKind) (h : t.storm = (s.load kind).storm) :
    t.stormInForce = (s.startImage.force == .on) := by
  have start : t.storm = Storm.start s.uptime s.startImage.storm s.startImage.force := h
  unfold State.stormInForce
  rw [start]
  cases s.startImage.force <;> rfl

/-- Table 20: no point has a value after a start. -/
theorem started_validity (kind : StartKind) (h : t.points = (s.load kind).points) (p : Nat) :
    (t.point p).validity = .none := by
  rw [point_congr h, load_point]
  rfl

theorem pointGood_of_none {p : Nat} (h : (t.point p).validity = .none) (k : Kind) : t.pointGood p k = false := by
  unfold State.pointGood
  dsimp only
  rw [h]
  rfl

theorem started_optPointGood (kind : StartKind) (h : t.points = (s.load kind).points) (p : Option Nat) (k : Kind) :
    t.optPointGood p k = false := by
  cases p with
  | none => rfl
  | some p => exact pointGood_of_none (started_validity kind h p) k

/-- R135. -/
theorem startStorm_told (kind : StartKind) (h : AlarmsOnly (s.banded kind 6) t) :
    AlarmsOnly (s.banded kind 6) t.startStorm
      ∧ Told s.startActs (fun c _ => c ∈ [AlarmCode.stormActive, .influentInvalid]) 2 t t.startStorm := by
  obtain ⟨-, -, -, -, -, storm⟩ := h.banks
  rw [banded_eq] at storm
  have acts : t.startStorm = t.actAll s.startActs [.stormActive, .influentInvalid] .works :=
    startStorm_acts (started_stormInForce kind storm) (by rw [storm]; rfl)
  rw [acts]
  exact ⟨h.trans (actAll_only _ _ _ _), told_source (raises_startActs s) (by simp)
    (fun c hc x hx => leave_works (List.mem_cons_of_mem _ hc) hx) _⟩

/-- R49, R73. -/
theorem startLanes_told (kind : StartKind) (hsize : s.startImage.sized) (h : AlarmsOnly (s.load kind) t) :
    AlarmsOnly (s.banded kind 6) (t.each 6 State.startLane)
      ∧ Told s.startActs (fun c _ => c ∈ [AlarmCode.laneAmmoniaInvalid]) 6 t (t.each 6 State.startLane) := by
  refine told_bank (X := fun n => s.banded kind n) (raises_startActs s) (by simp) (fun _ _ h => Source.lane.inj h)
    (fun c hc x hx => leave_lane hc hx) (fun l hl u hu => ⟨u.modLane l s.startImage.bandedLane, ?_, rfl, rfl, ?_⟩) h
  · rw [banded_succ]
    exact hu.modLane l _
  · obtain ⟨-, points, lanes, -, -, storm⟩ := hu.banks
    rw [banded_eq] at points storm
    have lane : u.lane l = (s.load kind).lane l := by
      have same : u.lane l = (s.banded kind l).lane l := congrArg (fun k : List Lane => k.getD l (Lane.start 0 false .blank)) lanes
      rw [same, banded_lane, if_neg fun k => Nat.lt_irrefl l k.1]
    have length : l < u.lanes.length := by
      obtain ⟨-, -, -, six, -⟩ := hsize
      rw [lanes, length_banded]
      exact (List.length_map _).trans six ▸ hl
    refine startLane_acts hl (lane.trans (load_lane s kind hsize hl)) length ?_
    unfold State.activeBandNow Settings.bandedLane
    rw [started_stormInForce kind storm]
    dsimp only
    rw [started_optPointGood kind points]
    rfl

/-- R76. -/
theorem startBlowers_told (kind : StartKind) (hsize : s.startImage.sized) (h : AlarmsOnly (s.banded kind 6) t) :
    AlarmsOnly (s.tripped kind 6) (t.each 6 State.startBlower)
      ∧ Told s.startActs (fun c _ => c ∈ [AlarmCode.blowerFault, .blowerStartFail, .blowerLost]) 6 t
        (t.each 6 State.startBlower) := by
  refine told_bank (X := fun n => s.tripped kind n) (raises_startActs s) (by simp) (fun _ _ h => Source.blower.inj h)
    (fun c hc x hx => leave_blower hc hx) (fun b hb u hu => ⟨u.modBlower b s.startImage.trippedBlower, ?_, rfl, rfl, ?_⟩) h
  · rw [tripped_succ]
    exact hu.modBlower b _
  · obtain ⟨stations, -, -, -, blowers, -⟩ := hu.banks
    have blower : u.blower b = (s.load kind).blower b := by
      have same : u.blower b = (s.tripped kind b).blower b :=
        congrArg (fun k : List Blower => k.getD b (Blower.start 0 false .blank)) blowers
      rw [same, tripped_blower, if_neg fun k => Nat.lt_irrefl b k.1]
    have station (i : Nat) : u.station i = (s.load kind).station i := by
      unfold State.station
      rw [stations, tripped_eq, banded_eq]
    refine startBlower_acts hb ?_ ?_
    · rw [blower, load_blower s kind hsize hb]
      rfl
    · rw [station, load_station]
      rfl

/-- The codes told of before the Header Unit. -/
def blockCodes : List AlarmCode :=
  [.settingsInvalid] ++ [.pointStale, .pointSuspect, .pointKindMismatch] ++ [.laneAmmoniaInvalid]
    ++ [.zoneDoInvalid, .zoneValveUnavailable, .doLow, .airLimited] ++ [.stormActive, .influentInvalid]
    ++ [.channelNoPump, .channelPausedLong] ++ [.blowerFault, .blowerStartFail, .blowerLost]

/-- R164, R176: the start up to the Header Unit, its records and its alarms. -/
theorem startedBlocks_told (s : State) (kind : StartKind) (hsize : s.startImage.sized) :
    AlarmsOnly (s.tripped kind 6) (s.startedBlocks kind)
      ∧ Told s.startActs (fun c _ => c ∈ blockCodes) 15 (s.load kind) (s.startedBlocks kind) := by
  obtain ⟨only, settings⟩ := startSettings_told s kind
  obtain ⟨only, points⟩ := startPoints_told kind only
  obtain ⟨only, lanes⟩ := startLanes_told kind hsize only
  obtain ⟨only, zones⟩ := startZones_told kind only
  obtain ⟨only, storm⟩ := startStorm_told kind only
  obtain ⟨only, channels⟩ := startChannels_told kind only
  obtain ⟨only, blowers⟩ := startBlowers_told kind hsize only
  refine ⟨only, ?_⟩
  exact (((((settings.append points (by decide)).append lanes (by decide)).append zones (by decide)).append storm
    (by decide)).append channels (by decide)).append blowers (by decide)

end Sys2Proof.Machine
end

section
/-! The Header Unit at a start: no blower runs, no point has a value, every zone rests. A pool that settles then makes its first
pass, and it grants nothing. -/

namespace Sys2Proof.Machine

open Sys2Proof

variable {s t u : State}

/-! ### The plant at rest -/

/-- No blower runs or starts, no zone drives or is granted air, no point has a value, and the pool asks for nothing. -/
structure State.Resting (s : State) : Prop where
  blowers : ∀ b, (s.blower b).state = .unknown ∨ (s.blower b).state = .tripped
  zones : ∀ z, ((s.zone z).mode = .off ∨ (s.zone z).mode = .waiting) ∧ (s.zone z).grant = 0 ∧ (s.zone z).cap = 0
  points : ∀ p, (s.point p).validity = .none
  pool : s.pool.supply = 0 ∧ s.pool.runList = [] ∧ s.pool.stageUpSince = none ∧ s.pool.stageDownSince = none

/-- What rest is read from. -/
theorem State.Resting.congr (h : s.Resting) (hb : t.blowers = s.blowers) (hz : t.zones = s.zones) (hp : t.points = s.points)
    (hpool : t.pool.supply = 0 ∧ t.pool.runList = [] ∧ t.pool.stageUpSince = none ∧ t.pool.stageDownSince = none) :
    t.Resting where
  blowers b := by unfold State.blower; rw [hb]; exact h.blowers b
  zones z := by unfold State.zone; rw [hz]; exact h.zones z
  points p := by rw [point_congr hp]; exact h.points p
  pool := hpool

/-- A change of the pool that leaves its supply, its run list and its stage timers. -/
theorem State.Resting.modPool (h : s.Resting) {f : Pool → Pool} (hf : ∀ p, (f p).supply = p.supply
    ∧ (f p).runList = p.runList ∧ (f p).stageUpSince = p.stageUpSince ∧ (f p).stageDownSince = p.stageDownSince) :
    (s.modPool f).Resting := by
  obtain ⟨supply, list, up, down⟩ := hf s.pool
  obtain ⟨hsupply, hlist, hup, hdown⟩ := h.pool
  exact h.congr rfl rfl rfl ⟨supply.trans hsupply, list.trans hlist, up.trans hup, down.trans hdown⟩

theorem AlarmsOnly.resting (h : AlarmsOnly s t) (hs : s.Resting) : t.Resting := by
  rw [h.2]
  exact hs.congr rfl rfl rfl hs.pool

theorem State.Resting.counted (h : s.Resting) (b : Nat) : s.counted b = false := by
  unfold State.counted
  rcases h.blowers b with hb | hb <;> simp [hb]

theorem State.Resting.supplyNow (h : s.Resting) : s.supplyNow = 0 := by
  unfold State.supplyNow
  simp [h.counted]

theorem State.Resting.startable (h : s.Resting) (b : Nat) : s.startable b = false := by
  unfold State.startable
  rcases h.blowers b with hb | hb <;> simp [hb]

theorem State.Resting.askStart (h : s.Resting) : s.askStart = s := by
  have none : s.nextStart = none := by
    unfold State.nextStart
    split
    · rfl
    · exact List.find?_eq_none.mpr fun b _ => by simp [h.startable b]
  unfold State.askStart
  rw [none]

theorem State.Resting.judgeMinimum (h : s.Resting) : s.judgeMinimum = s := by
  unfold State.judgeMinimum
  rw [h.askStart, ite_self]

theorem modPool_of_fix {f : Pool → Pool} (h : f s.pool = s.pool) : s.modPool f = s :=
  congrArg (fun x => { s with pool := x }) h

theorem State.Resting.noteSupply (h : s.Resting) : s.noteSupply = s := by
  have same : (s.modPool fun p => { p with supply := s.supplyNow }) = s := by
    refine modPool_of_fix ?_
    rw [h.supplyNow, ← h.pool.1]
  unfold State.noteSupply
  rw [same]
  exact if_pos (beq_self_eq_true _)

theorem each_of_fix {f : Nat → State → State} (h : ∀ i, f i s = s) (n : Nat) : s.each n f = s :=
  foldl_keeps (P := fun u => u = s) (fun _ i hu => hu ▸ h i) _ rfl

theorem State.Resting.setSpeeds (h : s.Resting) (grants : Nat) : s.setSpeeds grants = s := by
  unfold State.setSpeeds
  refine each_of_fix (fun b => ?_) 6
  rw [h.counted b]
  rfl

theorem State.Resting.stageUp (h : s.Resting) : s.stageUp 0 = s := by
  obtain ⟨-, -, since, -⟩ := h.pool
  refine (if_pos (Nat.zero_le _)).trans (modPool_of_fix ?_)
  rw [← since]

theorem State.Resting.stageDown (h : s.Resting) (demand : Nat) : s.stageDown demand = s := by
  obtain ⟨-, list, -, since⟩ := h.pool
  have none : s.stopCandidate = none := by
    unfold State.stopCandidate
    rw [list]
    rfl
  unfold State.stageDown
  rw [none]
  refine modPool_of_fix ?_
  rw [← since]

/-! ### The first pass -/

theorem zone_of_getElem? {z : Nat} {x : Zone} (h : s.zones[z]? = some x) : s.zone z = x := by
  unfold State.zone
  rw [List.getD_eq_getElem?_getD, h]
  rfl

theorem modZone_of_fix {z : Nat} {f : Zone → Zone} (h : f (s.zone z) = s.zone z) : s.modZone z f = s := by
  have same : s.zones.modify z f = s.zones.modify z id := modify_congr fun x hx => by rwa [zone_of_getElem? hx] at h
  exact congrArg (fun l => { s with zones := l }) (same.trans (List.modify_id z s.zones))

theorem State.Resting.setGrant (h : s.Resting) (z : Nat) : s.setGrant z 0 = s := by
  obtain ⟨-, grant, cap⟩ := h.zones z
  have zero : (if (s.zone z).mode = .off then 0 else capOf 0 (s.zone z).cfg.fullOpenAir) = 0 := by
    split
    · rfl
    · simp [capOf]
  unfold State.setGrant
  dsimp only
  rw [zero, if_pos cap.symm]
  refine modZone_of_fix ?_
  generalize s.zone z = x at grant cap
  cases x
  simp_all

theorem State.Resting.rejudgeZone (h : s.Resting) (z : Nat) : State.rejudgeZone z s = s := by
  have unready : s.readyForAuto z = false := by
    unfold State.readyForAuto State.causesNow
    rw [pointGood_of_none (h.points _)]
    rfl
  unfold State.rejudgeZone
  obtain ⟨mode | mode, -⟩ := h.zones z
  · dsimp only
    rw [mode]
  · dsimp only
    rw [mode]
    exact if_neg (by rw [unready]; decide)

theorem State.Resting.rejudgeZones (h : s.Resting) : s.rejudgeZones = s := each_of_fix h.rejudgeZone 24

/-! ### What a pass grants -/

/-- A zone that drives nothing. -/
def Claim.idle (c : Claim) : Prop := c.mode = .off ∨ c.mode = .waiting

theorem Claim.idle.figures {c : Claim} (h : c.idle) : c.hand = false ∧ c.trimming = false
    ∧ c.floorClaim = if c.mode = .waiting then c.floor else 0 := by
  unfold Claim.hand Claim.trimming Claim.floorClaim Claim.floorZone
  rcases h with h | h <;> rw [h] <;> exact ⟨rfl, rfl, rfl⟩

/-- A list of zeros, one for each zone. -/
def noAir (cs : List Claim) : List Nat := cs.map fun _ => 0

theorem map_eq_noAir {cs : List Claim} {f : Claim → Nat} (h : ∀ c ∈ cs, f c = 0) : cs.map f = noAir cs :=
  List.map_congr_left h

theorem sum_noAir (cs : List Claim) : (noAir cs).sum = 0 := by
  simp [noAir]

theorem addAir_noAir (cs : List Claim) : addAir (noAir cs) (noAir cs) = noAir cs := by
  simp [addAir, noAir]

theorem shareOut_noAir (cs : List Claim) (air : Nat) : shareOut air (noAir cs) = noAir cs :=
  if_pos (by rw [sum_noAir]; exact Nat.zero_le _)

/-- With no air to share every share is nothing. -/
theorem shareOut_zero (cs : List Claim) (f : Claim → Nat) : shareOut 0 (cs.map f) = noAir cs := by
  unfold shareOut
  split
  · rename_i h
    refine map_eq_noAir fun c hc => ?_
    have := List.le_sum_of_mem (List.mem_map_of_mem (f := f) hc)
    omega
  · rw [List.map_map]
    exact map_eq_noAir fun c _ => by simp

/-- What a figure of each zone and a list of zeros make. -/
theorem zipWith_noAir {f : Claim → Nat → Nat} {cs : List Claim} (h : ∀ c ∈ cs, f c 0 = 0) :
    List.zipWith f cs (noAir cs) = noAir cs := by
  have zip : List.zipWith f cs (noAir cs) = cs.map fun c => f c 0 := by
    unfold noAir
    rw [List.zipWith_map_right, List.zipWith_self]
  rw [zip]
  exact map_eq_noAir h

theorem priorityShares_noAir (cs : List Claim) (ks : List Nat) (air : Nat) :
    priorityShares cs (noAir cs) ks air = noAir cs := by
  have wants (k : Nat) : classWants k cs (noAir cs) = noAir cs := zipWith_noAir fun c _ => ite_self 0
  induction ks generalizing air with
  | nil => simp [priorityShares, noAir]
  | cons k ks ih =>
    unfold priorityShares
    dsimp only
    rw [wants, sum_noAir, if_pos (Nat.zero_le _), ih, addAir_noAir]

theorem releaseKeep_noAir {cs : List Claim} (h : ∀ c ∈ cs, c.idle) (spare : Nat) :
    releaseKeep spare cs (noAir cs) = noAir cs := by
  induction cs generalizing spare with
  | nil => rfl
  | cons c cs ih =>
    have rest := ih fun d hd => h d (List.mem_cons_of_mem _ hd)
    have trimming := (h c List.mem_cons_self).figures.2.1
    simp only [noAir, List.map_cons, releaseKeep, trimming, Bool.false_and] at rest ⊢
    exact congrArg (0 :: ·) (rest _)

/-- R96 to R101: zones that drive nothing are granted nothing of no supply. -/
theorem computeGrants_idle {cs : List Claim} (h : ∀ c ∈ cs, c.idle) (policy : Policy) : computeGrants policy 0 cs = noAir cs := by
  have hand : handGrants 0 cs = noAir cs := by
    unfold handGrants
    exact shareOut_zero cs _
  have floors : floorGrants 0 cs = noAir cs := by
    unfold floorGrants
    rw [hand, sum_noAir]
    exact shareOut_zero cs _
  have remaining : remainingDemands (noAir cs) cs = noAir cs := by
    refine zipWith_noAir fun c hc => ?_
    rw [(h c hc).figures.2.1]
    rfl
  have shares : remainderShares policy cs (noAir cs) 0 = noAir cs := by
    cases policy
    · exact priorityShares_noAir cs _ _
    · exact shareOut_noAir cs _
  have computed : computedGrants policy 0 cs = noAir cs := by
    unfold computedGrants
    dsimp only
    rw [hand, floors, remaining, sum_noAir, addAir_noAir]
    rw [shares, addAir_noAir]
  unfold computeGrants releaseStage
  rw [computed]
  split
  · rfl
  · exact releaseKeep_noAir h _

/-! ### The pass -/

theorem State.Resting.claims (h : s.Resting) : ∀ c ∈ s.claims, c.idle := by
  intro c hc
  obtain ⟨z, -, rfl⟩ := List.mem_map.mp hc
  exact (h.zones z).1

/-- R97: the mixing floors that the zones at rest ask for. -/
def State.floors (s : State) : Nat := (s.claims.map Claim.floorClaim).sum

theorem passFigures_idle {cs : List Claim} (h : ∀ c ∈ cs, c.idle) :
    passFigures 0 cs (noAir cs) = ⟨0, 0, (cs.map Claim.floorClaim).sum, 0, 0⟩ := by
  have hand : cs.map Claim.handClaim = noAir cs := map_eq_noAir fun c hc => by
    unfold Claim.handClaim
    rw [(h c hc).figures.1]
    rfl
  have demand : (cs.map fun c => if c.trimming || c.hand then c.demand else 0) = noAir cs := map_eq_noAir fun c hc => by
    rw [(h c hc).figures.1, (h c hc).figures.2.1]
    rfl
  unfold passFigures totalDemand
  rw [hand, demand, sum_noAir]

/-- R98: the air-short judgement of a pool that has no supply and is not short of air yet. -/
theorem judgeAirShort_eq (hs : s.pool.supply = 0) (ha : s.pool.airShort = false) {acts : AlarmCode → Source → AlarmAct}
    {w : Nat} (hact : acts .airShort .header = if 0 < w then .raise (some w) else .clear) :
    s.judgeAirShort w
      = (s.modPool fun p => { p with airShort := decide (0 < w) }).actAll acts [.airShort] .header := by
  unfold State.judgeAirShort State.actAll
  simp only [hs, ha, List.foldl_cons, List.foldl_nil, hact]
  by_cases hw : 0 < w
  · simp only [hw, if_true]
    rfl
  · simp only [hw, if_false]
    rfl

theorem AlarmsOnly.modPool (h : AlarmsOnly s t) (f : Pool → Pool) : AlarmsOnly (s.modPool f) (t.modPool f) := by
  obtain ⟨moved, only⟩ := h
  refine ⟨moved, ?_⟩
  rw [only]
  rfl

/-- R94 to R102: a pass at rest. -/
theorem State.Resting.allocate (h : s.Resting) (hshort : (s.judgeAirShort s.floors).Resting) : s.allocate
    = (s.judgeAirShort s.floors).modPool fun p =>
        p.passed (s.judgeAirShort s.floors).uptime ⟨0, 0, s.floors, 0, 0⟩ := by
  have grants : computeGrants s.policy s.pool.supply s.claims = noAir s.claims := by
    rw [h.pool.1]
    exact computeGrants_idle h.claims _
  have figures : passFigures s.pool.supply s.claims (noAir s.claims) = ⟨0, 0, s.floors, 0, 0⟩ := by
    rw [h.pool.1]
    exact passFigures_idle h.claims
  have none (z : Nat) : (noAir s.claims).getD z 0 = 0 := by
    simp [noAir, List.getD_eq_getElem?_getD]
  have resting : ((s.judgeAirShort s.floors).modPool fun p =>
      p.passed (s.judgeAirShort s.floors).uptime ⟨0, 0, s.floors, 0, 0⟩).Resting := hshort.modPool fun _ => ⟨rfl, rfl, rfl, rfl⟩
  unfold State.allocate
  simp only [grants, figures, Nat.zero_add, none]
  exact each_of_fix (f := fun z v => State.setGrant v z 0) resting.setGrant 24

/-- R94, R103: the first pass of a pool at rest. -/
theorem State.Resting.runPass (h : s.Resting) (hshort : (s.judgeAirShort s.floors).Resting)
    (hfirst : (s.judgeAirShort s.floors).pool.firstPassDone = false) : s.runPass
      = ((s.judgeAirShort s.floors).modPool fun p =>
          p.passed (s.judgeAirShort s.floors).uptime ⟨0, 0, s.floors, 0, 0⟩).modPool fun p => { p with firstPassDone := true } := by
  have resting : ((s.judgeAirShort s.floors).modPool fun p =>
      p.passed (s.judgeAirShort s.floors).uptime ⟨0, 0, s.floors, 0, 0⟩).Resting := hshort.modPool fun _ => ⟨rfl, rfl, rfl, rfl⟩
  unfold State.runPass
  dsimp only
  rw [h.allocate hshort]
  generalize hx : (s.judgeAirShort s.floors).modPool (fun p =>
    p.passed (s.judgeAirShort s.floors).uptime ⟨0, 0, s.floors, 0, 0⟩) = x at resting
  have demand : x.pool.figures.demand = 0 := by
    rw [← hx]
    simp only [State.modPool_pool, Pool.passed]
  have first : x.pool.firstPassDone = false := by
    rw [← hx]
    simp only [State.modPool_pool, Pool.passed, hfirst]
  rw [resting.setSpeeds, demand, resting.stageUp, resting.judgeMinimum, resting.stageDown]
  unfold State.firstPass
  rw [first]
  exact State.Resting.rejudgeZones (resting.modPool fun _ => ⟨rfl, rfl, rfl, rfl⟩)

end Sys2Proof.Machine
end

section
/-! The Header Unit's part in a start, and the start up to the arbiters. -/

namespace Sys2Proof.Machine

open Sys2Proof

variable {s t u : State}

/-! ### The pool settles, or it does not -/

theorem header_unsettled (h : s.Resting) (hn : (!s.pool.settled && s.noneUnknown) = false) : s.header = s := by
  have supply : s.supplyNow = s.pool.supply := h.supplyNow.trans h.pool.1.symm
  exact (if_neg (by rw [hn]; decide)).trans ((if_pos supply).trans h.judgeMinimum)

theorem header_settles (hn : (!s.pool.settled && s.noneUnknown) = true) (hs : s.settle.Resting)
    (hp : s.settle.pool.settled = true) : s.header = s.settle := by
  have supply : s.settle.supplyNow = s.settle.pool.supply := hs.supplyNow.trans hs.pool.1.symm
  refine (if_pos hn).trans ?_
  exact (if_neg (by rw [hp]; simp)).trans ((if_pos supply).trans hs.judgeMinimum)

/-- R93: a pool that has just settled, before its first pass. -/
def State.settling (s : State) : State :=
  (s.modPool fun p => { p with settled := true }).offerNotice
    (.startComplete s.port.startKind s.port.imageValidAtStart s.uptime)

theorem State.Resting.settle_eq (h : s.Resting) : s.settle = s.settling.runPass := by
  unfold State.settle
  rw [h.noteSupply]
  rfl

/-- R93, R94, R98: the pool after its first pass at a start, its floors `w` asked of no supply. -/
def Pool.firstPassed (p : Pool) (now w : Nat) : Pool :=
  { ({ p with settled := true, airShort := decide (0 < w) } : Pool).passed now ⟨0, 0, w, 0, 0⟩ with firstPassDone := true }

theorem AlarmsOnly.pool (h : AlarmsOnly s t) : t.pool = s.pool := by
  rw [h.2]

/-- R93, R94: a pool at rest that settles, its record and its alarm. -/
theorem settle_told {base : State} (only : AlarmsOnly base s) (h : s.Resting) (hf : s.pool.firstPassDone = false)
    (ha : s.pool.airShort = false) {acts : AlarmCode → Source → AlarmAct} {raisable : AlarmCode → Bool}
    (hr : ∀ code src, raisable code = false → (acts code src).raises = 0)
    (hleave : ∀ x, x ≠ .header → acts .airShort x = .leave)
    (hact : acts .airShort .header = if 0 < s.settling.floors then .raise (some s.settling.floors) else .clear) :
    AlarmsOnly (base.modPool fun p => p.firstPassed s.uptime s.settling.floors) s.settle
      ∧ Told acts (fun c _ => c ∈ [AlarmCode.airShort]) ([AlarmCode.airShort].countP raisable) s s.settle := by
  have settled : AlarmsOnly (s.modPool fun p => { p with settled := true }) s.settling := (AlarmsOnly.refl _).offerNotice _
  have settling : s.settling.Resting := settled.resting (h.modPool fun _ => ⟨rfl, rfl, rfl, rfl⟩)
  have pool : s.settling.pool = { s.pool with settled := true } := settled.pool
  have judged : s.settling.judgeAirShort s.settling.floors
      = (s.settling.modPool fun p => { p with airShort := decide (0 < s.settling.floors) }).actAll acts [.airShort] .header :=
    judgeAirShort_eq settling.pool.1 (by rw [pool]; exact ha) hact
  have acted := actAll_only acts [.airShort] (s.settling.modPool fun p => { p with airShort := decide (0 < s.settling.floors) })
    .header
  have told := told_source hr (codes := [.airShort]) (by simp)
    (fun c hc x hx => by rw [List.mem_singleton.mp hc]; exact hleave x hx)
    (s.settling.modPool fun p => { p with airShort := decide (0 < s.settling.floors) })
  rw [← judged] at acted told
  have short := acted.resting (settling.modPool fun _ => ⟨rfl, rfl, rfl, rfl⟩)
  have first : (s.settling.judgeAirShort s.settling.floors).pool.firstPassDone = false := by
    rw [acted.pool, State.modPool_pool, pool]
    exact hf
  have uptime : (s.settling.judgeAirShort s.settling.floors).uptime = s.uptime := acted.sameBook.1.trans settled.sameBook.1
  have settle := h.settle_eq.trans (settling.runPass short first)
  rw [uptime] at settle
  have frame : AlarmsOnly ((base.modPool fun p => { p with settled := true }).modPool fun p =>
      { p with airShort := decide (0 < s.settling.floors) }) (s.settling.judgeAirShort s.settling.floors) :=
    (((only.modPool _).trans settled).modPool _).trans acted
  have before : Told acts (fun _ _ => False) 0 s (s.settling.modPool fun p =>
      { p with airShort := decide (0 < s.settling.floors) }) :=
    Told.of_alarms settled.sameBook.1 (by rw [State.modPool_alarms, State.settling, offerNotice_eq]; rfl)
  rw [settle]
  generalize s.settling.judgeAirShort s.settling.floors = x at frame told ⊢
  have framed := (frame.modPool fun p => p.passed s.uptime ⟨0, 0, s.settling.floors, 0, 0⟩).modPool fun p =>
    { p with firstPassDone := true }
  refine ⟨framed, ?_⟩
  have after : Told acts (fun _ _ => False) 0 x ((x.modPool fun p =>
      p.passed s.uptime ⟨0, 0, s.settling.floors, 0, 0⟩).modPool fun p => { p with firstPassDone := true }) :=
    Told.of_alarms rfl rfl
  exact ((before.trans told fun _ _ k => k.elim).trans after fun _ _ _ => id).mono (by omega)
    (fun _ _ k => (k.resolve_right id).resolve_left id) fun _ _ k k' => absurd (.inl (.inr k)) k'

/-! ### The plant at a start is at rest -/

theorem getD_of_length_le {α : Type} {l : List α} {i : Nat} (h : l.length ≤ i) (d : α) : l.getD i d = d := by
  rw [List.getD_eq_getElem?_getD, List.getElem?_eq_none h]
  rfl

theorem load_blower_unknown (s : State) (kind : StartKind) (hsize : s.startImage.sized) (b : Nat) :
    ((s.load kind).blower b).state = .unknown := by
  rcases Nat.lt_or_ge b 6 with hb | hb
  · rw [load_blower s kind hsize hb]
    rfl
  · obtain ⟨-, -, -, -, -, blowers, -⟩ := hsize
    exact congrArg Blower.state (getD_of_length_le ((List.length_map _).trans blowers ▸ hb) _)

theorem load_zone_rests (s : State) (kind : StartKind) (z : Nat) :
    (((s.load kind).zone z).mode = .off ∨ ((s.load kind).zone z).mode = .waiting)
      ∧ ((s.load kind).zone z).grant = 0 ∧ ((s.load kind).zone z).cap = 0 := by
  have start (x : ZoneMode) (c : Bool) (h : x = if c then .waiting else .off) : x = .off ∨ x = .waiting := by
    cases c
    · exact .inl h
    · exact .inr h
  rcases Nat.lt_or_ge z 24 with hz | hz
  · rw [load_zone s kind hz]
    exact ⟨start _ _ rfl, rfl, rfl⟩
  · have outside : (s.load kind).zone z = Zone.start 0 false .blank :=
      getD_of_length_le ((List.length_map _).trans List.length_range ▸ hz) _
    rw [outside]
    exact ⟨.inl rfl, rfl, rfl⟩

theorem trippedBlower_rests (img : Settings) {x : Blower} (h : x.state = .unknown) :
    (img.trippedBlower x).state = .unknown ∨ (img.trippedBlower x).state = .tripped := by
  unfold Settings.trippedBlower
  split
  · exact .inr rfl
  · exact .inl h

theorem tripped_resting (s : State) (kind : StartKind) (hsize : s.startImage.sized) : (s.tripped kind 6).Resting where
  blowers b := by
    rw [tripped_blower]
    have unknown := load_blower_unknown s kind hsize b
    split
    · exact trippedBlower_rests _ unknown
    · exact .inl unknown
  zones z := by
    rw [tripped_eq, banded_eq]
    exact load_zone_rests s kind z
  points p := by
    refine started_validity (s := s) kind ?_ p
    rw [tripped_eq, banded_eq]
  pool := by
    rw [tripped_eq, banded_eq]
    exact ⟨rfl, rfl, rfl, rfl⟩

theorem tripped_blower_of_lt (s : State) (kind : StartKind) (hsize : s.startImage.sized) {b : Nat} (hb : b < 6) :
    (s.tripped kind 6).blower b
      = s.startImage.trippedBlower (Blower.start s.uptime (s.startImage.blowerIn b).1 (s.startImage.blowerIn b).2) := by
  have length : b < (s.load kind).blowers.length := by
    obtain ⟨-, -, -, -, -, blowers, -⟩ := hsize
    exact (List.length_map _).trans blowers ▸ hb
  rw [tripped_blower, if_pos ⟨hb, length⟩, load_blower s kind hsize hb]

/-- Table 33: the record of a blower after a start. -/
def Settings.startedBlower (img : Settings) (now b : Nat) : Blower :=
  { Blower.start now (img.blowerIn b).1 (img.blowerIn b).2 with
    state := if img.tripsAtStart b then .tripped else .unknown
    tripCause := if img.tripsAtStart b then some .lost else none }

theorem tripped_startedBlower (s : State) (kind : StartKind) (hsize : s.startImage.sized) {b : Nat} (hb : b < 6) :
    (s.tripped kind 6).blower b = s.startImage.startedBlower s.uptime b := by
  rw [tripped_blower_of_lt s kind hsize hb]
  unfold Settings.trippedBlower Settings.startedBlower
  cases h : s.startImage.tripsAtStart b
  · exact if_neg (by simpa [Settings.tripsAtStart, Blower.start] using h)
  · exact if_pos h

/-- R93: whether the pool settles at the start. -/
theorem started_noneUnknown (kind : StartKind) (hsize : s.startImage.sized) (h : t.blowers = (s.tripped kind 6).blowers) :
    t.noneUnknown = s.startImage.settlesAtStart := by
  have each (b : Nat) (hb : b < 6) : (!((t.blower b).cfg.configured && (t.blower b).state == .unknown))
      = (!(s.startImage.blowerIn b).2.configured || s.startImage.tripsAtStart b) := by
    have blower : t.blower b = (s.tripped kind 6).blower b :=
      congrArg (fun l : List Blower => l.getD b (Blower.start 0 false .blank)) h
    rw [blower, tripped_startedBlower s kind hsize hb]
    unfold Settings.startedBlower Blower.start
    cases s.startImage.tripsAtStart b <;> simp
  unfold State.noneUnknown Settings.settlesAtStart
  rw [Bool.eq_iff_iff, List.all_eq_true, List.all_eq_true]
  exact forall₂_congr fun b hb => by rw [each b (List.mem_range.mp hb)]

/-- R97: the mixing floors that the zones ask for at the start. -/
theorem started_floors (kind : StartKind) (h : t.zones = (s.load kind).zones) : t.floors = s.startImage.floorsAtStart := by
  unfold State.floors State.claims Settings.floorsAtStart
  rw [List.map_map]
  refine congrArg List.sum (List.map_congr_left fun z hz => ?_)
  have zone : t.zone z = (s.load kind).zone z :=
    congrArg (fun l : List Zone => l.getD z (Zone.start 0 false .blank)) h
  simp only [Function.comp_apply, Claim.floorClaim, Claim.floorZone]
  rw [zone, load_zone s kind (List.mem_range.mp hz)]
  change (if (((if s.startImage.waitsAtStart z then ZoneMode.waiting else .off) == .auto
    || (if s.startImage.waitsAtStart z then ZoneMode.waiting else .off) == .fallback
    || (if s.startImage.waitsAtStart z then ZoneMode.waiting else .off) == .waiting) = true) then _ else 0) = _
  cases s.startImage.waitsAtStart z <;> rfl

end Sys2Proof.Machine
end

section
/-! The start up to its end: the Header Unit, the line arbiter, the annunciator lines and the transmit arbiter. -/

namespace Sys2Proof.Machine

open Sys2Proof

variable {s t u : State}

/-! ### The Header Unit at a start -/

/-- R93, R94: the start up to the Header Unit, beside the alarm list: the pool has settled and made its first pass, or neither. -/
def State.startedPool (s : State) (kind : StartKind) : State :=
  if s.startImage.settlesAtStart then
    (s.tripped kind 6).modPool fun p => p.firstPassed s.uptime s.startImage.floorsAtStart
  else s.tripped kind 6

theorem leave_header {img : Settings} {valid : Bool} {x : Source} (hx : x ≠ .header) :
    img.actAtStart valid .airShort x = .leave := by
  cases x with
  | header => exact absurd rfl hx
  | _ => exact actAtStart_leave rfl rfl

theorem airShort_unsettled {img : Settings} {valid : Bool} (h : img.settlesAtStart = false) (x : Source) :
    img.actAtStart valid .airShort x = .leave := by
  by_cases hx : x = .header
  · subst hx
    exact actAtStart_leave (by simp [Settings.raisesAtStart, h]) (by simp [Settings.clearsAtStart, h])
  · exact leave_header hx

theorem airShort_settled {img : Settings} {valid : Bool} (h : img.settlesAtStart = true) :
    img.actAtStart valid .airShort .header
      = if 0 < img.floorsAtStart then .raise (some img.floorsAtStart) else .clear := by
  by_cases hf : 0 < img.floorsAtStart
  · rw [if_pos hf]
    exact actAtStart_raises (by simp [Settings.raisesAtStart, h, hf])
  · rw [if_neg hf, actAtStart_unraised (by simp [Settings.raisesAtStart, hf])]
    exact if_pos h

/-- R93, R94: the Header Unit's part in a start. -/
theorem startedHeader_told (s : State) (kind : StartKind) (hsize : s.startImage.sized) :
    AlarmsOnly (s.startedPool kind) (s.startedBlocks kind).header
      ∧ Told s.startActs (fun c _ => c ∈ [AlarmCode.airShort]) 1 (s.startedBlocks kind) (s.startedBlocks kind).header := by
  obtain ⟨only, told⟩ := startedBlocks_told s kind hsize
  have rest := only.resting (tripped_resting s kind hsize)
  obtain ⟨-, -, -, zones, blowers, -⟩ := only.banks
  have pool : (s.startedBlocks kind).pool = Pool.start s.startImage.pool s.startImage.dutyOrder := by
    rw [only.pool, tripped_eq, banded_eq]
    rfl
  have uptime : (s.startedBlocks kind).uptime = s.uptime := told.book.1
  have zones : (s.startedBlocks kind).zones = (s.load kind).zones := by
    rw [zones, tripped_eq, banded_eq]
  have known := started_noneUnknown kind hsize blowers
  generalize s.startedBlocks kind = v at only rest pool uptime zones known
  have settles : (!v.pool.settled && v.noneUnknown) = s.startImage.settlesAtStart := by
    rw [known, pool]
    rfl
  unfold State.startedPool
  cases hst : s.startImage.settlesAtStart with
  | false =>
    rw [header_unsettled rest (settles.trans hst), if_neg Bool.false_ne_true]
    refine ⟨only, (Told.of_alarms rfl rfl).mono (Nat.zero_le 1) (fun _ _ h => h.elim) fun c x hc _ => ?_⟩
    rw [List.mem_singleton.mp hc]
    exact airShort_unsettled hst x
  | true =>
    have settling : v.settling.zones = (s.load kind).zones := by
      have moved : AlarmsOnly (v.modPool fun p => { p with settled := true }) v.settling := (AlarmsOnly.refl _).offerNotice _
      obtain ⟨-, -, -, same, -⟩ := moved.banks
      exact same.trans zones
    have floors := started_floors kind settling
    obtain ⟨settled, alarm⟩ := settle_told only rest (by rw [pool]; rfl) (by rw [pool]; rfl) (raises_startActs s)
      (fun x hx => leave_header hx) (by rw [floors]; exact airShort_settled hst)
    rw [floors, uptime] at settled
    have after : v.settle.Resting := settled.resting
      ((tripped_resting s kind hsize).modPool fun _ => ⟨rfl, rfl, rfl, rfl⟩)
    rw [header_settles (settles.trans hst) after (by rw [settled.pool]; rfl), if_pos rfl]
    exact ⟨settled, alarm⟩

/-! ### The line arbiter at a start -/

/-- Table 12: the field line after a start, but for the first pass, which may have begun its turn or ended. -/
def Flc.Started (roster : List RosterEntry) (line : LineSettings) (f : Flc) : Prop :=
  f = { Flc.start roster line with passEnded := f.passEnded, passRest := f.passRest, gap := f.gap, turn := f.turn }

/-- R1: the roster entries that round 0 visits. -/
theorem started_visits {img : Settings} (hround : u.flc.round = 0)
    (hstation : ∀ i, u.station i = Station.start (img.stations.getD i .blank)) (hgroup : u.groups = img.groups) (e : RosterEntry) :
    u.passedOver e = !img.visitsAtStart e := by
  have pollable (i : Nat) : (u.station i).cfg.configured = (img.stations.getD i .blank).configured := by
    rw [hstation]
    rfl
  have group (g : Nat) : u.group g = img.groups.getD g .blank := by
    unfold State.group
    rw [hgroup]
  have phase : (u.flc.round % e.divisor != e.phase) = !(e.phase == 0) := by
    rw [hround, Nat.zero_mod, bne, BEq.comm]
  unfold State.passedOver Settings.visitsAtStart
  rw [phase, Bool.not_and]
  congr 1
  cases e.target with
  | station i => simp [State.unpollable, State.answerer, pollable]
  | group g =>
    simp only [State.unpollable, State.answerer, group]
    cases (img.groups.getD g .blank).answering with
    | none => simp
    | some i => simp [pollable, Bool.or_comm]

theorem AlarmsOnly.modFlc (h : AlarmsOnly s t) (f : Flc → Flc) : AlarmsOnly (s.modFlc f) (t.modFlc f) := by
  obtain ⟨moved, only⟩ := h
  refine ⟨moved, ?_⟩
  rw [only]
  rfl

theorem rosteredTo_eq {e : RosterEntry} {i : Nat} (hi : u.answerer e.target = some i) (after : List RosterEntry) :
    ∃ turn, u.rosteredTo e after u = u.modFlc fun f => { f with passRest := after, turn := some turn, gap := false } := by
  unfold State.rosteredTo
  exact ⟨_, (beginTurn_eq (s := u.modFlc fun f => { f with passRest := after }) hi true _).trans rfl⟩

/-- A turn begins: the alarm list is as it was. -/
theorem lineArbiter_begins {roster : List RosterEntry} {line : LineSettings} (hf : u.flc = Flc.start roster line)
    (h : roster.all u.passedOver = false) : ∃ f : Flc → Flc, u.lineArbiter = u.modFlc f ∧ (f u.flc).Started roster line := by
  obtain ⟨e, hfind⟩ : ∃ e, roster.find? (fun e => !u.passedOver e) = some e := by
    rw [← Option.isSome_iff_exists, List.find?_isSome]
    simpa using h
  obtain ⟨visited, before, after, hroster, hbefore⟩ := List.find?_eq_some_iff_append.mp hfind
  have visits : u.passedOver e = false := by simpa using visited
  have arbiter := (lineArbiter_visits (s := u) (before := before) (after := after) (by rw [hf]; rfl) (by rw [hf]; rfl)
    (by rw [hf]; exact hroster) (fun d hd => by simpa using hbefore d hd) visits).1 (.inl (by rw [hf]; rfl))
  obtain ⟨i, hi, -⟩ := answerer_of_pollable ((unpollable_false_iff _).mpr ((passedOver_false_iff e).mp visits).2)
  obtain ⟨turn, rostered⟩ := rosteredTo_eq hi after
  refine ⟨_, arbiter.trans rostered, ?_⟩
  rw [Flc.Started, hf]

/-- Nothing is to be visited: the first pass ends, and ROUND_OVERRUN is cleared (R3). -/
theorem lineArbiter_ends_at_once {roster : List RosterEntry} {line : LineSettings} (hf : u.flc = Flc.start roster line)
    (h : roster.all u.passedOver = true) : ∃ f g : Flc → Flc,
      u.lineArbiter = ((u.modFlc f).clearAlarm .roundOverrun .fieldLine).modFlc g ∧ (g (f u.flc)).Started roster line := by
  have ended : u.lineArbiter = u.passEnds.lineArbiter := lineArbiter_ends (by rw [hf]; rfl) (by rw [hf]; rfl)
    fun e he => List.all_eq_true.mp h e (by rwa [hf] at he)
  have timer : u.flc.roundTimer.isSome = true := by rw [hf]; rfl
  have ends : u.passEnds = u.endPass.clearAlarm .roundOverrun .fieldLine := if_pos timer
  have flc : u.passEnds.flc = u.endPass.flc := passEnds_flc u
  have idle : u.passEnds.lineArbiter = u.passEnds.modFlc fun f => { f with express := [], gap := false } := by
    refine lineArbiter_idle ?_ ?_ ?_ fun x hx => ?_
    · rw [flc]
      exact congrArg Flc.turn hf
    · rw [flc]
      rfl
    · rw [flc]
      exact timer
    · rw [flc] at hx
      have none : u.endPass.flc.express = [] := congrArg Flc.express hf
      exact absurd (none ▸ hx) List.not_mem_nil
  rw [ends] at ended idle
  unfold State.endPass at ended idle
  refine ⟨_, _, ended.trans idle, ?_⟩
  rw [Flc.Started, hf]
  rfl

/-- R1 to R3: the line arbiter's part in a start. -/
theorem startedArbiter_told {acts : AlarmCode → Source → AlarmAct} {roster : List RosterEntry} {line : LineSettings}
    (hf : u.flc = Flc.start roster line) (hleave : ∀ x, x ≠ .fieldLine → acts .roundOverrun x = .leave)
    (hact : acts .roundOverrun .fieldLine = if roster.all u.passedOver then .clear else .leave) :
    u.lineArbiter.flc.Started roster line ∧ AlarmsOnly { u with flc := u.lineArbiter.flc } u.lineArbiter
      ∧ Told acts (fun c _ => c ∈ [AlarmCode.roundOverrun]) 0 u u.lineArbiter := by
  cases hall : roster.all u.passedOver with
  | false =>
    obtain ⟨f, begins, started⟩ := lineArbiter_begins hf hall
    rw [begins]
    have same : Told acts (fun _ _ => False) 0 u (u.modFlc f) := Told.of_alarms rfl rfl
    refine ⟨started, .refl _, same.mono (Nat.le_refl _) (fun _ _ h => h.elim) fun c x hc _ => ?_⟩
    rw [List.mem_singleton.mp hc]
    by_cases hx : x = .fieldLine
    · rw [hx, hact, hall]
      rfl
    · exact hleave x hx
  | true =>
    obtain ⟨f, g, ends, started⟩ := lineArbiter_ends_at_once hf hall
    have act : acts .roundOverrun .fieldLine = .clear := by rw [hact, hall]; rfl
    have cleared := told_act acts (u.modFlc f) .roundOverrun .fieldLine
    have only := clearAlarm_only (u.modFlc f) .roundOverrun .fieldLine
    have flc := clearAlarm_flc (u.modFlc f) .roundOverrun .fieldLine
    rw [act] at cleared
    change Told acts _ 0 (u.modFlc f) ((u.modFlc f).clearAlarm .roundOverrun .fieldLine) at cleared
    rw [ends]
    generalize (u.modFlc f).clearAlarm .roundOverrun .fieldLine = v at cleared only flc
    have same : (v.modFlc g).flc = g (f u.flc) := congrArg g flc
    refine ⟨same ▸ started, ?_, ?_⟩
    · rw [same]
      exact only.modFlc g
    · have before : Told acts (fun _ _ => False) 0 u (u.modFlc f) := Told.of_alarms rfl rfl
      have after : Told acts (fun _ _ => False) 0 v (v.modFlc g) := Told.of_alarms rfl rfl
      refine ((before.trans cleared fun _ _ h => h.elim).trans after fun _ _ _ => id).mono (Nat.le_refl _)
        (fun c x h => ?_) fun c x hc hn => ?_
      · obtain ⟨rfl, -⟩ := (h.resolve_right id).resolve_left id
        exact List.mem_singleton_self _
      · obtain rfl := List.mem_singleton.mp hc
        refine hleave x fun hx => hn (.inl (.inr ⟨rfl, hx.symm⟩))

end Sys2Proof.Machine
end

section
/-! The state after a start: what of it is the image's, and the alarm list. -/

namespace Sys2Proof.Machine

open Sys2Proof

variable {s t u : State} {img : Settings} {valid : Bool}

/-! ### The end of a start -/

/-- What the notices and the transmitter move of the port. -/
def Port.Sends (p q : Port) : Prop :=
  q = { p with tx := q.tx, notices := q.notices, noticesLost := q.noticesLost, forward := q.forward }

theorem Port.Sends.trans {p q r : Port} (h : p.Sends q) (k : q.Sends r) : p.Sends r := by
  unfold Port.Sends at h k ⊢
  rw [k, h]

theorem AlarmsOnly.sends (h : AlarmsOnly s t) : s.port.Sends t.port := by
  rw [h.2]
  rfl

/-- States alike but for the field line controller, the alarm list and the port. -/
def State.SameBlocks (s t : State) : Prop := t = { s with flc := t.flc, alarms := t.alarms, port := t.port }

theorem State.SameBlocks.trans (h : s.SameBlocks t) (k : t.SameBlocks u) : s.SameBlocks u := by
  unfold State.SameBlocks at h k ⊢
  rw [k, h]

theorem AlarmsOnly.sameBlocks (h : AlarmsOnly s t) : s.SameBlocks t := by
  rw [h.2]
  rfl

theorem transmit_sameBlocks (s : State) : s.SameBlocks s.transmit := by
  rw [transmit_eq]
  rfl

/-- R173: with no reply to send the transmitter takes a notice or a pending point. -/
theorem transmit_sends (h : s.port.replies = []) : s.port.Sends s.transmit.port := by
  unfold State.transmit State.modPort Port.Sends
  split
  · rfl
  · generalize s.port = p at h
    obtain ⟨⟩ := p
    subst h
    rename_i notices _ forward _ _ _ _ _
    cases notices with
    | cons => rfl
    | nil => cases forward <;> rfl

/-- A change beside the records and the settings of the alarm list. -/
theorem Told.of_lines {acts : AlarmCode → Source → AlarmAct} (hu : t.uptime = s.uptime)
    (ha : t.alarms = { s.alarms with lines := t.alarms.lines }) : Told acts (fun _ _ => False) 0 s t where
  book := ⟨hu, by rw [ha], by rw [ha], by rw [ha]⟩
  room _ := by
    unfold State.record
    rw [ha]
    exact ⟨Nat.le_refl _, id, id, fun _ _ => ⟨fun h => h.elim, fun _ => rfl⟩⟩

/-- R3, R176: ROUND_OVERRUN at a start. -/
theorem roundOverrun_acts (img : Settings) (valid : Bool) : img.actAtStart valid .roundOverrun .fieldLine
    = if img.roster.all fun e => !img.visitsAtStart e then .clear else .leave := actAtStart_unraised rfl

theorem leave_fieldLine {x : Source} (hx : x ≠ .fieldLine) : img.actAtStart valid .roundOverrun x = .leave := by
  cases x with
  | fieldLine => exact absurd rfl hx
  | _ => exact actAtStart_leave rfl rfl

/-- The codes that a start tells of. -/
def startCodes : List AlarmCode := blockCodes ++ [.airShort] ++ [.roundOverrun]

theorem startedPool_eq (s : State) (kind : StartKind) : s.startedPool kind
    = { s.load kind with
        lanes := (s.banded kind 6).lanes, blowers := (s.tripped kind 6).blowers, pool := (s.startedPool kind).pool } := by
  unfold State.startedPool
  split
  · rw [tripped_eq, banded_eq]
    rfl
  · rw [tripped_eq, banded_eq]

/-- A start up to its end: its blocks, its field line, its port and its alarm list. -/
theorem startUp_told (s : State) (kind : StartKind) (hsize : s.startImage.sized) :
    (s.startedPool kind).SameBlocks (s.startUp kind)
      ∧ (s.startUp kind).flc.Started s.startImage.roster s.startImage.line
      ∧ (s.port.started kind).Sends (s.startUp kind).port
      ∧ Told s.startActs (fun c _ => c ∈ startCodes) 16 (s.load kind) (s.startUp kind) := by
  obtain ⟨-, blocks⟩ := startedBlocks_told s kind hsize
  obtain ⟨only, header⟩ := startedHeader_told s kind hsize
  rw [startUp_eq]
  have told := blocks.append header (by decide)
  generalize (s.startedBlocks kind).header = u at only told
  have frame := only.sameBlocks
  have flc : u.flc = Flc.start s.startImage.roster s.startImage.line := by
    rw [only.2, startedPool_eq]
    rfl
  have visits (e : RosterEntry) : u.passedOver e = !s.startImage.visitsAtStart e := by
    refine started_visits (by rw [flc]; rfl) (fun i => ?_) ?_ e
    · rw [only.2, startedPool_eq]
      exact load_station s kind i
    · rw [only.2, startedPool_eq]
      rfl
  obtain ⟨started, arbiter, overrun⟩ := startedArbiter_told (acts := s.startActs) flc (fun x hx => leave_fieldLine hx)
    (by rw [funext visits]; exact roundOverrun_acts _ _)
  have all := told.append overrun (by decide)
  have port : (s.port.started kind).Sends u.lineArbiter.port := by
    have first := only.sends
    rw [startedPool_eq] at first
    exact first.trans arbiter.sends
  have unsent : u.lineArbiter.port.replies = [] := by rw [port]; rfl
  have blocks : (s.startedPool kind).SameBlocks u.lineArbiter := frame.trans (lineArbiter_eq u)
  unfold State.finish
  generalize u.lineArbiter = v at started all port unsent blocks
  have lines : Told s.startActs (fun _ _ => False) 0 v v.updateLines.transmit :=
    .of_lines (by rw [transmit_eq]; rfl) (by rw [transmit_eq]; rfl)
  have shown : v.SameBlocks v.updateLines := rfl
  refine ⟨blocks.trans (shown.trans (transmit_sameBlocks _)), ?_, port.trans (transmit_sends (s := v.updateLines) unsent),
    (all.trans lines fun _ _ _ => id).mono (by omega) (fun c x h => h.resolve_right id) fun c x h hn => absurd (.inl h) hn⟩
  rw [transmit_eq]
  exact started

end Sys2Proof.Machine
end

section
/-! A start shows the image: its configuration, every block in its start state, and the alarm list with the start's raises and
clears made on it. -/

namespace Sys2Proof.Machine

open Sys2Proof

variable {s t u : State} {img : Settings} {valid : Bool}

/-! ### The configuration -/

/-- A table read entry by entry is the table. -/
theorem map_getD_range {α : Type} (l : List α) {n : Nat} (h : l.length = n) (d : α) :
    ((List.range n).map fun i => l.getD i d) = l := by
  subst h
  refine List.ext_getElem (by simp) fun i hi _ => ?_
  simp only [List.length_map, List.length_range] at hi
  simp [List.getD_eq_getElem?_getD, hi]

theorem load_config (s : State) (kind : StartKind) (hsize : s.startImage.sized) :
    (s.load kind).config = s.startImage.active := by
  obtain ⟨-, -, -, -, zones, -, channels, -⟩ := hsize
  have hstations : (s.load kind).stations.map Station.cfg = s.startImage.stations := by
    refine (List.map_map ..).trans ?_
    exact List.map_id _
  have hpoints : (s.load kind).points.map Point.cfg = s.startImage.points := by
    refine (List.map_map ..).trans ?_
    exact List.map_id _
  have hlanes : (s.load kind).lanes.map (fun x : Lane => (x.inService, x.cfg)) = s.startImage.lanes := by
    refine (List.map_map ..).trans ?_
    exact List.map_id _
  have hzones : (s.load kind).zones.map Zone.cfg = s.startImage.zones := by
    refine (List.map_map ..).trans ?_
    exact map_getD_range _ zones _
  have hblowers : (s.load kind).blowers.map (fun x : Blower => (x.lockout, x.cfg)) = s.startImage.blowers := by
    refine (List.map_map ..).trans ?_
    exact List.map_id _
  have hchannels : (s.load kind).channels.map Channel.cfg = s.startImage.channels := by
    refine (List.map_map ..).trans ?_
    exact map_getD_range _ channels _
  unfold State.config State.settings Settings.active
  rw [hstations, hpoints, hlanes, hzones, hblowers, hchannels]
  rfl

theorem banded_config (s : State) (kind : StartKind) (n : Nat) : (s.banded kind n).config = (s.load kind).config := by
  induction n with
  | zero => rfl
  | succ n ih =>
    rw [banded_succ, ← ih]
    exact config_congr rfl rfl rfl rfl rfl 
      (map_modify_of_fix (fun x : Lane => (x.inService, x.cfg)) s.startImage.bandedLane (fun _ => rfl) _ _)
      rfl rfl rfl rfl rfl rfl rfl rfl rfl rfl rfl

theorem tripped_config (s : State) (kind : StartKind) (n : Nat) : (s.tripped kind n).config = (s.load kind).config := by
  have keeps (x : Blower) : ((s.startImage.trippedBlower x).lockout, (s.startImage.trippedBlower x).cfg) = (x.lockout, x.cfg) := by
    unfold Settings.trippedBlower
    split <;> rfl
  induction n with
  | zero => exact banded_config s kind 6
  | succ n ih =>
    rw [tripped_succ, ← ih]
    exact config_congr rfl rfl rfl rfl rfl rfl rfl (map_modify_of_fix _ _ keeps _ _) rfl rfl rfl rfl rfl rfl rfl rfl rfl

theorem startedPool_config (s : State) (kind : StartKind) : (s.startedPool kind).config = (s.load kind).config := by
  rw [← tripped_config s kind 6]
  unfold State.startedPool
  split
  · rfl
  · rfl

/-- R176: the configuration after a start is the image's. -/
theorem startUp_config (s : State) (kind : StartKind) (hsize : s.startImage.sized) :
    (s.startUp kind).config = s.startImage.active := by
  obtain ⟨only, -⟩ := startedHeader_told s kind hsize
  have settled := Settled.finish (s.startedBlocks kind).header
  exact settled.config.trans (only.config.trans ((startedPool_config s kind).trans (load_config s kind hsize)))

/-! ### The blocks -/

/-- What a start leaves as the image was loaded, and what the judgements of the start leave of the rest. -/
theorem startUp_banks (s : State) (kind : StartKind) (hsize : s.startImage.sized) :
    let t := s.startUp kind
    t.uptime = s.uptime ∧ t.stations = (s.load kind).stations ∧ t.points = (s.load kind).points
      ∧ t.lanes = (s.banded kind 6).lanes ∧ t.zones = (s.load kind).zones ∧ t.blowers = (s.tripped kind 6).blowers
      ∧ t.pool = (s.startedPool kind).pool ∧ t.channels = (s.load kind).channels ∧ t.pairs = s.startImage.pairs
      ∧ t.storm = (s.load kind).storm ∧ t.hand = [] := by
  obtain ⟨blocks, -⟩ := startUp_told s kind hsize
  generalize s.startUp kind = t at blocks ⊢
  rw [State.SameBlocks, startedPool_eq] at blocks
  refine ⟨?_, ?_, ?_, ?_, ?_, ?_, ?_, ?_, ?_, ?_, ?_⟩ <;> rw [blocks] <;> rfl

theorem firstPassed_start (c : PoolCfg) (order : List Nat) (now w : Nat) : (Pool.start c order).firstPassed now w =
    { Pool.start c order with
      settled := true, firstPassDone := true, allocDeadline := some (now + c.allocationPeriod), passCount := 1,
      lastPass := some now, airShort := decide (0 < w), figures := ⟨0, 0, w, 0, 0⟩ } := rfl

/-- Table 37: the pool after a start. -/
theorem startedPool_pool (s : State) (kind : StartKind) : let img := s.startImage
    (s.startedPool kind).pool =
      { cfg := img.pool, dutyOrder := img.dutyOrder, runList := [], supply := 0, stageUpSince := none, stageDownSince := none,
        settled := img.settlesAtStart, firstPassDone := img.settlesAtStart, pressureHigh := false, pressureLow := false,
        allocDeadline := if img.settlesAtStart then some (s.uptime + img.pool.allocationPeriod) else none,
        passCount := if img.settlesAtStart then 1 else 0, lastPass := if img.settlesAtStart then some s.uptime else none,
        airShort := img.settlesAtStart && decide (0 < img.floorsAtStart),
        figures := ⟨0, 0, if img.settlesAtStart then img.floorsAtStart else 0, 0, 0⟩ } := by
  have loaded : (s.tripped kind 6).pool = Pool.start s.startImage.pool s.startImage.dutyOrder := by
    rw [tripped_eq, banded_eq]
    rfl
  intro img
  unfold State.startedPool
  cases h : s.startImage.settlesAtStart with
  | false =>
    rw [if_neg Bool.false_ne_true, loaded]
    rfl
  | true =>
    rw [if_pos rfl, State.modPool_pool, loaded, firstPassed_start]
    simp only [Pool.start, if_true, Bool.true_and]
    rfl

/-- R24, R63, R76, R93, R123, R135: every block takes its start state. -/
theorem startUp_startedFrom (s : State) (kind : StartKind) (hsize : s.startImage.sized) :
    (s.startUp kind).StartedFrom s.startImage := by
  obtain ⟨-, started, -⟩ := startUp_told s kind hsize
  obtain ⟨uptime, -, -, lanes, zones, blowers, pool, channels, -, storm, -⟩ := startUp_banks s kind hsize
  generalize s.startUp kind = t at started uptime lanes zones blowers pool channels storm
  constructor
  case line =>
    rw [started]
    exact ⟨rfl, rfl, rfl, rfl, rfl, rfl, rfl, rfl, rfl⟩
  case lanes =>
    intro l hl
    have lane : t.lane l = (s.banded kind 6).lane l := congrArg (fun k : List Lane => k.getD l (Lane.start 0 false .blank)) lanes
    have length : l < (s.load kind).lanes.length := by
      obtain ⟨-, -, -, six, -⟩ := hsize
      exact (List.length_map _).trans six ▸ hl
    rw [lane, banded_lane, if_pos ⟨hl, length⟩, load_lane s kind hsize hl, uptime]
    rfl
  case zones =>
    intro z hz
    have zone : t.zone z = (s.load kind).zone z := congrArg (fun k : List Zone => k.getD z (Zone.start 0 false .blank)) zones
    rw [zone, load_zone s kind hz, uptime]
    rfl
  case blowers =>
    intro b hb
    have blower : t.blower b = (s.tripped kind 6).blower b :=
      congrArg (fun k : List Blower => k.getD b (Blower.start 0 false .blank)) blowers
    rw [blower, tripped_startedBlower s kind hsize hb, uptime]
    rfl
  case pool =>
    rw [pool, startedPool_pool, uptime]
  case channels =>
    intro c hc
    have channel : t.channel c = (s.load kind).channel c :=
      congrArg (fun k : List Channel => k.getD c (Channel.start .blank)) channels
    rw [channel, load_channel s kind hc, Bool.and_right_comm]
    rfl
  case storm =>
    rw [storm, uptime]
    change Storm.start s.uptime s.startImage.storm s.startImage.force = _
    unfold Storm.start
    cases s.startImage.force <;> rfl

/-! ### The alarm list -/

/-- A start neither raises nor clears any other code. -/
theorem actAtStart_unlisted {code : AlarmCode} (h : code ∉ startCodes) (src : Source) :
    img.actAtStart valid code src = .leave := by
  refine actAtStart_leave ?_ ?_
  · unfold Settings.raisesAtStart
    split <;> simp_all [startCodes, blockCodes]
  · unfold Settings.clearsAtStart
    split <;> simp_all [startCodes, blockCodes]

/-- What the acts of a start make of a record, said as the raises and the clears of the start. -/
theorem acted_actAtStart (hroom : s.alarms.records.length < 64) (code : AlarmCode) (src : Source) :
    s.acted (img.actAtStart valid code src) code src = match img.raisesAtStart valid code src with
      | some value => (s.raiseAlarm code src value).record code src
      | none => (if img.clearsAtStart code src then s.clearAlarm code src else s).record code src := by
  unfold Settings.actAtStart
  cases img.raisesAtStart valid code src with
  | some v => exact ((record_raiseAlarm hroom v code src).trans (if_pos ⟨rfl, rfl⟩)).symm
  | none =>
    cases img.clearsAtStart code src with
    | true => exact (record_clearAlarm_same s code src).symm
    | false => rfl

/-- R164: the alarm list after a start, where it has room for what a start can raise. -/
theorem startUp_alarms (s : State) (kind : StartKind) (hsize : s.startImage.sized) (hroom : s.alarms.records.length ≤ 48) :
    (s.startUp kind).alarmsStartedFrom s.startImage s.port.imageOk s.alarms.records
      ∧ ((s.startUp kind).alarms.full = true → s.alarms.full = true) := by
  obtain ⟨-, -, -, book, told⟩ := startUp_told s kind hsize
  have length : (s.load kind).alarms.records.length = s.alarms.records.length := rfl
  obtain ⟨-, full, silenced, records⟩ := told (by omega)
  generalize s.startUp kind = t at book full silenced records ⊢
  refine ⟨?_, full⟩
  have before : (s.load kind).SameBook (t.modAlarms fun a => { a with records := s.alarms.records }) := book
  obtain ⟨-, classes, map, escalation⟩ := book
  refine ⟨silenced rfl, escalation, map, classes, fun code src => ?_⟩
  have acted : t.record code src = (s.load kind).acted (s.startActs code src) code src := by
    by_cases hc : code ∈ startCodes
    · exact (records code src).1 hc
    · rw [(records code src).2 hc]
      unfold State.startActs
      rw [actAtStart_unlisted hc]
      rfl
  have same := acted_congr (code := code) (src := src) before rfl (s.startActs code src)
  have room : (t.modAlarms fun a => { a with records := s.alarms.records }).alarms.records.length < 64 :=
    Nat.lt_of_le_of_lt hroom (by decide)
  exact acted.trans (same.symm.trans (acted_actAtStart room code src))

end Sys2Proof.Machine
end

section
/-! Power-on and the reset pin. -/

namespace Sys2Proof.Machine

open Sys2Proof

variable {s : State}

/-- What a cold start starts from: the clock and the alarm list empty, the straps sampled. -/
def State.cold (s : State) (straps : BitVec 3) (fast : Bool) : State :=
  { s with
    uptime := 0
    alarms := { s.alarms with records := [], full := false }
    port := { s.port with plantAddr := 48 + straps.toNat, fastLine := fast } }

theorem coldStart_eq (s : State) (kind : StartKind) (straps : BitVec 3) (fast : Bool) :
    s.coldStart kind straps fast = (s.cold straps fast).startUp kind := rfl

theorem exec_cold (s : State) (straps : BitVec 3) (fast reset : Bool) :
    exec (if reset then Instr.resetPin straps fast else .powerOn straps fast) s
      = .next (s.coldStart (if reset then .resetPin else .powerOn) straps fast) := by
  cases reset
  · exact (rfl : exec (.powerOn straps fast) s = .next (s.coldStart .powerOn straps fast))
  · exact (rfl : exec (.resetPin straps fast) s = .next (s.coldStart .resetPin straps fast))

/-- Settles O8: the start by its stages, the pool's pass and the line arbiter at rest, and the alarm list by the acts of a start. -/
theorem powerOnLoadsTheImage : Obligations.PowerOnLoadsTheImage := by
  intro s straps fast reset c img hsize
  obtain ⟨-, line, port, -⟩ := startUp_told (s.cold straps fast) (if reset then .resetPin else .powerOn) hsize
  obtain ⟨uptime, stations, points, -, -, -, -, -, pairs, -, hand⟩ :=
    startUp_banks (s.cold straps fast) (if reset then .resetPin else .powerOn) hsize
  have config := startUp_config (s.cold straps fast) (if reset then .resetPin else .powerOn) hsize
  have started := startUp_startedFrom (s.cold straps fast) (if reset then .resetPin else .powerOn) hsize
  obtain ⟨alarms, full⟩ := startUp_alarms (s.cold straps fast) (if reset then .resetPin else .powerOn) hsize (Nat.zero_le 48)
  refine ⟨_, exec_cold s straps fast reset, ?_⟩
  rw [coldStart_eq]
  generalize (s.cold straps fast).startUp (if reset then .resetPin else .powerOn) = t at *
  have active : t.flc.active = img.roster := by rw [line]; rfl
  have staged : t.flc.staged = none := by rw [line]; rfl
  have round : t.flc.round = 0 := by rw [line]; rfl
  have unfull : t.alarms.full = false := Bool.eq_false_iff.mpr fun h => Bool.false_ne_true (full h)
  refine ⟨uptime, config, active, staged, pairs, hand, stations, points, round, ?_, ?_, ?_, ?_, ?_, ?_, ?_, ?_, ?_, started, alarms,
    unfull⟩
  all_goals rw [port]; rfl

end Sys2Proof.Machine
end

section
/-! A point that goes STALE at its timer's expiry (R38), and what the tables make of a reading, of its sequence number and of an
ammonia value (R36, R33, R48). -/

namespace Sys2Proof.Machine

open Sys2Proof

variable {s : State} {p : Nat}

/-! ### The stale timer (R38) -/

/-- A point that the table does not hold has no timer. -/
theorem lt_length_of_staleDeadline {d : Nat} (h : (s.point p).staleDeadline = some d) : p < s.points.length := by
  refine Nat.lt_of_not_le fun hp => ?_
  have blank : s.point p = Point.start .blank := by
    unfold State.point
    rw [List.getD_eq_getElem?_getD, List.getElem?_eq_none hp]
    rfl
  rw [blank] at h
  cases h

/-- R38: POINT_SUSPECT is cleared, and POINT_STALE raised where the alarm flag is set, with the value the point keeps. -/
theorem pointStale_eq {x : Point} (h : p < s.points.length) (hx : s.point p = x) : s.pointStale p
    = let staled := (s.modPoint p Point.staled).clearAlarm .pointSuspect (.point p)
      if x.cfg.alarm then staled.raiseAlarm .pointStale (.point p) (some x.value) else staled := by
  have record : ((s.modPoint p Point.staled).clearAlarm .pointSuspect (.point p)).point p = x.staled := by
    rw [(clearAlarm_only _ _ _).beyond.point_eq, State.point_modPoint_same h, hx]
  change (if (((s.modPoint p Point.staled).clearAlarm .pointSuspect (.point p)).point p).cfg.alarm then
    ((s.modPoint p Point.staled).clearAlarm .pointSuspect (.point p)).raiseAlarm .pointStale (.point p)
      (some (((s.modPoint p Point.staled).clearAlarm .pointSuspect (.point p)).point p).value) else _) = _
  rw [record]
  rfl

/-- R38: a stale timer that is due, of a point that can become STALE. -/
theorem exec_staleTimerExpiry {d : Nat} (hd : (s.point p).staleDeadline = some d) (hdue : d ≤ s.uptime)
    (hc : (s.point p).validity = .good ∨ (s.point p).validity = .suspect) :
    exec (.staleTimerExpiry p) s = .next ((s.pointStale p).notifyPoint p false).finish := by
  have due : s.due (s.point p).staleDeadline = true := by
    rw [hd]
    exact decide_eq_true hdue
  have expires : s.staleExpiry p = (s.pointStale p).notifyPoint p false := if_pos ((current_iff _).mpr hc)
  rw [← expires]
  exact congrArg Host.Outcome.next (if_pos due)

/-- Settles O56: the point alone is changed, its consumers follow, then the arbiter. -/
theorem pointsGoStale : Obligations.PointsGoStale := by
  intro s p d hd hdue hc
  have hp : p < s.points.length := lt_length_of_staleDeadline hd
  have told : (s.modPoint p Point.staled).Beyond ((s.pointStale p).notifyPoint p false) :=
    (beyond_follows _).notifyPoint (pointStale_beyond s p) p false
  have config : ((s.pointStale p).notifyPoint p false).config = s.config :=
    (config_plant _).notifyPoint ((config_plant _).pointStale rfl p) p false
  have settled := Settled.finish ((s.pointStale p).notifyPoint p false)
  have point (q : Nat) : ((s.pointStale p).notifyPoint p false).finish.point q = (s.modPoint p Point.staled).point q :=
    (point_congr settled.points q).trans (told.point_eq q)
  obtain ⟨⟨-, stations, -⟩, -⟩ := told
  refine ⟨_, exec_staleTimerExpiry hd hdue hc, settled.config.trans config, settled.stations.trans stations,
    (point p).trans (State.point_modPoint_same hp _), fun q hq => ?_, ?_⟩
  · rw [point, State.point_modPoint_ne hq]
    exact ⟨rfl, rfl⟩
  · rw [pointStale_eq hp rfl]
    rfl

/-! ### The tables of a reading -/

theorem coe_clampInt (low high : Nat) (n : Int) : (clampInt low high n : Int) = max (low : Int) (min (high : Int) n) := by
  unfold clampInt
  omega

/-- Table 17: a number that neither repeats nor follows the last leaves a gap, counted modulo 256. -/
theorem judgeSeq_gap {k n : Nat} (hk : k < 256) (hagain : n ≠ k) (hnext : n ≠ (k + 1) % 256) :
    judgeSeq (some k) n = .gap (((n : Int) - k - 1) % 256).toNat := by
  have size : (n + 512 - k - 1) % 256 = (((n : Int) - k - 1) % 256).toNat := by omega
  refine (if_neg hagain).trans ((if_neg hnext).trans ?_)
  rw [size]

/-- Table 23: between the two limits the band moves by where it stands. -/
theorem bandAfter_between {c : LaneCfg} {v : Nat} (hb : v ≤ c.thresholdB) (ha : c.thresholdA ≤ v + c.hysteresis) :
    bandAfter c .low v = (if c.thresholdA < v then .mid else .low) ∧ bandAfter c .mid v = .mid
      ∧ bandAfter c .high v = if v + c.hysteresis < c.thresholdB then .mid else .high := by
  have between (band : Band) := (if_neg (Nat.not_lt.mpr hb)).trans (if_neg (Nat.not_lt.mpr ha)) (a := bandAfter c band v)
  exact ⟨between .low, between .mid, between .high⟩

/-- Settles O38: Table 3's range at the end of R36, Table 17 and Table 23 row by row. -/
theorem readingsAreJudgedByTheTables : Obligations.ReadingsAreJudgedByTheTables := by
  refine ⟨fun c k r hk _ => ?_, fun n => rfl, fun k n hk hn => ?_, ?_⟩
  · have top : pointTop c = kindTop k := by
      unfold pointTop
      rw [hk]
    unfold readingValue
    cases r.tag <;> simp [coe_clampInt, top]
  · refine ⟨fun h => if_pos h, fun h => ?_, fun hagain hnext => judgeSeq_gap hk hagain hnext⟩
    exact (if_neg (by omega)).trans (if_pos h)
  · intro c band v _ _ a b
    have low : (v : Int) < a ↔ v + c.hysteresis < c.thresholdA := by omega
    have high : (v : Int) < b ↔ v + c.hysteresis < c.thresholdB := by omega
    refine ⟨fun h => if_pos h, fun hb ha => (if_neg (Nat.not_lt.mpr hb)).trans (if_pos (low.mp ha)), fun hb ha => ?_⟩
    obtain ⟨atLow, atMid, atHigh⟩ := bandAfter_between hb (Nat.not_lt.mp (mt low.mpr (not_lt.mpr ha)))
    simp only [high]
    refine ⟨?_, ?_, ?_⟩ <;> rintro rfl
    · exact atLow
    · exact atMid
    · exact atHigh

end Sys2Proof.Machine
end

section
/-! The checks of the configuration writes, each said once as the rule says it (R25, R29, R43, R47, R51, R74, R87, R108, R127). -/

namespace Sys2Proof.Machine

open Sys2Proof

variable {s : State}

/-! ### What the checks are made of -/

theorem within_iff (low high n : Nat) : within low high n = true ↔ low ≤ n ∧ n ≤ high := by
  simp [within]

/-- A record that need not be checked unless it is configured. -/
theorem unless_configured_iff (configured ok : Bool) : (!configured || ok) = true ↔ (configured = true → ok = true) := by
  cases configured <;> simp

/-- A limit that a stricter one makes idle. -/
theorem below_iff {a m n : Nat} {rest : Prop} (h : m ≤ n + 1) : (a ≤ n ∧ a < m ∧ rest) ↔ (a < m ∧ rest) :=
  and_iff_right_of_imp fun ⟨ha, _⟩ => by omega

/-- A named station is configured and of a role. -/
def State.StationIs (s : State) (i : Nat) (r : Role) : Prop :=
  i < 48 ∧ (s.station i).cfg.configured = true ∧ (s.station i).cfg.role = r

/-- A named point is of a kind. -/
def State.PointIs (s : State) (p : Nat) (k : Kind) : Prop := p < 128 ∧ (s.point p).cfg.kind = .val k

theorem stationIs_iff (i : Nat) (r : Role) :
    (decide (i < 48) && (s.station i).cfg.configured && (s.station i).cfg.role == r) = true ↔ s.StationIs i r := by
  simp [State.StationIs, and_assoc]

theorem pointIs_iff (p : Nat) (k : Kind) : s.pointIs p k = true ↔ s.PointIs p k := by
  simp [State.pointIs, State.PointIs]

theorem optPointIs_iff (p : Option Nat) (k : Kind) : s.optPointIs p k = true ↔ ∀ q ∈ p, s.PointIs q k := by
  cases p <;> simp [State.optPointIs, pointIs_iff]

/-- No other configured record of a bank holds what a record is to hold. -/
theorem all_others_iff (n i : Nat) (configured free : Nat → Bool) :
    ((List.range n).all fun j => j == i || !configured j || free j) = true
      ↔ ∀ j < n, j ≠ i → configured j = true → free j = true := by
  simp only [List.all_eq_true, List.mem_range, Bool.or_eq_true, beq_iff_eq, Bool.not_eq_true']
  refine forall₂_congr fun j _ => ?_
  by_cases hj : j = i <;> cases configured j <;> simp [hj]

theorem all_not_contains_iff (l m : List Nat) : (l.all fun i => !m.contains i) = true ↔ ∀ i ∈ l, i ∉ m := by
  simp

/-! ### Stations and groups (R25, R29) -/

/-- R29, R51: no other configured zone drives one of the stations. -/
theorem notDriven_iff (z : Nat) (sts : List Nat) : s.notDriven z sts = true
    ↔ ∀ y < 24, y ≠ z → (s.zone y).cfg.configured = true → ∀ i ∈ s.boundStations (s.zone y).cfg.valve, i ∉ sts := by
  unfold State.notDriven
  rw [all_others_iff 24 z fun y => (s.zone y).cfg.configured]
  simp only [all_not_contains_iff]

/-- R29: the zones of the group would share no member with another zone. -/
theorem groupFree_iff (g : Nat) (members : List Nat) : s.groupFree g members = true
    ↔ ∀ z < 24, (s.zone z).cfg.configured = true → (s.zone z).cfg.valve = .group g →
      ∀ y < 24, y ≠ z → (s.zone y).cfg.configured = true → ∀ i ∈ s.boundStations (s.zone y).cfg.valve, i ∉ members := by
  simp only [State.groupFree, List.all_eq_true, List.mem_range, Bool.or_eq_true, notDriven_iff, Bool.not_eq_true']
  refine forall₂_congr fun z _ => ?_
  rw [← Bool.not_eq_true, Bool.and_eq_true, beq_iff_eq, ← imp_iff_not_or, and_imp]

/-- R29: the answering member. -/
def AnswersFor (members : List Nat) (answering : Option Nat) : Prop :=
  (answering = none ↔ members = []) ∧ ∀ a ∈ answering, a ∈ members

theorem answersFor_none (members : List Nat) : AnswersFor members none ↔ members.isEmpty = true := by
  simp [AnswersFor]

theorem answersFor_some (members : List Nat) (a : Nat) : AnswersFor members (some a) ↔ members.contains a = true := by
  simp only [AnswersFor, List.contains_iff_mem, reduceCtorEq, false_iff, Option.mem_some_iff, forall_eq']
  exact ⟨fun h => h.2, fun h => ⟨List.ne_nil_of_mem h, h⟩⟩

/-- R29: the four checks. -/
theorem groupOk_iff (g : Nat) (members : List Nat) (answering : Option Nat) : s.groupOk g members answering = true
    ↔ g < 8 ∧ members.length ≤ 8 ∧ (∀ i ∈ members, i < 48 ∧ (s.station i).cfg.configured = true) ∧ members.Nodup
      ∧ AnswersFor members answering ∧ s.groupFree g members = true := by
  unfold State.groupOk
  cases answering <;>
    simp only [answersFor_none, answersFor_some, Bool.and_eq_true, decide_eq_true_eq, List.all_eq_true, and_assoc]

/-! ### Points (R43) -/

/-- R43: a source that is free names a channel of a configured station, and no other point has it. -/
theorem sourceOk_iff (p : Nat) (source : Option PointSource) : s.sourceOk p source = true
    ↔ ∀ src ∈ source, src.station < 48 ∧ (s.station src.station).cfg.configured = true ∧ src.channel < 4
      ∧ ∀ q < 128, q ≠ p → (s.point q).cfg.source ≠ some src := by
  cases source with
  | none => simp [State.sourceOk]
  | some src =>
    simp only [State.sourceOk, Bool.and_eq_true, decide_eq_true_eq, List.all_eq_true, List.mem_range, Bool.or_eq_true,
      beq_iff_eq, bne_iff_ne, Option.mem_some_iff, forall_eq', and_assoc, ← or_iff_not_imp_left]

/-- Table 3: the range of a point lies within that of its kind. -/
theorem rangeOk_iff (c : PointCfg) : (c.kind.listed = true ∧ c.low ≤ c.high ∧ c.high ≤ pointTop c)
    ↔ ∃ k, c.kind = .val k ∧ c.low ≤ c.high ∧ c.high ≤ kindTop k := by
  unfold pointTop
  cases c.kind <;> simp [Coded.listed]

/-- R43: the checks, the range of the point told apart. -/
theorem pointOk_iff (p : Nat) (c : PointCfg) : s.pointOk p c = true ↔ p < 128 ∧ s.sourceOk p c.source = true
    ∧ (c.kind.listed = true ∧ c.low ≤ c.high ∧ c.high ≤ pointTop c) ∧ 1 ≤ c.numerator ∧ c.numerator ≤ 1000
    ∧ 1 ≤ c.denominator ∧ c.denominator ≤ 1000 ∧ -1000 ≤ c.offset ∧ c.offset ≤ 1000 ∧ 2 ≤ c.staleLimit
    ∧ c.staleLimit ≤ 600 ∧ c.band ≤ 65535 ∧ c.forward.listed = true := by
  simp only [State.pointOk, within_iff, Bool.and_eq_true, decide_eq_true_eq]
  tauto

/-! ### Zones (R51) -/

/-- Table 24. -/
theorem zoneRanges_iff (c : ZoneCfg) : zoneRanges c = true
    ↔ -200 ≤ c.offset ∧ c.offset ≤ 200 ∧ c.deadband ≤ 50 ∧ 10 ≤ c.gain ∧ c.gain ≤ 500 ∧ 5 ≤ c.maxStep ∧ c.maxStep ≤ 200
      ∧ c.minPos ≤ c.fallbackPos ∧ c.fallbackPos ≤ c.maxPos ∧ c.maxPos ≤ 1000 ∧ 10 ≤ c.fullOpenAir ∧ c.fullOpenAir ≤ 10000
      ∧ c.mixingFloor ≤ c.fullOpenAir ∧ c.priorityClass ≤ 3 ∧ (c.release = .val .whenDone ∨ c.release = .val .onRequest)
      ∧ 5 ≤ c.trimPeriod ∧ c.trimPeriod ≤ 600 ∧ c.doLowBand ≤ 200 ∧ 60 ≤ c.doLowDelay ∧ c.doLowDelay ≤ 3600 := by
  have release : c.release.listed = true ↔ c.release = .val .whenDone ∨ c.release = .val .onRequest := by
    cases c.release with
    | unlisted => simp [Coded.listed]
    | val r => cases r <;> simp [Coded.listed]
  simp only [zoneRanges, within_iff, release, Bool.and_eq_true, decide_eq_true_eq]
  tauto

theorem bindingOk_station (i : Nat) : s.bindingOk (.station i) = true ↔ s.StationIs i .valve := by
  rw [← stationIs_iff]
  simp [State.bindingOk, and_assoc]

theorem bindingOk_group (g : Nat) : s.bindingOk (.group g) = true ↔ g < 8 ∧ (s.group g).members ≠ []
    ∧ ∀ i ∈ (s.group g).members, (s.station i).cfg.configured = true ∧ (s.station i).cfg.role = .valve := by
  simp [State.bindingOk, and_assoc]

/-- R51: a zone shares its DO point, its valve and the stations it drives with no other configured zone. -/
theorem zoneFree_iff (z : Nat) (c : ZoneCfg) :
    (((List.range 24).all fun y => y == z || !(s.zone y).cfg.configured
        || ((s.zone y).cfg.doPoint != c.doPoint && (s.zone y).cfg.valve != c.valve)) = true
      ∧ s.notDriven z (s.boundStations c.valve) = true)
    ↔ ∀ y < 24, y ≠ z → (s.zone y).cfg.configured = true →
      (s.zone y).cfg.doPoint ≠ c.doPoint ∧ (s.zone y).cfg.valve ≠ c.valve
        ∧ ∀ i ∈ s.boundStations (s.zone y).cfg.valve, i ∉ s.boundStations c.valve := by
  rw [notDriven_iff, all_others_iff 24 z fun y => (s.zone y).cfg.configured]
  simp only [Bool.and_eq_true, bne_iff_ne, ← forall_and, and_assoc]

/-- R51: the checks of a configured record. -/
theorem zoneOk_iff (z : Nat) (c : ZoneCfg) : s.zoneOk z c = true ↔ z < 24 ∧ (c.configured = true →
    zoneRanges c = true ∧ s.PointIs c.doPoint .dissolvedOxygen ∧ (∀ p ∈ c.feedback, s.PointIs p .position)
      ∧ (∀ y < 24, y ≠ z → (s.zone y).cfg.configured = true →
        (s.zone y).cfg.doPoint ≠ c.doPoint ∧ (s.zone y).cfg.valve ≠ c.valve
          ∧ ∀ i ∈ s.boundStations (s.zone y).cfg.valve, i ∉ s.boundStations c.valve)
      ∧ s.bindingOk c.valve = true) := by
  rw [← zoneFree_iff]
  simp only [State.zoneOk, unless_configured_iff, pointIs_iff, optPointIs_iff, Bool.and_eq_true, decide_eq_true_eq]
  tauto

/-! ### Blowers and channels (R74, R108) -/

/-- A configured record drives a station that no other configured record of its bank drives. -/
theorem apart_iff (n i st : Nat) (configured : Nat → Bool) (station : Nat → Nat) :
    ((List.range n).all fun j => j == i || !(configured j && station j == st)) = true
      ↔ ∀ j < n, j ≠ i → configured j = true → station j ≠ st := by
  simp only [Bool.not_and, ← Bool.or_assoc, all_others_iff, Bool.not_eq_true', beq_eq_false_iff_ne]

/-- Table 29. -/
theorem blowerRanges_iff (c : BlowerCfg) : blowerRanges c = true
    ↔ 100 ≤ c.rated ∧ c.rated ≤ 20000 ∧ 300 ≤ c.turndown ∧ c.turndown ≤ 900 ∧ 10 ≤ c.rampTime ∧ c.rampTime ≤ 600
      ∧ 10 ≤ c.runDownTime ∧ c.runDownTime ≤ 300 ∧ 60 ≤ c.minRun ∧ c.minRun ≤ 3600 ∧ 60 ≤ c.minStop ∧ c.minStop ≤ 3600 := by
  simp only [blowerRanges, within_iff, Bool.and_eq_true, and_assoc]

/-- Table 42, and the two rules between its fields. -/
theorem channelRanges_iff (c : ChannelCfg) : channelRanges c = true
    ↔ (c.mode = .val .batch ∨ c.mode = .val .cycle ∨ c.mode = .val .ratio) ∧ c.minLevel ≤ 990 ∧ 1 ≤ c.pauseLimit
      ∧ c.pauseLimit ≤ 60 ∧ 1 ≤ c.target ∧ c.target ≤ 65535 ∧ 1 ≤ c.ratio ∧ c.ratio ≤ 3000 ∧ 1 ≤ c.stormRatio
      ∧ c.stormRatio ≤ 3000 ∧ (c.mode = .val .ratio → c.influentPoint ≠ none)
      ∧ (c.mode = .val .batch → c.autoStart = false) := by
  have mode : c.mode.listed = true ↔ c.mode = .val .batch ∨ c.mode = .val .cycle ∨ c.mode = .val .ratio := by
    cases c.mode with
    | unlisted => simp [Coded.listed]
    | val m => cases m <;> simp [Coded.listed]
  have influent : (c.mode != .val .ratio || c.influentPoint.isSome) = true
      ↔ (c.mode = .val .ratio → c.influentPoint ≠ none) := by
    simp [Option.isSome_iff_ne_none, imp_iff_not_or]
  have start : (!(c.mode == .val .batch && c.autoStart)) = true ↔ (c.mode = .val .batch → c.autoStart = false) := by
    simp [imp_iff_not_or]
  simp only [channelRanges, within_iff, mode, influent, start, Bool.and_eq_true, decide_eq_true_eq, and_assoc]

/-- R74: the checks of a configured record. -/
theorem blowerOk_iff (b : Nat) (c : BlowerCfg) : s.blowerOk b c = true ↔ (c.configured = true →
    blowerRanges c = true ∧ s.StationIs c.station .blower
      ∧ (∀ d < 6, d ≠ b → (s.blower d).cfg.configured = true → (s.blower d).cfg.station ≠ c.station)
      ∧ s.PointIs c.runPoint .runstate) := by
  rw [← apart_iff 6 b c.station fun d => (s.blower d).cfg.configured, ← stationIs_iff, ← pointIs_iff]
  simp only [State.blowerOk, unless_configured_iff, Bool.and_eq_true, and_assoc]

/-- R108: the checks of a configured record. -/
theorem channelOk_iff (i : Nat) (c : ChannelCfg) : s.channelOk i c = true ↔ (c.configured = true →
    channelRanges c = true ∧ s.StationIs c.pump .pump
      ∧ (∀ j < 4, j ≠ i → (s.channel j).cfg.configured = true → (s.channel j).cfg.pump ≠ c.pump)
      ∧ s.PointIs c.volumePoint .volume ∧ (∀ p ∈ c.levelPoint, s.PointIs p .level)
      ∧ ∀ p ∈ c.influentPoint, s.PointIs p .inflow) := by
  rw [← apart_iff 4 i c.pump fun j => (s.channel j).cfg.configured, ← stationIs_iff, ← pointIs_iff, ← optPointIs_iff,
    ← optPointIs_iff]
  simp only [State.channelOk, unless_configured_iff, Bool.and_eq_true, and_assoc]

/-- Settles O41: each check as its rule has it. -/
theorem writesAreCheckedByTheirRules : Obligations.WritesAreCheckedByTheirRules := by
  intro s isKind isRole
  refine ⟨fun p c => ?_, fun l c => ?_, fun z c => ?_, fun b c => ?_, fun c => ?_, fun i c => ?_, fun c => ?_⟩
  · rw [pointOk_iff, sourceOk_iff, rangeOk_iff]
  · simp only [State.laneOk, within_iff, optPointIs_iff, Bool.and_eq_true, decide_eq_true_eq, List.forall_mem_cons,
      List.not_mem_nil, false_implies, implies_true, and_true, and_assoc]
    rfl
  · rw [zoneOk_iff, zoneRanges_iff]
    refine and_congr_right fun _ => imp_congr_right fun _ => and_congr_right fun _ => and_congr_right fun _ =>
      and_congr_right fun _ => and_congr_right fun _ => ?_
    cases c.valve with
    | station i => exact bindingOk_station i
    | group g => exact bindingOk_group g
  · rw [blowerOk_iff, blowerRanges_iff]
    rfl
  · simp only [State.poolOk, within_iff, optPointIs_iff, Bool.and_eq_true, decide_eq_true_eq, and_assoc]
    exact and_congr_right fun _ => and_congr_right fun hup => and_congr_right fun _ => and_congr_right fun _ =>
      and_congr_right fun _ => below_iff (Nat.le_succ_of_le hup)
  · rw [channelOk_iff, channelRanges_iff]
    rfl
  · simp only [State.stormOk, within_iff, optPointIs_iff, Bool.and_eq_true, decide_eq_true_eq, and_assoc]
    exact and_congr_right fun _ => and_congr_right fun hentry => below_iff hentry

end Sys2Proof.Machine
end

section
/-! A configuration write that fails a check or is BUSY (R25, R29, R43, R47, R51, R74, R87, R108, R127), and a GROUP_WRITE that
holds to its checks (R29). -/

namespace Sys2Proof.Machine

open Sys2Proof

variable {s : State} {h : Hdr}

/-! ### Writes that change nothing -/

/-- A request whose handling gives a status alone. -/
theorem exec_status {c : Instr} {q : Request} {status : Status} (hq : c.request = some q) (hs : s.ready) (x : Handled)
    (hh : handle q.hdr q.body (s.addressed q.hdr) = (x.state, some (x.status, x.report)))
    (hx : x = ⟨s.addressed q.hdr, status, []⟩) (hd : status ≠ .done) :
    exec c s = .next ((s.addressed q.hdr).answered q.hdr q.body.code status []) := by
  subst hx
  exact exec_bare hq hs hh hd

/-- R25: a MAP_WRITE that fails a check. -/
theorem handleMapWrite_refused {st addr : Nat} {role : Coded Role} {legacy alarm : Bool}
    (hf : 48 ≤ st ∨ addr = 0 ∨ 111 < addr ∨ role.listed = false
      ∨ ∃ j < 48, j ≠ st ∧ (s.station j).cfg.configured = true ∧ (s.station j).cfg.addr = addr) :
    handleMapWrite st addr role legacy alarm s = s.refused := by
  cases role with
  | unlisted code => rfl
  | val r =>
    refine acceptIf_false (Bool.eq_false_iff.mpr fun hok => ?_) s _
    simp only [Bool.and_eq_true, decide_eq_true_eq, within_iff, addrFree_iff] at hok
    obtain ⟨⟨hst, hlow, hhigh⟩, hfree⟩ := hok
    rcases hf with hf | hf | hf | hf | ⟨j, hj, hne, hc, ha⟩
    · omega
    · omega
    · omega
    · cases hf
    · exact hfree j hj hne hc ha

/-- R29: a GROUP_WRITE that fails a check. -/
theorem groupOk_fails {g : Nat} {members : List Nat} {answering : Option Nat} (hf : 8 ≤ g ∨ 8 < members.length
      ∨ (∃ i ∈ members, 48 ≤ i ∨ (s.station i).cfg.configured = false) ∨ ¬ members.Nodup
      ∨ (answering = none ∧ members ≠ []) ∨ (∃ a ∈ answering, a ∉ members)
      ∨ ∃ z < 24, (s.zone z).cfg.configured = true ∧ (s.zone z).cfg.valve = .group g
        ∧ ∃ y < 24, y ≠ z ∧ (s.zone y).cfg.configured = true ∧ ∃ i ∈ s.boundStations (s.zone y).cfg.valve, i ∈ members) :
    s.groupOk g members answering = false := by
  refine Bool.eq_false_iff.mpr fun hok => ?_
  obtain ⟨hg, hlen, hmembers, hnodup, ⟨hnone, hanswers⟩, hfree⟩ := (groupOk_iff _ _ _).mp hok
  rcases hf with hf | hf | ⟨i, hi, hf⟩ | hf | ⟨ha, hf⟩ | ⟨a, ha, hf⟩ | ⟨z, hz, hc, hv, y, hy, hne, hcy, i, hi, hf⟩
  · omega
  · omega
  · obtain ⟨hlt, hconf⟩ := hmembers i hi
    rcases hf with hf | hf
    · omega
    · rw [hconf] at hf
      cases hf
  · exact hf hnodup
  · exact hf (hnone.mp ha)
  · exact hf (hanswers a ha)
  · exact (groupFree_iff _ _).mp hfree z hz hc hv y hy hne hcy i hi hf

/-- R74: a BLOWER_WRITE is judged BUSY before its other checks. -/
theorem handleBlowerWrite_busy {b : Nat} (hb : b < 6) (c : BlowerCfg) (hw : (s.blower b).writable = false) :
    handleBlowerWrite b c s = s.busy :=
  (if_neg (Nat.not_le.mpr hb)).trans (if_pos (by rw [hw]; rfl))

theorem handleBlowerWrite_refused {b : Nat} {c : BlowerCfg} (hw : (s.blower b).writable = true)
    (hok : s.blowerOk b c = false) : handleBlowerWrite b c s = s.refused := by
  unfold handleBlowerWrite
  rw [hw, acceptIf_false hok]
  exact ite_self _

/-- R74: the states that take no write. -/
theorem not_writable_of_state {x : Blower} (hc : x.cfg.configured = true)
    (hx : x.state ∈ [.starting, .running, .stopping, .localMode]) : x.writable = false := by
  simp only [List.mem_cons, List.not_mem_nil, or_false] at hx
  unfold Blower.writable
  rcases hx with hx | hx | hx | hx <;> rw [hc, hx] <;> rfl

theorem handleChannelWrite_busy {i : Nat} (hi : i < 4) (c : ChannelCfg) (hd : s.dormant i = false)
    (hst : (s.channel i).state ≠ .disabled) : handleChannelWrite i c s = s.busy :=
  (if_neg (Nat.not_le.mpr hi)).trans ((if_neg (Bool.eq_false_iff.mp hd)).trans (if_pos hst))

theorem handleChannelWrite_refused {i : Nat} {c : ChannelCfg} (hst : (s.channel i).state = .disabled)
    (hok : s.channelOk i c = false) : handleChannelWrite i c s = s.refused := by
  unfold handleChannelWrite
  rw [if_neg (not_not.mpr hst), acceptIf_false hok, ite_self, ite_self]

/-- Settles O40: the handling of each write gives REFUSED or BUSY and the state it was taken in. -/
theorem failingWritesChangeNothing : Obligations.FailingWritesChangeNothing := by
  intro s h hs no
  have refuses {c : Instr} {q : Request} (hq : c.request = some q) (x : Handled)
      (hh : handle q.hdr q.body (s.addressed q.hdr) = (x.state, some (x.status, x.report)))
      (hx : x = (s.addressed q.hdr).refused) := exec_status hq hs x hh hx (by decide)
  have busy {c : Instr} {q : Request} (hq : c.request = some q) (x : Handled)
      (hh : handle q.hdr q.body (s.addressed q.hdr) = (x.state, some (x.status, x.report)))
      (hx : x = (s.addressed q.hdr).busy) := exec_status hq hs x hh hx (by decide)
  refine ⟨fun st addr role legacy alarm hf => ?_, fun g members answering hf => ?_, fun p c hf => ?_, fun l c hf => ?_,
    fun z c hf => ?_, fun b c hw hf => ?_, fun b hb c hc hst => ?_, fun c hf => ?_, fun i c hst hf => ?_,
    fun i hi c hd hst => ?_, fun c hf => ?_⟩
  · exact refuses (q := ⟨h, .mapWrite st addr role legacy alarm⟩) rfl (handleMapWrite st addr role legacy alarm _) rfl
      (handleMapWrite_refused hf)
  · exact refuses (q := ⟨h, .groupWrite g members answering⟩) rfl (handleGroupWrite g members answering _) rfl
      (acceptIf_false (groupOk_fails hf) _ _)
  · exact refuses (q := ⟨h, .pointWrite p c⟩) rfl (handlePointWrite p c _) rfl (acceptIf_false hf _ _)
  · exact refuses (q := ⟨h, .laneWrite l c⟩) rfl (handleLaneWrite l c _) rfl (acceptIf_false hf _ _)
  · exact refuses (q := ⟨h, .zoneWrite z c⟩) rfl (handleZoneWrite z c _) rfl (acceptIf_false hf _ _)
  · exact refuses (q := ⟨h, .blowerWrite b c⟩) rfl (handleBlowerWrite b c _) rfl (handleBlowerWrite_refused hw hf)
  · exact busy (q := ⟨h, .blowerWrite b c⟩) rfl (handleBlowerWrite b c _) rfl
      (handleBlowerWrite_busy hb c (not_writable_of_state hc hst))
  · exact refuses (q := ⟨h, .poolWrite c⟩) rfl (handlePoolWrite c _) rfl (acceptIf_false hf _ _)
  · exact refuses (q := ⟨h, .channelWrite i c⟩) rfl (handleChannelWrite i c _) rfl (handleChannelWrite_refused hst hf)
  · exact busy (q := ⟨h, .channelWrite i c⟩) rfl (handleChannelWrite i c _) rfl (handleChannelWrite_busy hi c hd hst)
  · exact refuses (q := ⟨h, .stormWrite c⟩) rfl (handleStormWrite c _) rfl (acceptIf_false hf _ _)

/-! ### An accepted GROUP_WRITE (R29) -/

/-- A request whose checks hold takes effect and is answered DONE. -/
theorem exec_accepted {c : Instr} {q : Request} (hq : c.request = some q) (hs : s.ready) {ok : Bool} {e : State}
    (hh : handle q.hdr q.body (s.addressed q.hdr) = (((s.addressed q.hdr).acceptIf ok e).state,
      some (((s.addressed q.hdr).acceptIf ok e).status, ((s.addressed q.hdr).acceptIf ok e).report)))
    (hok : ok = true) : exec c s = .next (e.answered q.hdr q.body.code .done []) := by
  subst hok
  exact exec_done hq hs hh

/-- R29: the group's new entry stands, then the passages end, then the zones judge. -/
theorem rewriteGroup_eq (s : State) (g : Nat) (members : List Nat) (answering : Option Nat) :
    s.rewriteGroup g members answering
      = ({ s with groups := s.groups.set g ⟨members, answering⟩ } : State).endLostPassages.rejudgeZones := by
  rw [List.set_eq_modify]
  rfl

/-- Settles O17: the checks, the effect, and what the passages and the zones leave alone. -/
theorem groupWriteReplacesTheGroup : Obligations.GroupWriteReplacesTheGroup := by
  refine ⟨fun s h g members answering hs hg hlen hmembers hnodup hnone hanswers hfree => ?_, fun s => ?_, fun s => rfl⟩
  · let written : State := { s.addressed h with groups := s.groups.set g ⟨members, answering⟩ }
    have ok : (s.addressed h).groupOk g members answering = true :=
      (groupOk_iff _ _ _).mpr ⟨hg, hlen, hmembers, hnodup, ⟨hnone, hanswers⟩, (groupFree_iff _ _).mpr hfree⟩
    have accepted : exec (.groupWrite h g members answering) s
        = .next (written.endLostPassages.rejudgeZones.answered h 5 .done []) := by
      refine (exec_accepted (c := .groupWrite h g members answering) rfl hs rfl ok).trans ?_
      rw [rewriteGroup_eq]
      rfl
    have own : written.endLostPassages.rejudgeZones.port.own = (s.addressed h).port.own :=
      (ownPort_effects _).toBlocks.rejudgeZones ((ownPort_effects _).toBlocks.endLostPassages (s := written) rfl)
    have config : written.endLostPassages.rejudgeZones.config = written.config :=
      (config_plant _).rejudgeZones ((config_plant _).endLostPassages rfl)
    obtain ⟨⟨-, stations, groups, -⟩, -⟩ :=
      (beyond_follows written).rejudgeZones ((beyond_follows written).endLostPassages (.refl _))
    have settled := Settled.answered written.endLostPassages.rejudgeZones h 5 .done []
    exact ⟨_, accepted, answered_replied own 5 .done [], settled.groups.trans groups, settled.stations.trans stations,
      settled.config.trans config, rfl⟩
  · refine congrArg (fun f => (s.hand.map Passage.target).foldl f s) (funext fun u => funext fun target => ?_)
    obtain ⟨kind, index⟩ := target
    cases kind <;> rfl

end Sys2Proof.Machine
end

section
/-! An accepted POINT_WRITE (R43): what becomes of the point, and the alarms and events in their order. -/

namespace Sys2Proof.Machine

open Sys2Proof

variable {s : State} {p : Nat} {c : PointCfg}

/-! ### The records -/

/-- R43: the source, the kind and the override stay. -/
def SameSource (c d : PointCfg) : Prop :=
  c.source = d.source ∧ c.kind = d.kind ∧ c.numerator = d.numerator ∧ c.denominator = d.denominator ∧ c.offset = d.offset

/-- R43: the record under its new configuration, before it is judged. -/
def Point.written (c : PointCfg) (x : Point) : Point :=
  { x with cfg := c, lastForwarded := if c.forward = x.cfg.forward ∧ c.band = x.cfg.band then x.lastForwarded else none }

/-- R43: a running stale timer is rerun from the last accepted reading. -/
def Point.rerun (x : Point) : Point :=
  { x with staleDeadline := if x.staleDeadline.isSome then x.lastTime.map (· + x.cfg.staleLimit) else none }

/-- R37: the record of a point whose value lies outside plausibility. -/
def Point.ranged (x : Point) : Point := { x with validity := .suspect, suspectCause := some .range, fresh := false }

/-- R43: the age of the last accepted reading has reached the stale limit. -/
def Point.Aged (x : Point) (now : Nat) : Prop :=
  (x.validity = .good ∨ x.validity = .suspect) ∧ ∃ d ∈ x.lastTime, d + x.cfg.staleLimit ≤ now

/-- R43: the point is GOOD and its value lies outside plausibility. -/
def Point.Outside (x : Point) : Prop := x.validity = .good ∧ (x.value < x.cfg.low ∨ x.cfg.high < x.value)

theorem aged_iff (x : Point) : (x.current && s.lasted x.lastTime x.cfg.staleLimit) = true ↔ x.Aged s.uptime := by
  unfold Point.Aged State.lasted
  cases x.lastTime <;> simp [current_iff]

theorem outside_iff (x : Point) : (x.validity = .good ∧ ¬ plausible x.cfg x.value) ↔ x.Outside := by
  rw [Bool.not_eq_true, plausible_false_iff]
  rfl

/-! ### The judgement under the new figures -/

/-- R43: a point that is too old becomes STALE. -/
theorem rejudgePoint_aged (h : (s.point p).Aged s.uptime) : s.rejudgePoint p = (s.pointStale p).notifyPoint p false :=
  if_pos ((aged_iff _).mpr h)

/-- R43: a GOOD point whose value is no longer plausible becomes SUSPECT. -/
theorem rejudgePoint_outside (h : ¬ (s.point p).Aged s.uptime) (ho : (s.point p).Outside) :
    s.rejudgePoint p = ((s.modPoint p Point.rerun).pointOutOfRange p).notifyPoint p false :=
  (if_neg (mt (aged_iff _).mp h)).trans (if_pos ((outside_iff _).mpr ho))

/-- R43: any other point only has its timer rerun. -/
theorem rejudgePoint_within (h : ¬ (s.point p).Aged s.uptime) (ho : ¬ (s.point p).Outside) :
    s.rejudgePoint p = s.modPoint p Point.rerun :=
  (if_neg (mt (aged_iff _).mp h)).trans (if_neg (mt (outside_iff _).mp ho))

/-- R44: a change of the alarm flag changes the alarm list alone. -/
theorem pointFlagChange_only (s : State) (p : Nat) (old new : Bool) : AlarmsOnly s (s.pointFlagChange p old new) := by
  have stale := ite_keeps (P := AlarmsOnly s) (c := (s.point p).validity = .stale)
    (raiseAlarm_only s .pointStale (.point p) (some (s.point p).value)) (.refl s)
  exact ite_keeps (.refl s) (ite_keeps (ite_keeps (stale.trans (raiseAlarm_only _ _ _ _)) stale)
    ((clearAlarm_only _ _ _).trans (clearAlarm_only _ _ _)))

/-- R44: the flag is set: the present state of the point is told. -/
theorem pointFlagChange_set {x : Point} (hx : s.point p = x) : s.pointFlagChange p false true
    = if x.validity = .stale then s.raiseAlarm .pointStale (.point p) (some x.value)
      else if x.validity = .suspect ∧ x.suspectCause = some .range then
        s.raiseAlarm .pointSuspect (.point p) (some x.value)
      else s := by
  subst hx
  change (if (s.point p).validity = .suspect ∧ (s.point p).suspectCause = some .range then _ else _) = _
  by_cases hs : (s.point p).validity = .stale
  · rw [if_neg (by simp [hs]), if_pos hs, if_pos hs]
  · rw [if_neg hs, if_neg hs]

/-! ### The ways of a write -/

/-- R43: the point under its new configuration. -/
def State.writtenPoint (s : State) (p : Nat) (c : PointCfg) : State := s.modPoint p (Point.written c)

/-- R44: its alarm flag has been judged. -/
def State.flaggedPoint (s : State) (p : Nat) (c : PointCfg) : State :=
  (s.writtenPoint p c).pointFlagChange p (s.point p).cfg.alarm c.alarm

theorem writtenPoint_eq (s : State) (p : Nat) (c : PointCfg) : s.writtenPoint p c = s.modPoint p fun x => { x with
    cfg := c,
    lastForwarded := if c.forward = (s.point p).cfg.forward ∧ c.band = (s.point p).cfg.band then x.lastForwarded else none } :=
  modPoint_congr rfl

/-- R43: a point that moves to NONE. -/
theorem rewritePoint_moved (h : ¬ SameSource c (s.point p).cfg) : s.rewritePoint p c
    = if (s.point p).validity = .none then (s.writtenPoint p c).pointNone p
      else ((s.writtenPoint p c).pointNone p).notifyPoint p false := by
  rw [writtenPoint_eq]
  refine if_pos ?_
  simpa only [SameSource, not_and_or] using h

/-- R43: a point that is judged again. -/
theorem rewritePoint_kept (h : SameSource c (s.point p).cfg) : s.rewritePoint p c = (s.flaggedPoint p c).rejudgePoint p := by
  rw [State.flaggedPoint, writtenPoint_eq]
  refine if_neg ?_
  simpa only [SameSource, ← not_and_or, not_not] using h

theorem flaggedPoint_beyond (s : State) (p : Nat) (c : PointCfg) : (s.writtenPoint p c).Beyond (s.flaggedPoint p c) :=
  (pointFlagChange_only _ _ _ _).beyond

theorem flaggedPoint_point (h : p < s.points.length) : (s.flaggedPoint p c).point p = (s.point p).written c :=
  ((flaggedPoint_beyond s p c).point_eq p).trans (State.point_modPoint_same h _)

/-- What a write keeps, given the point's new record. -/
theorem PointBlocks.rewritePoint {P : State → Prop} (hP : PointBlocks P) (h : P (s.writtenPoint p c)) :
    P (s.rewritePoint p c) := by
  by_cases hc : SameSource c (s.point p).cfg
  · rw [rewritePoint_kept hc]
    exact hP.rejudgePoint (hP.pointFlagChange h p _ _) p
  · rw [rewritePoint_moved hc]
    exact ite_keeps (hP.pointNone h p) (hP.notifyPoint (hP.pointNone h p) p false)

theorem rewritePoint_config (s : State) (p : Nat) (c : PointCfg) : (s.rewritePoint p c).config
    = { s.config with points := s.config.points.modify p fun _ => c } :=
  (config_plant _).rewritePoint
    (congrArg (fun l => { s.config with points := l })
      (map_modify_const Point.cfg (f := Point.written c) (fun _ => rfl) s.points p))

theorem rewritePoint_stays (s : State) (p : Nat) (c : PointCfg) : s.Stays (s.rewritePoint p c) :=
  (stays_pointBlocks s).rewritePoint (.refl s)

/-! ### The point after a write -/

theorem flaggedPoint_length (h : p < s.points.length) (c : PointCfg) : p < (s.flaggedPoint p c).points.length := by
  rw [(flaggedPoint_beyond s p c).2]
  simpa [State.writtenPoint] using h

/-- R44: a change of the alarm flag does not age the point. -/
theorem flaggedPoint_aged_iff (h : p < s.points.length) : ((s.flaggedPoint p c).point p).Aged (s.flaggedPoint p c).uptime
    ↔ ((s.point p).written c).Aged s.uptime := by
  obtain ⟨⟨uptime, -⟩, -⟩ := flaggedPoint_beyond s p c
  rw [flaggedPoint_point h, uptime]
  rfl

/-- R44: the alarm flag, judged by the record as it was. -/
theorem flaggedPoint_eq {x : Point} {written : State} (h : p < s.points.length) (hx : s.point p = x)
    (hw : s.writtenPoint p c = written) : s.flaggedPoint p c
    = if c.alarm = x.cfg.alarm then written
      else if c.alarm = false then (written.clearAlarm .pointStale (.point p)).clearAlarm .pointSuspect (.point p)
      else if x.validity = .stale then written.raiseAlarm .pointStale (.point p) (some x.value)
      else if x.validity = .suspect ∧ x.suspectCause = some .range then
        written.raiseAlarm .pointSuspect (.point p) (some x.value)
      else written := by
  subst hx hw
  by_cases hsame : c.alarm = (s.point p).cfg.alarm
  · rw [if_pos hsame]
    exact if_pos hsame.symm
  · rw [if_neg hsame]
    cases hnew : c.alarm with
    | false =>
      rw [if_pos rfl]
      exact (if_neg (Ne.symm hsame)).trans (if_neg (by rw [hnew]; decide))
    | true =>
      have hold : (s.point p).cfg.alarm = false := by
        cases hx : (s.point p).cfg.alarm with
        | false => rfl
        | true => exact absurd (hnew.trans hx.symm) hsame
      rw [if_neg (by decide), State.flaggedPoint, hnew, hold]
      exact pointFlagChange_set (s := s.writtenPoint p c) (x := (s.point p).written c) (State.point_modPoint_same h _)

/-- R43: the record of a point that has moved to NONE. -/
theorem rewritePoint_point_moved (hp : p < s.points.length) (h : ¬ SameSource c (s.point p).cfg) :
    (s.rewritePoint p c).point p = ((s.point p).written c).toNone := by
  have none := pointNone_beyond (s.writtenPoint p c) p
  have moved : ((s.writtenPoint p c).modPoint p Point.toNone).Beyond (s.rewritePoint p c) := by
    rw [rewritePoint_moved h]
    exact ite_keeps none ((beyond_follows _).notifyPoint none p false)
  rw [moved.point_eq, State.writtenPoint, State.modPoint_modPoint, State.point_modPoint_same hp]
  rfl

/-- R43: a point that ages under its new stale limit. -/
theorem rewritePoint_aged (hp : p < s.points.length) (h : SameSource c (s.point p).cfg)
    (ha : ((s.point p).written c).Aged s.uptime) :
    s.rewritePoint p c = ((s.flaggedPoint p c).pointStale p).notifyPoint p false
      ∧ (s.rewritePoint p c).point p = ((s.point p).written c).staled := by
  have rewritten : s.rewritePoint p c = ((s.flaggedPoint p c).pointStale p).notifyPoint p false := by
    rw [rewritePoint_kept h, rejudgePoint_aged ((flaggedPoint_aged_iff hp).mpr ha)]
  have told := (beyond_follows _).notifyPoint (pointStale_beyond (s.flaggedPoint p c) p) p false
  refine ⟨rewritten, ?_⟩
  rw [rewritten, told.point_eq, State.point_modPoint_same (flaggedPoint_length hp c), flaggedPoint_point hp]

/-- R43: a point whose value is not plausible under its new range. -/
theorem rewritePoint_outside (hp : p < s.points.length) (h : SameSource c (s.point p).cfg)
    (ha : ¬ ((s.point p).written c).Aged s.uptime) (ho : ((s.point p).written c).Outside) :
    s.rewritePoint p c = (((s.flaggedPoint p c).modPoint p Point.rerun).pointOutOfRange p).notifyPoint p false
      ∧ (s.rewritePoint p c).point p = ((s.point p).written c).rerun.ranged := by
  have rewritten : s.rewritePoint p c
      = (((s.flaggedPoint p c).modPoint p Point.rerun).pointOutOfRange p).notifyPoint p false := by
    rw [rewritePoint_kept h, rejudgePoint_outside (mt (flaggedPoint_aged_iff hp).mp ha)]
    rw [flaggedPoint_point hp]
    exact ho
  have told := (beyond_follows _).notifyPoint (pointOutOfRange_beyond ((s.flaggedPoint p c).modPoint p Point.rerun) p) p false
  refine ⟨rewritten, ?_⟩
  rw [rewritten, told.point_eq, State.modPoint_modPoint, State.point_modPoint_same (flaggedPoint_length hp c),
    flaggedPoint_point hp]
  rfl

/-- R43: a point that stays as it is judged. -/
theorem rewritePoint_within (hp : p < s.points.length) (h : SameSource c (s.point p).cfg)
    (ha : ¬ ((s.point p).written c).Aged s.uptime) (ho : ¬ ((s.point p).written c).Outside) :
    s.rewritePoint p c = (s.flaggedPoint p c).modPoint p Point.rerun
      ∧ (s.rewritePoint p c).point p = ((s.point p).written c).rerun := by
  have rewritten : s.rewritePoint p c = (s.flaggedPoint p c).modPoint p Point.rerun := by
    rw [rewritePoint_kept h, rejudgePoint_within (mt (flaggedPoint_aged_iff hp).mp ha)]
    rw [flaggedPoint_point hp]
    exact ho
  refine ⟨rewritten, ?_⟩
  rw [rewritten, State.point_modPoint_same (flaggedPoint_length hp c), flaggedPoint_point hp]

/-- Settles O18: the point's new record in each of the four ways of a write, then its alarms and events in their order. -/
theorem pointWriteRejudgesThePoint : Obligations.PointWriteRejudgesThePoint := by
  intro s h p c hs _ hok x keep last rerun aged outside
  let a := s.addressed h
  have accepted : exec (.pointWrite h p c) s = .next ((a.rewritePoint p c).answered h 6 .done []) :=
    exec_accepted (c := .pointWrite h p c) rfl hs rfl hok
  have settled := Settled.answered (a.rewritePoint p c) h 6 .done []
  have own : (a.rewritePoint p c).port.own = a.port.own := (ownPort_effects _).rewritePoint rfl p c
  obtain ⟨-, stations, -⟩ := rewritePoint_stays a p c
  refine ⟨_, accepted, answered_replied own 6 .done [], settled.stations.trans stations,
    settled.config.trans (rewritePoint_config a p c), fun hp => ?_, fun hp => ?_⟩
  · rw [point_congr settled.points]
    refine ⟨fun hk => ?_, fun hk ha => ?_, fun hk ha ho => ?_, fun hk ha ho => ?_⟩
    · exact rewritePoint_point_moved (s := a) hp hk
    · exact (rewritePoint_aged (s := a) hp hk ha).2
    · exact (rewritePoint_outside (s := a) hp hk ha ho).2
    · exact (rewritePoint_within (s := a) hp hk ha ho).2
  · intro answers written noned flagged staled reran ranged
    have answered {u : State} (hu : a.rewritePoint p c = u) : answers u :=
      congrArg (fun v : State => v.answered h 6 .done []) hu
    have wrote : a.writtenPoint p c = written := modPoint_congr rfl
    have flags : a.flaggedPoint p c = flagged := flaggedPoint_eq (s := a) hp rfl wrote
    have length : p < flagged.points.length := flags ▸ flaggedPoint_length (s := a) hp c
    have record : flagged.point p = x.written c := flags ▸ flaggedPoint_point (s := a) hp
    have rerunning : flagged.modPoint p Point.rerun = reran := by
      refine modPoint_congr ?_
      rw [record]
      rfl
    refine ⟨fun hk => answered ?_, fun hk ha => answered ?_, fun hk ha ho => answered ?_, fun hk ha ho => answered ?_⟩
    · rw [rewritePoint_moved (s := a) hk, wrote]
      rfl
    · rw [(rewritePoint_aged (s := a) hp hk ha).1, flags, pointStale_eq length record]
      rfl
    · have reranRecord : reran.point p = (x.written c).rerun := by
        rw [← rerunning, State.point_modPoint_same length, record]
      have reranLength : p < reran.points.length := by
        simpa [reran] using length
      rw [(rewritePoint_outside (s := a) hp hk ha ho).1, flags, rerunning, pointOutOfRange_eq reranLength reranRecord]
      rfl
    · rw [(rewritePoint_within (s := a) hp hk ha ho).1, flags, rerunning]

end Sys2Proof.Machine
end

section
/-! A RESTART at the end of its DONE. -/

namespace Sys2Proof.Machine

open Sys2Proof

/-- What a RESTART starts from: each record in RAISED_UNACK begins a fresh wait. -/
def State.rewaited (s : State) : State :=
  s.modAlarms fun a => { a with records := a.records.map fun (r : AlarmRecord) => r.restarted s.uptime }

theorem warmStart_eq (s : State) : s.warmStart = s.rewaited.startUp .restart := rfl

theorem exec_plantFrameSent_restart {s : State} {r : Reply} (htx : s.port.tx = some (.reply r)) (hcode : r.code = 44)
    (hdone : r.status = .done) : exec .plantFrameSent s = .next s.warmStart := by
  have restart : (TxFrame.reply r).restartDone = true := by simp [TxFrame.restartDone, hcode, hdone]
  have ends : s.frameSent = s.warmStart := by
    unfold State.frameSent
    rw [htx]
    exact if_pos restart
  exact congrArg Host.Outcome.next ends

/-- Settles O9: a warm start is the start of a cold one, on the records kept. -/
theorem restartTakesEffectWhenItsReplyIsSent : Obligations.RestartTakesEffectWhenItsReplyIsSent := by
  intro s r img htx hcode hdone hsize
  obtain ⟨-, line, port, -⟩ := startUp_told s.rewaited .restart hsize
  obtain ⟨uptime, stations, points, -, -, -, -, -, pairs, -, hand⟩ := startUp_banks s.rewaited .restart hsize
  have config := startUp_config s.rewaited .restart hsize
  have started := startUp_startedFrom s.rewaited .restart hsize
  have alarms := startUp_alarms s.rewaited .restart hsize
  refine ⟨_, (exec_plantFrameSent_restart htx hcode hdone).trans (congrArg _ (warmStart_eq s)), ?_⟩
  generalize s.rewaited.startUp .restart = t at *
  have active : t.flc.active = img.roster := by rw [line]; rfl
  have staged : t.flc.staged = none := by rw [line]; rfl
  have round : t.flc.round = 0 := by rw [line]; rfl
  refine ⟨uptime, config, active, staged, pairs, hand, stations, points, round, ?_, ?_, ?_, ?_, ?_, ?_, started, alarms⟩
  all_goals rw [port]; rfl

end Sys2Proof.Machine
end

section
/-! SUPPORT. One zone at a time: what the judgements and the mode changes of a zone leave alone (`ZoneChanges`, `State.OnlyZone`),
what the operands of chapter 3 read, and the zone's own record after each of them. -/

namespace Sys2Proof.Machine

open Sys2Proof

variable {P : State → Prop} {s t u : State} {y z : Nat}

/-! ### What a zone's judgements and mode changes are made of -/

/-- Kept by any change of one zone's record, and by the notices, alarms and express DRIVEs that go with it. -/
structure ZoneChanges (z : Nat) (P : State → Prop) : Prop where
  zone : ∀ {s : State} (f : Zone → Zone), P s → P (s.modZone z f)
  notice : ∀ {s : State} (n : Notice), P s → P (s.offerNotice n)
  express : ∀ {s : State} (e : ExpressEntry), P s → P (s.offerExpress e)
  raise : ∀ {s : State} (code : AlarmCode) (src : Source) (v : Option Nat), P s → P (s.raiseAlarm code src v)
  clear : ∀ {s : State} (code : AlarmCode) (src : Source), P s → P (s.clearAlarm code src)

section
variable (hP : ZoneChanges z P)
include hP

theorem ZoneChanges.setMode (h : P s) (m : ZoneMode) (c : Causes) : P (s.setMode z m c) :=
  ite_keeps (hP.zone _ h) (hP.notice _ (hP.zone _ h))

theorem ZoneChanges.causeAlarms (h : P s) (old new : Causes) (entry : Bool) : P (s.causeAlarms z old new entry) := by
  have alarm {u : State} (hu : P u) (code : AlarmCode) (was is : Bool) : P (u.causeAlarm z code was is entry) :=
    ite_keeps (ite_keeps (hP.raise _ _ _ hu) hu) (hP.clear _ _ hu)
  exact alarm (alarm h _ _ _) _ _ _

theorem ZoneChanges.endAir (h : P s) : P (s.endAir z) := hP.clear _ _ (hP.zone _ h)

theorem ZoneChanges.endDoLow (h : P s) : P (s.endDoLow z) := hP.clear _ _ (hP.zone _ h)

theorem ZoneChanges.judgeAir (h : P s) : P (s.judgeAir z) :=
  ite_keeps h (ite_keeps (ite_keeps (hP.zone _ h) (ite_keeps (hP.raise _ _ _ (hP.zone _ h)) h)) (hP.endAir h))

theorem ZoneChanges.judgeDoLow (h : P s) : P (s.judgeDoLow z) :=
  ite_keeps h (ite_keeps (ite_keeps (hP.zone _ h) (ite_keeps (hP.raise _ _ _ (hP.zone _ h)) h)) (hP.endDoLow h))

theorem ZoneChanges.judgeSetpoint (h : P s) : P (s.judgeSetpoint z) := hP.judgeDoLow (hP.judgeAir h)

theorem ZoneChanges.startTrim (h : P s) : P (s.startTrim z) := hP.zone _ h

theorem ZoneChanges.doJoined (h : P s) (old new : Causes) : P (s.doJoined z old new) := ite_keeps (hP.endDoLow h) h

theorem ZoneChanges.offerFallback (h : P s) : P (s.offerFallback z) := hP.express _ h

theorem ZoneChanges.enterAuto (h : P s) (d : Nat) : P (s.enterAuto z d) := by
  have entered := hP.causeAlarms (hP.setMode (hP.startTrim (hP.zone (fun x => { x with desired := d }) h)) .auto .none)
    (s.zone z).causes .none false
  exact ite_keeps entered (hP.judgeAir entered)

theorem ZoneChanges.enterFallback (h : P s) (c : Causes) (held : Nat) : P (s.enterFallback z c held) := by
  unfold State.enterFallback
  extract_lets x early d placed timed moded aired joined told
  have htimed : P timed := ite_keeps (hP.startTrim (hP.zone _ h)) (hP.zone _ h)
  have hmoded : P moded := hP.setMode htimed _ _
  have haired : P aired := ite_keeps (hP.endAir hmoded) hmoded
  have hjoined : P joined := ite_keeps haired (hP.doJoined haired _ _)
  have htold : P told := hP.causeAlarms hjoined _ _ _
  exact ite_keeps (hP.offerFallback htold) htold

theorem ZoneChanges.enterOff (h : P s) : P (s.enterOff z) :=
  ite_keeps h (hP.endAir (hP.endDoLow (hP.causeAlarms (hP.setMode (hP.zone _ h) .off .none) _ _ _)))

theorem ZoneChanges.leaveOff (h : P s) : P (s.leaveOff z) := ite_keeps (hP.enterAuto h _) (hP.enterFallback h _ _)

theorem ZoneChanges.leaveWaiting (h : P s) : P (s.leaveWaiting z) := ite_keeps (hP.enterAuto h _) (hP.enterFallback h _ _)

end

/-! ### Some zones alone -/

/-- Beside the records of the zones in `Z`, the hand table, the alarm list, the notices and the express queue, nothing has moved
from `s`. -/
structure State.OnlyZones (Z : Set Nat) (s t : State) : Prop where
  others : ∀ y, y ∉ Z → t.zone y = s.zone y
  length : t.zones.length = s.zones.length
  uptime : t.uptime = s.uptime
  stations : t.stations = s.stations
  groups : t.groups = s.groups
  points : t.points = s.points
  lanes : t.lanes = s.lanes
  blowers : t.blowers = s.blowers
  pool : t.pool = s.pool
  channels : t.channels = s.channels
  pairs : t.pairs = s.pairs
  storm : t.storm = s.storm
  port : t.port.own = s.port.own

/-- One zone alone. -/
abbrev State.OnlyZone (z : Nat) (s t : State) : Prop := s.OnlyZones {z} t

variable {Z Y : Set Nat}

theorem State.OnlyZones.refl (Z : Set Nat) (s : State) : s.OnlyZones Z s := by constructor <;> intros <;> rfl

theorem State.OnlyZones.trans (h : s.OnlyZones Z t) (k : t.OnlyZones Z u) : s.OnlyZones Z u where
  others y hy := (k.others y hy).trans (h.others y hy)
  length := k.length.trans h.length
  uptime := k.uptime.trans h.uptime
  stations := k.stations.trans h.stations
  groups := k.groups.trans h.groups
  points := k.points.trans h.points
  lanes := k.lanes.trans h.lanes
  blowers := k.blowers.trans h.blowers
  pool := k.pool.trans h.pool
  channels := k.channels.trans h.channels
  pairs := k.pairs.trans h.pairs
  storm := k.storm.trans h.storm
  port := k.port.trans h.port

theorem State.OnlyZones.mono (h : s.OnlyZones Z t) (sub : Z ⊆ Y) : s.OnlyZones Y t :=
  { h with others := fun y hy => h.others y fun k => hy (sub k) }

theorem zone_congr (h : t.zones = s.zones) (z : Nat) : t.zone z = s.zone z := by
  unfold State.zone
  rw [h]

theorem AlarmsOnly.onlyZones (h : AlarmsOnly s t) (Z : Set Nat) : s.OnlyZones Z t := by
  rw [h.2]
  exact ⟨fun _ _ => rfl, rfl, rfl, rfl, rfl, rfl, rfl, rfl, rfl, rfl, rfl, rfl, rfl⟩

theorem offerNotice_onlyZones (s : State) (n : Notice) (Z : Set Nat) : s.OnlyZones Z (s.offerNotice n) := by
  rw [offerNotice_eq]
  exact ⟨fun _ _ => rfl, rfl, rfl, rfl, rfl, rfl, rfl, rfl, rfl, rfl, rfl, rfl, rfl⟩

theorem offerExpress_onlyZones (s : State) (e : ExpressEntry) (Z : Set Nat) : s.OnlyZones Z (s.offerExpress e) := by
  rw [offerExpress_eq]
  exact ⟨fun _ _ => rfl, rfl, rfl, rfl, rfl, rfl, rfl, rfl, rfl, rfl, rfl, rfl, rfl⟩

theorem State.zone_modZone_same (h : z < s.zones.length) (f : Zone → Zone) : (s.modZone z f).zone z = f (s.zone z) := by
  rw [State.zone_modZone, if_pos ⟨rfl, h⟩]

theorem State.zone_modZone_ne (h : y ≠ z) (f : Zone → Zone) : (s.modZone z f).zone y = s.zone y := by
  rw [State.zone_modZone, if_neg fun k => h k.1.symm]

theorem modZone_onlyZone (s : State) (z : Nat) (f : Zone → Zone) : s.OnlyZone z (s.modZone z f) :=
  ⟨fun _ hy => State.zone_modZone_ne hy f, List.length_modify .., rfl, rfl, rfl, rfl, rfl, rfl, rfl, rfl, rfl, rfl, rfl⟩

theorem onlyZone_changes (z : Nat) (s : State) : ZoneChanges z (s.OnlyZone z) where
  zone f h := h.trans (modZone_onlyZone _ z f)
  notice n h := h.trans (offerNotice_onlyZones _ n _)
  express e h := h.trans (offerExpress_onlyZones _ e _)
  raise _ _ _ h := h.trans ((raiseAlarm_only _ _ _ _).onlyZones _)
  clear _ _ h := h.trans ((clearAlarm_only _ _ _).onlyZones _)

theorem hand_changes (z : Nat) (l : List Passage) : ZoneChanges z (fun s => s.hand = l) where
  zone _ h := h
  notice n h := by rw [offerNotice_eq]; exact h
  express e h := by rw [offerExpress_eq]; exact h
  raise _ _ _ h := (raiseAlarm_only _ _ _ _).hand.trans h
  clear _ _ h := (clearAlarm_only _ _ _).hand.trans h

/-! ### Zones taken one after another -/

section
variable {g : State → Nat → State} (hg : ∀ (u : State) (z : Nat), u.OnlyZone z (g u z))
include hg

theorem foldl_onlyZones (zs : List Nat) (s : State) : s.OnlyZones {y | y ∈ zs} (zs.foldl g s) := by
  induction zs generalizing s with
  | nil => exact .refl _ s
  | cons x xs ih =>
    have first := (hg s x).mono (Y := {y | y ∈ x :: xs}) fun y hy => hy ▸ List.mem_cons_self
    exact first.trans ((ih (g s x)).mono fun y hy => List.mem_cons_of_mem x hy)

/-- A zone's record after all of them is what its own turn makes of a state in which the zone and the rest of the plant still are
as they were. -/
theorem foldl_zone {zs : List Nat} (hn : zs.Nodup) (s : State) (hz : z ∈ zs) :
    ∃ u, s.OnlyZones {z}ᶜ u ∧ (zs.foldl g s).zone z = (g u z).zone z := by
  induction zs generalizing s with
  | nil => cases hz
  | cons x xs ih =>
    obtain ⟨hx, hn⟩ := List.nodup_cons.mp hn
    by_cases same : z = x
    · subst same
      exact ⟨s, .refl _ s, (foldl_onlyZones hg xs (g s z)).others z hx⟩
    · obtain ⟨u, before, after⟩ := ih hn (g s x) ((List.mem_cons.mp hz).resolve_left same)
      refine ⟨u, .trans ((hg s x).mono ?_) before, after⟩
      rintro y rfl
      exact Ne.symm same

end

/-! ### What the operands read -/

theorem targetHealth_congr (hs : t.stations = s.stations) (hg : t.groups = s.groups) (x : Target) :
    t.targetHealth x = s.targetHealth x ∧ t.targetLocal x = s.targetLocal x := by
  unfold State.targetHealth State.targetLocal State.answerer State.readsHealth State.readsLocal State.station State.group
  rw [hs, hg]
  exact ⟨rfl, rfl⟩

theorem setpoint_congr (hl : t.lanes = s.lanes) (hc : (t.zone z).cfg = (s.zone z).cfg) : t.setpoint z = s.setpoint z := by
  unfold State.setpoint State.lane
  rw [hl, hc]

theorem causesNow_congr (hs : t.stations = s.stations) (hg : t.groups = s.groups) (hp : t.points = s.points)
    (hc : (t.zone z).cfg = (s.zone z).cfg) : t.causesNow z = s.causesNow z := by
  obtain ⟨health, localMode⟩ := targetHealth_congr hs hg (s.zone z).cfg.valve
  unfold State.causesNow State.valveAvailable State.pointGood State.point
  dsimp only
  rw [hp, hc, health, localMode]

theorem startPosition_congr (hp : t.points = s.points) (hc : (t.zone z).cfg = (s.zone z).cfg) :
    t.startPosition z = s.startPosition z := by
  unfold State.startPosition State.pointGood State.pointValue State.point
  rw [hp, hc]

theorem trackedPosition_congr (hp : t.points = s.points) (hc : (t.zone z).cfg = (s.zone z).cfg) (held : Nat) :
    t.trackedPosition z held = s.trackedPosition z held := by
  unfold State.trackedPosition State.pointGood State.pointValue State.point
  rw [hp, hc]

/-! ### Reading rules -/

theorem State.modZone_modZone (s : State) (z : Nat) (f g : Zone → Zone) : (s.modZone z f).modZone z g = s.modZone z (g ∘ f) :=
  congrArg (fun l => { s with zones := l }) (List.modify_modify_eq f g z s.zones)

theorem modZone_congr {f g : Zone → Zone} (h : f (s.zone z) = g (s.zone z)) : s.modZone z f = s.modZone z g :=
  congrArg (fun l => { s with zones := l }) (modify_congr fun x hx => by rwa [zone_of_getElem? hx] at h)

/-- A part of the record that a change leaves alone, whether or not the bank holds the zone. -/
theorem zone_modZone_of_fix {α : Type} (g : Zone → α) {f : Zone → Zone} (h : ∀ x, g (f x) = g x) (y z : Nat) :
    g ((s.modZone z f).zone y) = g (s.zone y) := by
  rw [State.zone_modZone]
  split
  · exact h _
  · rfl

/-! ### The record after a judgement -/

/-- The spells alone may differ. -/
def Zone.Judged (x y : Zone) : Prop := y = { x with air := y.air, doLow := y.doLow }

theorem Zone.Judged.trans {w x y : Zone} (h : w.Judged x) (k : x.Judged y) : w.Judged y := by
  unfold Zone.Judged at *
  rw [k, h]

theorem judged_modZone {f : Zone → Zone} (hf : ∀ x : Zone, x.Judged (f x)) : (s.zone z).Judged ((s.modZone z f).zone z) := by
  rw [State.zone_modZone]
  split
  · exact hf _
  · exact rfl

theorem AlarmsOnly.zone (h : AlarmsOnly s t) (z : Nat) : t.zone z = s.zone z := by
  rw [h.2]
  rfl

theorem raiseAlarm_zone (s : State) (code : AlarmCode) (src : Source) (v : Option Nat) (z : Nat) :
    (s.raiseAlarm code src v).zone z = s.zone z := (raiseAlarm_only _ _ _ _).zone z

theorem clearAlarm_zone (s : State) (code : AlarmCode) (src : Source) (z : Nat) :
    (s.clearAlarm code src).zone z = s.zone z := (clearAlarm_only _ _ _).zone z

theorem endAir_judged (s : State) (z : Nat) : (s.zone z).Judged ((s.endAir z).zone z) := by
  unfold State.endAir
  rw [clearAlarm_zone]
  exact judged_modZone fun _ => rfl

theorem endDoLow_judged (s : State) (z : Nat) : (s.zone z).Judged ((s.endDoLow z).zone z) := by
  unfold State.endDoLow
  rw [clearAlarm_zone]
  exact judged_modZone fun _ => rfl

theorem judgeAir_judged (s : State) (z : Nat) : (s.zone z).Judged ((s.judgeAir z).zone z) := by
  unfold State.judgeAir
  dsimp only
  split_ifs
  · rfl
  · exact judged_modZone fun _ => rfl
  · rw [raiseAlarm_zone]
    exact judged_modZone fun _ => rfl
  · rfl
  · exact endAir_judged s z

theorem judgeDoLow_judged (s : State) (z : Nat) : (s.zone z).Judged ((s.judgeDoLow z).zone z) := by
  unfold State.judgeDoLow
  dsimp only
  split_ifs
  · rfl
  · exact judged_modZone fun _ => rfl
  · rw [raiseAlarm_zone]
    exact judged_modZone fun _ => rfl
  · rfl
  · exact endDoLow_judged s z

theorem judgeSetpoint_judged (s : State) (z : Nat) : (s.zone z).Judged ((s.judgeSetpoint z).zone z) :=
  (judgeAir_judged s z).trans (judgeDoLow_judged _ z)

/-! ### The record after a change of mode -/

/-- The record with its trim timer restarted. -/
def Zone.timed (x : Zone) (now : Nat) : Zone := { x with trimDeadline := some (now + x.cfg.trimPeriod) }

/-- R71: the record in a mode with a cause set; a change of mode is stamped. -/
def Zone.moded (x : Zone) (now : Nat) (m : ZoneMode) (c : Causes) : Zone :=
  { x with mode := m, causes := c, lastModeChange := if x.mode = m then x.lastModeChange else now }

/-- The record at another desired position. -/
def Zone.placed (x : Zone) (d : Nat) : Zone := { x with desired := d }

theorem startTrim_zone (hz : z < s.zones.length) : (s.startTrim z).zone z = (s.zone z).timed s.uptime :=
  State.zone_modZone_same hz _

theorem offerNotice_zone (s : State) (n : Notice) (z : Nat) : (s.offerNotice n).zone z = s.zone z :=
  (offerNotice_onlyZones s n ∅).others z id

theorem offerExpress_zone (s : State) (e : ExpressEntry) (z : Nat) : (s.offerExpress e).zone z = s.zone z :=
  (offerExpress_onlyZones s e ∅).others z id

theorem setMode_zone (hz : z < s.zones.length) (m : ZoneMode) (c : Causes) :
    (s.setMode z m c).zone z = (s.zone z).moded s.uptime m c := by
  unfold State.setMode Zone.moded
  dsimp only
  split_ifs
  · rw [State.zone_modZone_same hz]
    simp_all
  · rw [offerNotice_zone, State.zone_modZone_same hz]

theorem causeAlarms_only (s : State) (z : Nat) (old new : Causes) (entry : Bool) :
    AlarmsOnly s (s.causeAlarms z old new entry) := by
  have alarm {u : State} (hu : AlarmsOnly s u) (code : AlarmCode) (was is : Bool) :
      AlarmsOnly s (u.causeAlarm z code was is entry) :=
    ite_keeps (ite_keeps (hu.trans (raiseAlarm_only _ _ _ _)) hu) (hu.trans (clearAlarm_only _ _ _))
  exact alarm (alarm (.refl s) _ _ _) _ _ _

theorem enterAuto_zone (hz : z < s.zones.length) (d : Nat) :
    ((((s.zone z).placed d).timed s.uptime).moded s.uptime .auto .none).Judged ((s.enterAuto z d).zone z) := by
  let timed := (s.modZone z fun x => { x with desired := d }).startTrim z
  let told := (timed.setMode z .auto .none).causeAlarms z (s.zone z).causes .none false
  have length : z < (s.modZone z fun x => { x with desired := d }).zones.length := by simpa using hz
  have record : told.zone z = (((s.zone z).placed d).timed s.uptime).moded s.uptime .auto .none := by
    rw [(causeAlarms_only _ _ _ _ _).zone, setMode_zone (by simpa [timed, State.startTrim] using hz), startTrim_zone length,
      State.zone_modZone_same hz]
    rfl
  rw [← record]
  exact ite_keeps (P := fun t => (told.zone z).Judged (t.zone z)) rfl (judgeAir_judged told z)

theorem doJoined_judged (s : State) (z : Nat) (old new : Causes) : (s.zone z).Judged ((s.doJoined z old new).zone z) :=
  ite_keeps (P := fun t => (s.zone z).Judged (t.zone z)) (endDoLow_judged s z) rfl

theorem ite_cases {α β : Type} {P : α → β → Prop} {c : Prop} [Decidable c] {a a' : α} {b b' : β} (h : P a b) (h' : P a' b') :
    P (if c then a else a') (if c then b else b') := by
  split <;> assumption

/-- R55: the desired position at an entry to FALLBACK. -/
def State.fallbackPosition (s : State) (z : Nat) (c : Causes) (held : Nat) : Nat :=
  if c.valveUnavailable then s.trackedPosition z held else (s.zone z).cfg.fallbackPos

/-- R55: the record that an entry to FALLBACK makes of a record, beside the spells. -/
def Zone.fallen (x : Zone) (now : Nat) (c : Causes) (d : Nat) : Zone :=
  (if x.mode == .off || x.mode == .waiting then (x.placed d).timed now else x.placed d).moded now .fallback c

theorem enterFallback_zone (hz : z < s.zones.length) (c : Causes) (held : Nat) :
    ((s.zone z).fallen s.uptime c (s.fallbackPosition z c held)).Judged ((s.enterFallback z c held).zone z) := by
  unfold State.enterFallback
  extract_lets x early d placed timed moded aired joined told
  have length : z < placed.zones.length := by simpa [placed] using hz
  have hplaced : placed.zone z = x.placed d := State.zone_modZone_same hz _
  have htimed : timed.zone z = (if early then (x.placed d).timed s.uptime else x.placed d) ∧ z < timed.zones.length
      ∧ timed.uptime = s.uptime := by
    refine ite_cases (P := fun (t : State) (y : Zone) => t.zone z = y ∧ z < t.zones.length ∧ t.uptime = s.uptime) ?_ ?_
    · exact ⟨(startTrim_zone length).trans (congrArg (Zone.timed · s.uptime) hplaced), by simpa [State.startTrim] using length, rfl⟩
    · exact ⟨hplaced, length, rfl⟩
  have hmoded : moded.zone z = x.fallen s.uptime c d := by
    obtain ⟨record, length, uptime⟩ := htimed
    rw [setMode_zone length, record, uptime]
    rfl
  have haired : (moded.zone z).Judged (aired.zone z) :=
    ite_keeps (P := fun t => (moded.zone z).Judged (t.zone z)) (endAir_judged moded z) rfl
  have hjoined : (aired.zone z).Judged (joined.zone z) := 
    ite_keeps (P := fun t => (aired.zone z).Judged (t.zone z)) rfl (doJoined_judged _ z _ _)
  have htold : told.zone z = joined.zone z := (causeAlarms_only _ _ _ _ _).zone z
  have fallen : (x.fallen s.uptime c d).Judged (told.zone z) := by
    rw [← hmoded, htold]
    exact haired.trans hjoined
  have driven : (told.offerFallback z).zone z = told.zone z := offerExpress_zone told _ z
  split
  · rw [driven]
    exact fallen
  · exact fallen

/-- R66: the record that an entry to OFF makes of a record, beside the spells. -/
def Zone.stopped (x : Zone) (now : Nat) : Zone :=
  Zone.moded { x with desired := 0, cap := 0, grant := 0, trimDeadline := none } now .off .none

theorem enterOff_zone (hz : z < s.zones.length) (hm : (s.zone z).mode ≠ .off) :
    ((s.zone z).stopped s.uptime).Judged ((s.enterOff z).zone z) := by
  let emptied := s.modZone z fun x => { x with desired := 0, cap := 0, grant := 0, trimDeadline := none }
  let told := (emptied.setMode z .off .none).causeAlarms z (s.zone z).causes .none false
  have record : told.zone z = (s.zone z).stopped s.uptime := by
    rw [(causeAlarms_only _ _ _ _ _).zone, setMode_zone (by simpa [emptied] using hz), State.zone_modZone_same hz]
    rfl
  have off : s.enterOff z = (told.endDoLow z).endAir z := if_neg hm
  rw [off, ← record]
  exact (endDoLow_judged told z).trans (endAir_judged _ z)

end Sys2Proof.Machine
end

section
/-! A zone's trim timer expires (R57, R58). -/

namespace Sys2Proof.Machine

open Sys2Proof

variable {s t u : State} {z : Nat}

/-- A zone that the bank does not hold has no trim timer. -/
theorem lt_length_of_trimDeadline {d : Nat} (h : (s.zone z).trimDeadline = some d) : z < s.zones.length := by
  refine Nat.lt_of_not_le fun hz => ?_
  have blank : s.zone z = Zone.start 0 false .blank := getD_of_length_le hz _
  rw [blank] at h
  cases h

/-! ### The step -/

/-- The record after a step that was skipped. -/
def Zone.skipped (x : Zone) : Zone := { x with skipCount := min 65535 (x.skipCount + 1) }

/-- The record after a step to the position `d`. -/
def Zone.stepped (x : Zone) (d : Nat) : Zone := { x with trimCount := min 65535 (x.trimCount + 1), desired := d }

/-- R58: the desired position after a step. -/
def State.steppedPosition (s : State) (z : Nat) : Nat :=
  let x := s.zone z
  let error : Int := (s.setpoint z : Int) - (s.point x.cfg.doPoint).value
  if error.natAbs ≤ x.cfg.deadband then x.desired
  else clampInt x.cfg.minPos x.cfg.maxPos (x.desired + trimStepFor x.cfg.gain x.cfg.maxStep error)

theorem trimStep_skips (hf : (s.point (s.zone z).cfg.doPoint).fresh = false) : s.trimStep z = s.modZone z Zone.skipped :=
  if_pos (by rw [hf]; rfl)

theorem trimStep_steps (hf : (s.point (s.zone z).cfg.doPoint).fresh = true) :
    s.trimStep z = (s.modPoint (s.zone z).cfg.doPoint fun p => { p with fresh := false }).modZone z
      (Zone.stepped · (s.steppedPosition z)) :=
  if_neg (by rw [hf]; decide)

/-- The state that the judgements of the expiry follow: the timer restarted, and in AUTO the step made or skipped. -/
def State.trimmed (s : State) (z : Nat) : State :=
  let x := s.zone z
  if x.mode ≠ .auto then s.startTrim z
  else if (s.point x.cfg.doPoint).fresh then
    ((s.startTrim z).modPoint x.cfg.doPoint fun p => { p with fresh := false }).modZone z (Zone.stepped · (s.steppedPosition z))
  else (s.startTrim z).modZone z Zone.skipped

/-- R57: the expiry, by the zone's mode. -/
theorem trimExpiry_eq (hz : z < s.zones.length) : s.trimExpiry z =
    match (s.zone z).mode with
    | .auto => ((s.trimmed z).judgeAir z).judgeDoLow z
    | .fallback | .hand => (s.trimmed z).judgeDoLow z
    | .off | .waiting => s.trimmed z := by
  have record := startTrim_zone hz
  have unstepped (h : (s.zone z).mode ≠ .auto) : s.trimmed z = s.startTrim z := if_pos h
  have setpoint : (s.startTrim z).setpoint z = s.setpoint z :=
    setpoint_congr (s := s) (t := s.startTrim z) rfl (by rw [record]; rfl)
  have position : (s.startTrim z).steppedPosition z = s.steppedPosition z := by
    unfold State.steppedPosition
    rw [setpoint, record]
    rfl
  have stepped (h : (s.zone z).mode = .auto) : s.trimmed z = (s.startTrim z).trimStep z := by
    refine (if_neg (not_not.mpr h)).trans ?_
    cases hf : (s.point (s.zone z).cfg.doPoint).fresh with
    | true =>
      rw [trimStep_steps (by rw [record]; exact hf), position, record]
      rfl
    | false =>
      rw [trimStep_skips (by rw [record]; exact hf)]
      rfl
  have same : ((s.startTrim z).zone z).mode = (s.zone z).mode := by
    rw [record]
    rfl
  unfold State.trimExpiry
  dsimp only
  rw [same]
  cases mode : (s.zone z).mode <;> simp_all

/-- Beside the step and the timer, the expiry moves a zone's spells and their alarms alone. -/
theorem trimExpiry_judged (hz : z < s.zones.length) : (s.trimmed z).OnlyZone z (s.trimExpiry z)
    ∧ ((s.trimmed z).zone z).Judged ((s.trimExpiry z).zone z) := by
  have refl := State.OnlyZones.refl {z} (s.trimmed z)
  have changes := onlyZone_changes z (s.trimmed z)
  rw [trimExpiry_eq hz]
  split
  · exact ⟨changes.judgeSetpoint refl, judgeSetpoint_judged _ z⟩
  · exact ⟨changes.judgeDoLow refl, judgeDoLow_judged _ z⟩
  · exact ⟨changes.judgeDoLow refl, judgeDoLow_judged _ z⟩
  · exact ⟨refl, rfl⟩
  · exact ⟨refl, rfl⟩

/-- The step and the timer move one zone and the freshness of its DO point alone. -/
theorem trimmed_frame (s : State) (z : Nat) : (s.trimmed z).stations = s.stations ∧ (s.trimmed z).lanes = s.lanes
    ∧ ∀ y, y ≠ z → (s.trimmed z).zone y = s.zone y := by
  have timed (y : Nat) (hy : y ≠ z) : (s.startTrim z).zone y = s.zone y := State.zone_modZone_ne hy _
  unfold State.trimmed
  dsimp only
  split_ifs
  · exact ⟨rfl, rfl, timed⟩
  · exact ⟨rfl, rfl, fun y hy => (State.zone_modZone_ne hy _).trans (timed y hy)⟩
  · exact ⟨rfl, rfl, fun y hy => (State.zone_modZone_ne hy _).trans (timed y hy)⟩

theorem trimmed_unstepped (hz : z < s.zones.length) (h : (s.zone z).mode ≠ .auto) :
    (s.trimmed z).zone z = (s.zone z).timed s.uptime ∧ (s.trimmed z).points = s.points := by
  rw [show s.trimmed z = s.startTrim z from if_pos h]
  exact ⟨startTrim_zone hz, rfl⟩

theorem trimmed_skipped (hz : z < s.zones.length) (h : (s.zone z).mode = .auto)
    (hf : (s.point (s.zone z).cfg.doPoint).fresh = false) :
    (s.trimmed z).zone z = ((s.zone z).timed s.uptime).skipped ∧ (s.trimmed z).points = s.points := by
  have skipped : s.trimmed z = (s.startTrim z).modZone z Zone.skipped :=
    (if_neg (not_not.mpr h)).trans (if_neg (by rw [hf]; decide))
  rw [skipped, State.zone_modZone_same (by simpa [State.startTrim] using hz), startTrim_zone hz]
  exact ⟨rfl, rfl⟩

theorem trimmed_stepped (hz : z < s.zones.length) (h : (s.zone z).mode = .auto)
    (hf : (s.point (s.zone z).cfg.doPoint).fresh = true) :
    (s.trimmed z).zone z = ((s.zone z).timed s.uptime).stepped (s.steppedPosition z)
      ∧ (s.trimmed z).points = s.points.modify (s.zone z).cfg.doPoint (fun p => { p with fresh := false }) := by
  have stepped : s.trimmed z = ((s.startTrim z).modPoint (s.zone z).cfg.doPoint fun p => { p with fresh := false }).modZone z
      (Zone.stepped · (s.steppedPosition z)) := (if_neg (not_not.mpr h)).trans (if_pos hf)
  rw [stepped, State.zone_modZone_same (by simpa [State.startTrim] using hz)]
  exact ⟨congrArg (Zone.stepped · _) (startTrim_zone hz), rfl⟩

/-- In every mode the timer restarts, and mode, cap and grant stay. -/
theorem trimmed_keeps (hz : z < s.zones.length) : ((s.trimmed z).zone z).trimDeadline = some (s.uptime + (s.zone z).cfg.trimPeriod)
    ∧ ((s.trimmed z).zone z).mode = (s.zone z).mode ∧ ((s.trimmed z).zone z).cap = (s.zone z).cap
    ∧ ((s.trimmed z).zone z).grant = (s.zone z).grant := by
  by_cases h : (s.zone z).mode = .auto
  · cases hf : (s.point (s.zone z).cfg.doPoint).fresh with
    | true =>
      rw [(trimmed_stepped hz h hf).1]
      exact ⟨rfl, rfl, rfl, rfl⟩
    | false =>
      rw [(trimmed_skipped hz h hf).1]
      exact ⟨rfl, rfl, rfl, rfl⟩
  · rw [(trimmed_unstepped hz h).1]
    exact ⟨rfl, rfl, rfl, rfl⟩

theorem exec_trimTimerExpiry {d : Nat} (hd : (s.zone z).trimDeadline = some d) (hdue : d ≤ s.uptime) :
    exec (.trimTimerExpiry z) s = .next (s.trimExpiry z).finish := by
  have due : s.due (s.zone z).trimDeadline = true := by
    rw [hd]
    exact decide_eq_true hdue
  exact congrArg Host.Outcome.next (if_pos due)

/-- Settles O57: the step and the timer, then the judgements, by the zone's mode. -/
theorem trimTimerStepsTheZone : Obligations.TrimTimerStepsTheZone := by
  intro s z d hd hdue x c dp error step
  have hz := lt_length_of_trimDeadline hd
  obtain ⟨only, judged⟩ := trimExpiry_judged hz
  have settled := Settled.finish (s.trimExpiry z)
  have zone (y : Nat) : (s.trimExpiry z).finish.zone y = (s.trimExpiry z).zone y := zone_congr settled.zones y
  have position : (s.steppedPosition z : Int) = if error.natAbs ≤ c.deadband then (x.desired : Int)
      else max (c.minPos : Int) (min (c.maxPos : Int) (x.desired + step)) := by
    unfold State.steppedPosition
    rw [apply_ite Nat.cast, coe_clampInt]
    rfl
  obtain ⟨stations, lanes, others⟩ := trimmed_frame s z
  obtain ⟨deadline, mode, cap, grant⟩ := trimmed_keeps hz
  have points : (s.trimExpiry z).finish.points = (s.trimmed z).points := settled.points.trans only.points
  have record : (s.trimExpiry z).finish.zone z
      = { (s.trimmed z).zone z with air := ((s.trimExpiry z).zone z).air, doLow := ((s.trimExpiry z).zone z).doLow } :=
    (zone z).trans judged
  refine ⟨_, exec_trimTimerExpiry hd hdue, settled.config.trans ((config_plant _).trimExpiry rfl z),
    settled.stations.trans (only.stations.trans stations), settled.lanes.trans (only.lanes.trans lanes),
    fun y hy => (zone y).trans ((only.others y hy).trans (others y hy)), ?_⟩
  rw [record, points]
  refine ⟨deadline, mode, cap, grant, fun h hf => ?_, fun h hf => ?_, fun h => ?_, ?_⟩
  · obtain ⟨zone, points⟩ := trimmed_skipped hz h hf
    rw [zone]
    exact ⟨rfl, rfl, rfl, points⟩
  · obtain ⟨zone, points⟩ := trimmed_stepped hz h hf
    rw [zone]
    exact ⟨rfl, rfl, points, position⟩
  · obtain ⟨zone, points⟩ := trimmed_unstepped hz h
    rw [zone]
    exact ⟨rfl, rfl, points⟩
  · intro timed stepped
    have timing : s.startTrim z = timed := modZone_congr rfl
    have record : timed.zone z = x.timed s.uptime := timing ▸ startTrim_zone hz
    have read (f : Point → Point) : (timed.modPoint (s.zone z).cfg.doPoint f).zone z = x.timed s.uptime := record
    have trimming (h : x.mode = .auto) : s.trimmed z = stepped := by
      refine (if_neg (not_not.mpr h)).trans ?_
      rw [timing]
      refine congr (congrArg _ (modZone_congr ?_)) (modZone_congr ?_)
      · rw [read]
        rfl
      · rw [record]
        rfl
    have untrimmed (h : x.mode ≠ .auto) : s.trimmed z = timed := (if_pos h).trans timing
    have expired := trimExpiry_eq hz
    refine ⟨fun h => ?_, fun h => ?_, fun h => ?_⟩
    · rw [h] at expired
      rw [expired, trimming h]
    · obtain h | h := h <;> rw [h] at expired <;> rw [expired, untrimmed (by rw [h]; decide)]
    · obtain h | h := h <;> rw [h] at expired <;> rw [expired, untrimmed (by rw [h]; decide)]

end Sys2Proof.Machine
end

section
/-! What a zone makes of its causes, and the judgements AIR_LIMITED and DO_LOW, mode by mode (R53 to R56, R61, R62). -/

namespace Sys2Proof.Machine

open Sys2Proof

variable {s t u : State} {z : Nat} {c : Causes}

theorem Causes.isEmpty_iff (c : Causes) : c.isEmpty = true ↔ c = ⟨false, false⟩ := by
  obtain ⟨d, v⟩ := c
  cases d <;> cases v <;> decide

theorem Causes.doAlone_iff (c : Causes) : c.doAlone = true ↔ c = ⟨true, false⟩ := by
  obtain ⟨d, v⟩ := c
  cases d <;> cases v <;> decide

theorem zoneCfg_air (z : Nat) (cfg : ZoneCfg) : AirBlocks (fun s => (s.zone z).cfg = cfg) where
  zone y _ hf h := (zone_modZone_of_fix Zone.cfg hf z y).trans h
  blower _ _ _ h := h
  start _ _ _ h := h
  pool _ _ h := h
  notice _ h := (congrArg Zone.cfg (offerNotice_zone _ _ _)).trans h
  express _ h := (congrArg Zone.cfg (offerExpress_zone _ _ _)).trans h
  raise _ _ _ h := (congrArg Zone.cfg (raiseAlarm_zone _ _ _ _ _)).trans h
  clear _ _ h := (congrArg Zone.cfg (clearAlarm_zone _ _ _ _)).trans h

/-! ### Entering a mode -/

/-- R71: a change of the record and of the mode together. -/
theorem setMode_modZone {f : Zone → Zone} (hf : ∀ x, (f x).mode = x.mode) {m : ZoneMode} (hm : (s.zone z).mode ≠ m) (c : Causes) :
    (s.modZone z f).setMode z m c
      = (s.modZone z fun y => { f y with mode := m, causes := c, lastModeChange := s.uptime }).offerNotice
          (.zoneModeChange z (s.zone z).mode m c s.uptime) := by
  have mode : ((s.modZone z f).zone z).mode = (s.zone z).mode := zone_modZone_of_fix Zone.mode hf z z
  unfold State.setMode
  dsimp only
  rw [mode, if_neg hm, State.modZone_modZone]
  rfl

theorem setMode_modZone_same {f : Zone → Zone} (hf : ∀ x, (f x).mode = x.mode) {m : ZoneMode} (hm : (s.zone z).mode = m)
    (c : Causes) : (s.modZone z f).setMode z m c = s.modZone z fun y => { f y with causes := c } := by
  have mode : ((s.modZone z f).zone z).mode = (s.zone z).mode := zone_modZone_of_fix Zone.mode hf z z
  unfold State.setMode
  dsimp only
  rw [mode, if_pos hm, State.modZone_modZone]
  rfl

theorem startTrim_modZone (s : State) (z : Nat) (f : Zone → Zone) :
    (s.modZone z f).startTrim z = s.modZone z fun y => (f y).timed s.uptime := State.modZone_modZone s z f _

/-- R56, R64, R67: a zone that enters AUTO at the desired position `d`, before the judgement of a changed position. -/
def State.intoAuto (s : State) (z d : Nat) : State :=
  (((s.modZone z fun y => { y with
    desired := d, trimDeadline := some (s.uptime + (s.zone z).cfg.trimPeriod), mode := .auto, causes := ⟨false, false⟩,
    lastModeChange := s.uptime }).offerNotice
      (.zoneModeChange z (s.zone z).mode .auto ⟨false, false⟩ s.uptime)).clearAlarm .zoneDoInvalid (.zone z)).clearAlarm
    .zoneValveUnavailable (.zone z)

theorem enterAuto_eq (hm : (s.zone z).mode ≠ .auto) (d : Nat) :
    s.enterAuto z d = if d = (s.zone z).desired then s.intoAuto z d else (s.intoAuto z d).judgeAir z := by
  have entered : ((s.modZone z (Zone.placed · d)).startTrim z).setMode z .auto .none
      = (s.modZone z fun y => { y with
          desired := d, trimDeadline := some (s.uptime + (s.zone z).cfg.trimPeriod), mode := .auto, causes := ⟨false, false⟩,
          lastModeChange := s.uptime }).offerNotice (.zoneModeChange z (s.zone z).mode .auto ⟨false, false⟩ s.uptime) := by
    rw [startTrim_modZone]
    refine (setMode_modZone (f := fun y => (y.placed d).timed s.uptime) (fun _ => rfl) hm _).trans ?_
    exact congrArg (State.offerNotice · _) (modZone_congr rfl)
  have told := congrArg (fun u : State => u.causeAlarms z (s.zone z).causes .none false) entered
  exact if_congr Iff.rfl told (congrArg (State.judgeAir · z) told)

/-- R55: with DO_INVALID alone in the set, the express DRIVE of the fallback position to the zone's valve. -/
def State.driveAlone (s : State) (cfg : ZoneCfg) (c : Causes) : State :=
  if c = ⟨true, false⟩ then s.offerDrive cfg.valve (.position cfg.fallbackPos) else s

theorem offerFallback_eq {cfg : ZoneCfg} (h : (u.zone z).cfg = cfg) (c : Causes) :
    (if c.doAlone then u.offerFallback z else u) = u.driveAlone cfg c := by
  subst h
  exact if_congr c.doAlone_iff rfl rfl

/-- R55: the entry to FALLBACK, once the record is in its new mode. -/
theorem enterFallback_eq {moded : State} (held : Nat) {early trimmed : Bool}
    (hearly : ((s.zone z).mode == .off || (s.zone z).mode == .waiting) = early) (htrimmed : ((s.zone z).mode == .auto) = trimmed)
    (hmoded : State.setMode (if early then (s.modZone z (Zone.placed · (s.fallbackPosition z c held))).startTrim z
      else s.modZone z (Zone.placed · (s.fallbackPosition z c held))) z .fallback c = moded) : s.enterFallback z c held =
    let aired := if trimmed then moded.endAir z else moded
    ((if early then aired else aired.doJoined z (s.zone z).causes c).causeAlarms z (s.zone z).causes c true).driveAlone
      (s.zone z).cfg c := by
  let SameCfg : State → Prop := fun u => (u.zone z).cfg = (s.zone z).cfg
  have air : AirBlocks SameCfg := zoneCfg_air z _
  have act (b : Bool) {u v : State} (hu : SameCfg u) (hv : SameCfg v) : SameCfg (if b then u else v) := ite_keeps hu hv
  have placed : SameCfg (s.modZone z (Zone.placed · (s.fallbackPosition z c held))) := air.zone z _ (fun _ => rfl) rfl
  have moded := air.setMode (act early (air.startTrim placed z) placed) z .fallback c
  have aired := act trimmed (air.endAir moded z) moded
  have told := air.causeAlarms (act early aired (air.doJoined aired z (s.zone z).causes c)) z (s.zone z).causes c true
  subst hearly htrimmed hmoded
  exact offerFallback_eq told c

theorem driven_of_trimming (h : (s.zone z).mode = .auto ∨ (s.zone z).mode = .fallback) :
    s.driven z = min (s.zone z).desired (s.zone z).cap := by
  unfold State.driven
  obtain h | h := h <;> simp only [h]

/-- R55: the entry to FALLBACK from AUTO. -/
theorem enterFallback_of_auto (hm : (s.zone z).mode = .auto) (c : Causes) (held : Nat) : s.enterFallback z c held =
    ((((((s.modZone z fun y => { y with
      desired := s.fallbackPosition z c held, mode := .fallback, causes := c, lastModeChange := s.uptime }).offerNotice
        (.zoneModeChange z .auto .fallback c s.uptime)).endAir z).doJoined z (s.zone z).causes c).causeAlarms z (s.zone z).causes c
      true).driveAlone (s.zone z).cfg c) := by
  have moded := setMode_modZone (s := s) (f := (Zone.placed · (s.fallbackPosition z c held))) (z := z) (m := .fallback)
    (fun _ => rfl) (by rw [hm]; decide) c
  rw [hm] at moded
  exact enterFallback_eq held (early := false) (trimmed := true) (by rw [hm]; rfl) (by rw [hm]; rfl) moded

/-- R55, R65, R67: the entry to FALLBACK from WAITING and from OFF. -/
theorem enterFallback_of_rest (hm : (s.zone z).mode = .off ∨ (s.zone z).mode = .waiting) (c : Causes) (held : Nat) :
    s.enterFallback z c held =
      (((s.modZone z fun y => { y with
        desired := s.fallbackPosition z c held, trimDeadline := some (s.uptime + (s.zone z).cfg.trimPeriod), mode := .fallback,
        causes := c, lastModeChange := s.uptime }).offerNotice
          (.zoneModeChange z (s.zone z).mode .fallback c s.uptime)).causeAlarms z (s.zone z).causes c true).driveAlone
        (s.zone z).cfg c := by
  have early : ((s.zone z).mode == .off || (s.zone z).mode == .waiting) = true := by
    obtain h | h := hm <;> rw [h] <;> rfl
  have trimmed : ((s.zone z).mode == .auto) = false := by
    obtain h | h := hm <;> rw [h] <;> rfl
  have unheld : (s.zone z).mode ≠ .fallback := by
    obtain h | h := hm <;> rw [h] <;> decide
  let f : Zone → Zone := fun y => (y.placed (s.fallbackPosition z c held)).timed s.uptime
  have moded : ((s.modZone z (Zone.placed · (s.fallbackPosition z c held))).startTrim z).setMode z .fallback c
      = (s.modZone z fun y => { y with
        desired := s.fallbackPosition z c held, trimDeadline := some (s.uptime + (s.zone z).cfg.trimPeriod), mode := .fallback,
        causes := c, lastModeChange := s.uptime }).offerNotice (.zoneModeChange z (s.zone z).mode .fallback c s.uptime) := by
    rw [startTrim_modZone]
    refine (setMode_modZone (f := f) (fun _ => rfl) unheld c).trans ?_
    exact congrArg (State.offerNotice · _) (modZone_congr rfl)
  exact enterFallback_eq held (early := true) (trimmed := false) early trimmed moded

/-- R56: the desired position after a change of the cause set inside FALLBACK. -/
def State.changedPosition (s : State) (z : Nat) (c : Causes) : Nat :=
  let x := s.zone z
  if c.valveUnavailable && !x.causes.valveUnavailable then s.trackedPosition z (min x.desired x.cap)
  else if c = ⟨true, false⟩ then x.cfg.fallbackPos else x.desired

/-- R56: a change of the cause set inside FALLBACK. -/
theorem changeCauses_eq (hm : (s.zone z).mode = .fallback) (c : Causes) : s.changeCauses z c =
    (((s.modZone z fun y => { y with desired := s.changedPosition z c, causes := c }).doJoined z (s.zone z).causes c).causeAlarms z
      (s.zone z).causes c false).driveAlone (s.zone z).cfg c := by
  let d := if c.valveUnavailable && !(s.zone z).causes.valveUnavailable then s.trackedPosition z (s.driven z)
      else if c.doAlone then (s.zone z).cfg.fallbackPos else (s.zone z).desired
  have position : d = s.changedPosition z c := by
    unfold d State.changedPosition
    rw [driven_of_trimming (.inr hm)]
    exact if_congr Iff.rfl rfl (if_congr c.doAlone_iff rfl rfl)
  have air : AirBlocks (fun u => (u.zone z).cfg = (s.zone z).cfg) := zoneCfg_air z _
  have moded : (s.modZone z (Zone.placed · d)).setMode z .fallback c = s.modZone z fun y => { y with desired := d, causes := c } :=
    setMode_modZone_same (f := (Zone.placed · d)) (fun _ => rfl) hm c
  have told := air.causeAlarms (air.doJoined (moded ▸ air.setMode (air.zone (s := s) z (Zone.placed · d) (fun _ => rfl) rfl) z
    .fallback c) z (s.zone z).causes c) z (s.zone z).causes c false
  rw [← position, ← offerFallback_eq told, ← moded]
  rfl

/-! ### The judgements (R61, R62) -/

theorem airLimited_iff (hm : (s.zone z).mode = .auto) : s.airLimited z = true ↔
    min (s.zone z).desired (s.zone z).cap < (s.zone z).desired ∧ s.doValue z < s.setpoint z := by
  unfold State.airLimited
  rw [driven_of_trimming (.inl hm), hm]
  simp

/-- R61: a spell begins. -/
theorem judgeAir_begins (hm : (s.zone z).mode = .auto) (hl : s.airLimited z = true) (hs : (s.zone z).air.since = none) :
    s.judgeAir z = s.modZone z fun y => { y with air := ⟨some s.uptime, false⟩ } := by
  unfold State.judgeAir
  dsimp only
  rw [if_neg (not_not.mpr hm), if_pos hl, if_pos (by rw [hs]; rfl)]

/-- R61: a spell goes on, and raises AIR_LIMITED once it has lasted. -/
theorem judgeAir_lasts (hm : (s.zone z).mode = .auto) (hl : s.airLimited z = true) {d : Nat}
    (hs : (s.zone z).air.since = some d) : s.judgeAir z = if d + 600 ≤ s.uptime ∧ (s.zone z).air.raised = false then
      (s.modZone z fun y => { y with air := ⟨some d, true⟩ }).raiseAlarm .airLimited (.zone z) (some (s.doValue z)) else s := by
  have due : (s.lasted (s.zone z).air.since 600 && !(s.zone z).air.raised) = true
      ↔ d + 600 ≤ s.uptime ∧ (s.zone z).air.raised = false := by
    rw [hs]
    simp [State.lasted]
  unfold State.judgeAir
  dsimp only
  rw [if_neg (not_not.mpr hm), if_pos hl, if_neg (by rw [hs]; exact Bool.false_ne_true)]
  refine if_congr due ?_ rfl
  rw [hs]

theorem judgeAir_ends (hm : (s.zone z).mode = .auto) (hl : s.airLimited z ≠ true) : s.judgeAir z = s.endAir z :=
  (if_neg (not_not.mpr hm)).trans (if_neg hl)

/-- R62: the zone judges its DO: in AUTO, FALLBACK and HAND, while the point is GOOD. -/
def State.JudgesDo (s : State) (z : Nat) : Prop :=
  ((s.zone z).mode = .auto ∨ (s.zone z).mode = .fallback ∨ (s.zone z).mode = .hand)
    ∧ s.pointGood (s.zone z).cfg.doPoint .dissolvedOxygen = true

theorem judgesDo_iff : s.JudgesDo z ↔
    ¬ ((s.zone z).mode = .off ∨ (s.zone z).mode = .waiting ∨ ¬ s.pointGood (s.zone z).cfg.doPoint .dissolvedOxygen) := by
  unfold State.JudgesDo
  cases (s.zone z).mode <;> simp

theorem judgeDoLow_of_unjudged (h : ¬ s.JudgesDo z) : s.judgeDoLow z = s := if_pos (not_not.mp (mt judgesDo_iff.mpr h))

theorem judgeDoLow_ends (h : s.JudgesDo z) (hl : s.doIsLow z ≠ true) : s.judgeDoLow z = s.endDoLow z :=
  (if_neg (judgesDo_iff.mp h)).trans (if_neg hl)

theorem judgeDoLow_begins (h : s.JudgesDo z) (hl : s.doIsLow z = true) (hs : (s.zone z).doLow.since = none) :
    s.judgeDoLow z = s.modZone z fun y => { y with doLow := ⟨some s.uptime, false⟩ } :=
  ((if_neg (judgesDo_iff.mp h)).trans (if_pos hl)).trans (if_pos (by rw [hs]; rfl))

theorem judgeDoLow_lasts (h : s.JudgesDo z) (hl : s.doIsLow z = true) {d : Nat} (hs : (s.zone z).doLow.since = some d) :
    s.judgeDoLow z = if d + (s.zone z).cfg.doLowDelay ≤ s.uptime ∧ (s.zone z).doLow.raised = false then
      (s.modZone z fun y => { y with doLow := ⟨some d, true⟩ }).raiseAlarm .doLow (.zone z) (some (s.doValue z)) else s := by
  have due : (s.lasted (s.zone z).doLow.since (s.zone z).cfg.doLowDelay && !(s.zone z).doLow.raised) = true
      ↔ d + (s.zone z).cfg.doLowDelay ≤ s.uptime ∧ (s.zone z).doLow.raised = false := by
    rw [hs]
    simp [State.lasted]
  refine ((if_neg (judgesDo_iff.mp h)).trans (if_pos hl)).trans ((if_neg (by rw [hs]; exact Bool.false_ne_true)).trans (if_congr due ?_ rfl))
  rw [hs]

/-! ### Leaving WAITING and OFF (R65, R67) -/

/-- A zone leaves WAITING or OFF: for AUTO at a position where no cause holds, for FALLBACK otherwise. -/
def State.leaveRest (s : State) (z d : Nat) : State :=
  if (s.causesNow z).isEmpty then s.enterAuto z d else s.enterFallback z (s.causesNow z) 0

/-- R55, R65, R67: the record `y` that leaving WAITING or OFF at the time `now` makes of the record `x`, the causes `c` being those
that hold, `start` the position AUTO begins at and `fallback` that of FALLBACK. -/
def Zone.LeftRest (x y : Zone) (now : Nat) (c : Causes) (start fallback : Nat) : Prop :=
  y.causes = c ∧ y.cap = x.cap ∧ y.trimDeadline = some (now + x.cfg.trimPeriod)
    ∧ (c.isEmpty = true → y.mode = .auto ∧ y.desired = start) ∧ (c.isEmpty = false → y.mode = .fallback ∧ y.desired = fallback)

theorem leaveRest_zone (hz : z < s.zones.length) (hm : (s.zone z).mode = .off ∨ (s.zone z).mode = .waiting) (d : Nat) :
    (s.zone z).LeftRest ((s.leaveRest z d).zone z) s.uptime (s.causesNow z) d (s.fallbackPosition z (s.causesNow z) 0) := by
  let x := s.zone z
  let c := s.causesNow z
  obtain h | h := Bool.eq_false_or_eq_true c.isEmpty
  · have leaves : s.leaveRest z d = s.enterAuto z d := if_pos h
    have none : c = .none := c.isEmpty_iff.mp h
    rw [leaves, enterAuto_zone hz d]
    exact ⟨none.symm, rfl, rfl, fun _ => ⟨rfl, rfl⟩, fun k => absurd (h.symm.trans k) (by decide)⟩
  · have leaves : s.leaveRest z d = s.enterFallback z c 0 := if_neg (by rw [h]; exact Bool.false_ne_true)
    have fallen : x.fallen s.uptime c (s.fallbackPosition z c 0)
        = ((x.placed (s.fallbackPosition z c 0)).timed s.uptime).moded s.uptime .fallback c := by
      unfold Zone.fallen
      rw [if_pos (by obtain k | k := hm <;> simp [x, k])]
    rw [leaves, enterFallback_zone hz c 0, fallen]
    exact ⟨rfl, rfl, rfl, fun k => absurd (h.symm.trans k) (by decide), fun _ => ⟨rfl, rfl⟩⟩

end Sys2Proof.Machine
end

section
/-! A lane's start grace expires (R65), and the judgements of a zone (R53 to R56, R61, R62, R64, R69). -/

namespace Sys2Proof.Machine

open Sys2Proof

variable {s t u : State} {l z : Nat}

/-! ### The zones of a lane -/

/-- The zones of a lane, in zone order. -/
def laneZones (l : Nat) : List Nat := [l * 4, l * 4 + 1, l * 4 + 2, l * 4 + 3]

theorem mem_laneZones (l z : Nat) : z ∈ laneZones l ↔ z / 4 = l := by
  simp only [laneZones, List.mem_cons, List.not_mem_nil, or_false]
  omega

theorem nodup_laneZones (l : Nat) : (laneZones l).Nodup := by simp [laneZones]

theorem each_laneZones (g : State → Nat → State) (l : Nat) (s : State) :
    s.each 4 (fun i u => g u (l * 4 + i)) = (laneZones l).foldl g s := rfl

/-- The zone of a turn reads the plant as it was before all of them. -/
theorem State.OnlyZones.reads {v : State} (h : v.OnlyZones {z}ᶜ u) : u.zone z = v.zone z ∧ u.causesNow z = v.causesNow z
    ∧ u.startPosition z = v.startPosition z ∧ ∀ c held, u.fallbackPosition z c held = v.fallbackPosition z c held := by
  have same : u.zone z = v.zone z := h.others z fun k => k rfl
  have cfg : (u.zone z).cfg = (v.zone z).cfg := congrArg Zone.cfg same
  refine ⟨same, causesNow_congr h.stations h.groups h.points cfg, startPosition_congr h.points cfg, fun c held => ?_⟩
  unfold State.fallbackPosition
  rw [trackedPosition_congr h.points cfg, cfg]

/-! ### The start grace -/

/-- R65: a zone still WAITING leaves it. -/
def State.release (s : State) (z : Nat) : State := if (s.zone z).mode = .waiting then s.leaveWaiting z else s

theorem release_onlyZone (s : State) (z : Nat) : s.OnlyZone z (s.release z) :=
  ite_keeps ((onlyZone_changes z s).leaveWaiting (.refl _ s)) (.refl _ s)

theorem graceExpiry_onlyZones (s : State) (l : Nat) :
    (s.modLane l fun x => { x with graceDeadline := none, graceExpired := true }).OnlyZones {y | y ∈ laneZones l}
      (s.graceExpiry l) := foldl_onlyZones release_onlyZone _ _

theorem graceExpiry_stays (h : ¬ (z / 4 = l ∧ (s.zone z).mode = .waiting)) : (s.graceExpiry l).zone z = s.zone z := by
  by_cases hz : z ∈ laneZones l
  · obtain ⟨u, before, after⟩ := foldl_zone release_onlyZone (nodup_laneZones l)
      (s.modLane l fun x => { x with graceDeadline := none, graceExpired := true }) hz
    have same : u.zone z = s.zone z := before.reads.1
    have unreleased : u.release z = u := if_neg fun k => h ⟨(mem_laneZones l z).mp hz, same ▸ k⟩
    exact after.trans (unreleased.symm ▸ same)
  · exact (graceExpiry_onlyZones s l).others z hz

theorem graceExpiry_releases (hz : z / 4 = l) (hlen : z < s.zones.length) (hm : (s.zone z).mode = .waiting) :
    (s.zone z).LeftRest ((s.graceExpiry l).zone z) s.uptime (s.causesNow z) (s.startPosition z)
      (s.fallbackPosition z (s.causesNow z) 0) := by
  obtain ⟨u, before, after⟩ := foldl_zone release_onlyZone (nodup_laneZones l)
    (s.modLane l fun x => { x with graceDeadline := none, graceExpired := true }) ((mem_laneZones l z).mpr hz)
  obtain ⟨same, causes, start, fallback⟩ := before.reads
  have waiting : (u.zone z).mode = .waiting := by
    rw [same]
    exact hm
  have released : u.release z = u.leaveRest z (u.startPosition z) := if_pos waiting
  have left := leaveRest_zone (before.length.symm ▸ hlen) (.inr waiting) (u.startPosition z)
  rw [← released, same, causes, start, before.uptime, fallback, ← after] at left
  exact left

theorem exec_startGraceExpiry {d : Nat} (hd : (s.lane l).graceDeadline = some d) (hdue : d ≤ s.uptime) :
    exec (.startGraceExpiry l) s = .next (s.graceExpiry l).finish := by
  have due : s.due (s.lane l).graceDeadline = true := by
    rw [hd]
    exact decide_eq_true hdue
  exact congrArg Host.Outcome.next (if_pos due)

/-- R65: the lane's grace is over, and its zones still WAITING have left it. -/
theorem startGrace_releases {d : Nat} (hd : (s.lane l).graceDeadline = some d) (hdue : d ≤ s.uptime) (hl : l < 6)
    (hlen : s.zones.length = 24) : ∃ t, exec (.startGraceExpiry l) s = .next t ∧ t.config = s.config
      ∧ t.stations = s.stations ∧ t.points = s.points
      ∧ t.lanes = s.lanes.modify l (fun x => { x with graceDeadline := none, graceExpired := true })
      ∧ (∀ z, ¬ (z / 4 = l ∧ (s.zone z).mode = .waiting) → t.zone z = s.zone z)
      ∧ t = (s.graceExpiry l).finish
      ∧ ∀ i < 4, (s.zone (l * 4 + i)).mode = .waiting →
        (s.zone (l * 4 + i)).LeftRest (t.zone (l * 4 + i)) s.uptime (s.causesNow (l * 4 + i)) (s.startPosition (l * 4 + i))
          (s.fallbackPosition (l * 4 + i) (s.causesNow (l * 4 + i)) 0) := by
  have settled := Settled.finish (s.graceExpiry l)
  have only := graceExpiry_onlyZones s l
  have zone (z : Nat) : (s.graceExpiry l).finish.zone z = (s.graceExpiry l).zone z := zone_congr settled.zones z
  refine ⟨_, exec_startGraceExpiry hd hdue, settled.config.trans ((config_plant _).graceExpiry rfl l),
    settled.stations.trans only.stations, settled.points.trans only.points, settled.lanes.trans only.lanes,
    fun z h => (zone z).trans (graceExpiry_stays h), rfl, fun i hi hm => ?_⟩
  rw [zone]
  exact graceExpiry_releases (by omega) (by omega) hm

/-! ### A zone judges its causes -/

theorem readyForAuto_iff : s.readyForAuto z = true ↔ s.causesNow z = ⟨false, false⟩ ∧ s.pool.firstPassDone = true := by
  unfold State.readyForAuto
  rw [Bool.and_eq_true, Causes.isEmpty_iff]

theorem rejudgeZone_rests (h : (s.zone z).mode = .off ∨ (s.zone z).mode = .auto ∧ s.causesNow z = ⟨false, false⟩
    ∨ ((s.zone z).mode = .fallback ∨ (s.zone z).mode = .hand) ∧ s.causesNow z = (s.zone z).causes
    ∨ (s.zone z).mode = .waiting ∧ ¬ (s.causesNow z = ⟨false, false⟩ ∧ s.pool.firstPassDone = true)) : s.rejudgeZone z = s := by
  unfold State.rejudgeZone
  obtain off | ⟨auto, none⟩ | ⟨fallback | hand, same⟩ | ⟨waiting, unready⟩ := h
  · simp only [off]
  · simp only [auto]
    exact if_pos ((Causes.isEmpty_iff _).mpr none)
  · simp only [fallback]
    exact if_pos same
  · simp only [hand]
    exact if_pos same
  · simp only [waiting]
    exact if_neg (mt readyForAuto_iff.mp unready)

theorem rejudgeZone_of_auto (hm : (s.zone z).mode = .auto) (hc : s.causesNow z ≠ ⟨false, false⟩) :
    s.rejudgeZone z = s.enterFallback z (s.causesNow z) (min (s.zone z).desired (s.zone z).cap) := by
  rw [← driven_of_trimming (.inl hm)]
  unfold State.rejudgeZone
  simp only [hm]
  exact if_neg (mt (Causes.isEmpty_iff _).mp hc)

theorem rejudgeZone_of_fallback (hm : (s.zone z).mode = .fallback) (hx : s.causesNow z ≠ (s.zone z).causes) : s.rejudgeZone z =
    if s.causesNow z = ⟨false, false⟩ then s.enterAuto z (s.zone z).desired else s.changeCauses z (s.causesNow z) := by
  unfold State.rejudgeZone
  simp only [hm]
  exact (if_neg hx).trans (if_congr (Causes.isEmpty_iff _) rfl rfl)

theorem rejudgeZone_of_waiting (hm : (s.zone z).mode = .waiting) (hc : s.causesNow z = ⟨false, false⟩)
    (hp : s.pool.firstPassDone = true) : s.rejudgeZone z = s.enterAuto z (s.startPosition z) := by
  unfold State.rejudgeZone
  simp only [hm]
  exact if_pos (readyForAuto_iff.mpr ⟨hc, hp⟩)

theorem rejudgeZone_of_hand (hm : (s.zone z).mode = .hand) (hx : s.causesNow z ≠ (s.zone z).causes) : s.rejudgeZone z =
    ((s.modZone z fun y => { y with causes := s.causesNow z }).doJoined z (s.zone z).causes (s.causesNow z)).causeAlarms z
      (s.zone z).causes (s.causesNow z) false := by
  have moded : s.setMode z .hand (s.causesNow z) = s.modZone z fun y => { y with causes := s.causesNow z } := if_pos hm
  unfold State.rejudgeZone
  simp only [hm]
  rw [← moded]
  exact if_neg hx

/-- R56, R64: the zone's record after an entry to AUTO from another mode. -/
theorem enterAuto_record (hz : z < s.zones.length) (hm : (s.zone z).mode ≠ .auto) (d : Nat) :
    let x := s.zone z
    let y := (s.enterAuto z d).zone z
    y.mode = .auto ∧ y.causes = ⟨false, false⟩ ∧ y.trimDeadline = some (s.uptime + x.cfg.trimPeriod) ∧ y.lastModeChange = s.uptime
      ∧ y.cap = x.cap ∧ y.grant = x.grant ∧ y.desired = d := by
  intro x y
  have record := enterAuto_zone hz d
  rw [show y = _ from record]
  exact ⟨rfl, rfl, rfl, if_neg hm, rfl, rfl, rfl⟩

/-- R65: the two ways out of WAITING. -/
theorem leaveWaiting_eq (s : State) (z : Nat) : s.leaveWaiting z = if s.causesNow z = ⟨false, false⟩ then
    s.enterAuto z (s.startPosition z) else s.enterFallback z (s.causesNow z) 0 := if_congr (Causes.isEmpty_iff _) rfl rfl

/-- Settles O58: the zones of the lane in turn, then each judgement by the mode it is made in. -/
theorem startGraceReleasesWaitingZones : Obligations.StartGraceReleasesWaitingZones := by
  refine ⟨fun s l d hd hdue hl hlen => startGrace_releases hd hdue hl hlen, fun s z => rfl, fun s z hz => ?_⟩
  intro x c v low tracked joined told driven auto
  have entersAuto (hm : x.mode ≠ .auto) (d : Nat) : s.enterAuto z d = auto d := enterAuto_eq hm d
  have doesLow : s.doIsLow z = true ↔ low := decide_eq_true_iff
  refine ⟨rejudgeZone_rests, fun hm hc => ?_, fun hm hx hc => ?_, fun h => ?_, fun hm => ⟨fun hc => ?_, fun hc => ?_⟩, fun hm hx => ?_,
    ?_, ?_⟩
  · rw [rejudgeZone_of_auto hm hc, enterFallback_of_auto hm]
    rfl
  · rw [rejudgeZone_of_fallback hm hx, if_neg hc, changeCauses_eq hm]
    rfl
  · have enters : s.rejudgeZone z = s.enterAuto z (if x.mode = .fallback then x.desired else s.startPosition z) ∧ x.mode ≠ .auto := by
      obtain ⟨hm, hx, hc⟩ | ⟨hm, hc, hp⟩ := h
      · rw [rejudgeZone_of_fallback hm hx, if_pos hc, if_pos hm]
        exact ⟨rfl, by rw [hm]; decide⟩
      · rw [rejudgeZone_of_waiting hm hc hp, if_neg (by rw [hm]; decide)]
        exact ⟨rfl, by rw [hm]; decide⟩
    obtain ⟨enters, hm⟩ := enters
    rw [enters]
    obtain ⟨mode, causes, trim, change, cap, grant, desired⟩ := enterAuto_record hz hm (if x.mode = .fallback then x.desired else s.startPosition z)
    exact ⟨mode, causes, trim, change, cap, grant, fun h => desired.trans (if_pos h), fun h => desired.trans (if_neg (by rw [h]; decide)),
      ((onlyZone_changes z s).enterAuto (.refl _ s) _).others, entersAuto hm _⟩
  · rw [leaveWaiting_eq, if_pos hc]
    exact entersAuto (by rw [hm]; decide) _
  · rw [leaveWaiting_eq, if_neg hc, enterFallback_of_rest (.inr hm), hm]
    rfl
  · rw [rejudgeZone_of_hand hm hx]
    rfl
  · intro limited
    refine ⟨fun h => if_pos h, fun hm hl => ?_, fun hm hl hs => ?_, fun d hm hl hs => ?_⟩
    · exact judgeAir_ends hm (mt (airLimited_iff hm).mp hl)
    · exact judgeAir_begins hm ((airLimited_iff hm).mpr hl) hs
    · exact judgeAir_lasts hm ((airLimited_iff hm).mpr hl) hs
  · intro judges
    exact ⟨judgeDoLow_of_unjudged, fun h hl => judgeDoLow_ends h (mt doesLow.mp hl),
      fun h hl hs => judgeDoLow_begins h (doesLow.mpr hl) hs, fun d h hl hs => judgeDoLow_lasts h (doesLow.mpr hl) hs⟩

end Sys2Proof.Machine
end

section
/-! A lane judges its ammonia point and its band (R48 to R50), at a LANE_WRITE as at every other event. -/

namespace Sys2Proof.Machine

open Sys2Proof

variable {s t u : State} {l z : Nat}

/-! ### Reading rules -/

theorem State.lane_modLane_same (h : l < s.lanes.length) (f : Lane → Lane) : (s.modLane l f).lane l = f (s.lane l) := by
  rw [State.lane_modLane, if_pos ⟨rfl, h⟩]

theorem lane_congr (h : t.lanes = s.lanes) (l : Nat) : t.lane l = s.lane l := by
  unfold State.lane
  rw [h]

theorem map_modify_comm {α β : Type} {g : α → β} {f : α → α} {f' : β → β} (h : ∀ x, g (f x) = f' (g x)) (k : List α) (i : Nat) :
    (k.modify i f).map g = (k.map g).modify i f' := by
  refine List.ext_getElem? fun j => ?_
  simp only [List.getElem?_map, List.getElem?_modify]
  cases k[j]? <;> by_cases hij : i = j <;> simp [hij, h]

/-- A lane's configuration or its in-service flag changes. -/
theorem config_modLane {f : Lane → Lane} {f' : Bool × LaneCfg → Bool × LaneCfg}
    (h : ∀ x, ((f x).inService, (f x).cfg) = f' (x.inService, x.cfg)) (s : State) (l : Nat) :
    (s.modLane l f).config = { s.config with lanes := s.config.lanes.modify l f' } :=
  congrArg (fun k => { s.config with lanes := k }) (map_modify_comm h s.lanes l)

theorem optPointGood_iff (p : Option Nat) (k : Kind) : s.optPointGood p k = true ↔ ∃ q ∈ p, s.pointGood q k = true := by
  cases p with
  | none => simp [State.optPointGood]
  | some q => simp [State.optPointGood]

/-! ### The judgement of a lane -/

/-- R49: the lane's record as it is judged. -/
def State.judgedLane (s : State) (l : Nat) : State :=
  s.modLane l fun x =>
    { x with ammoniaValid := s.optPointGood (s.lane l).cfg.ammoniaPoint .nh4, activeBand := s.activeBandNow l }

/-- R50: the judgements of a zone whose setpoint has moved. -/
def State.rejudgeSetpoint (before s : State) (z : Nat) : State :=
  if before.setpoint z = s.setpoint z then s else s.judgeSetpoint z

/-- R49: the lane's record and LANE_AMMONIA_INVALID at the edges of its condition, then the zones of the lane in turn. -/
theorem judgeLane_told (before s : State) (l : Nat) : ∃ told, AlarmsOnly (s.judgedLane l) told
    ∧ before.judgeLane l s = (laneZones l).foldl before.rejudgeSetpoint told := by
  refine ⟨_, ?_, rfl⟩
  exact ite_keeps (raiseAlarm_only _ _ _ _) (ite_keeps (clearAlarm_only _ _ _) (.refl _))

theorem rejudgeSetpoint_onlyZone (before s : State) (z : Nat) : s.OnlyZone z (before.rejudgeSetpoint s z) :=
  ite_keeps (.refl _ s) ((onlyZone_changes z s).judgeSetpoint (.refl _ s))

theorem judgeLane_onlyZones (before s : State) (l : Nat) :
    (s.judgedLane l).OnlyZones {y | y ∈ laneZones l} (before.judgeLane l s) := by
  obtain ⟨told, only, eq⟩ := judgeLane_told before s l
  rw [eq]
  exact (only.onlyZones _).trans (foldl_onlyZones (rejudgeSetpoint_onlyZone before) _ told)

theorem judgeLane_judged (before s : State) (l z : Nat) : (s.zone z).Judged ((before.judgeLane l s).zone z) := by
  obtain ⟨told, only, eq⟩ := judgeLane_told before s l
  have same : told.zone z = s.zone z := only.zone z
  by_cases hz : z ∈ laneZones l
  · obtain ⟨u, frame, after⟩ := foldl_zone (rejudgeSetpoint_onlyZone before) (nodup_laneZones l) told hz
    rw [eq, after, ← same, ← frame.reads.1]
    exact ite_keeps (P := fun t => (u.zone z).Judged (t.zone z)) rfl (judgeSetpoint_judged u z)
  · rw [(judgeLane_onlyZones before s l).others z hz]
    exact rfl

theorem judgeLane_hand (before s : State) (l : Nat) : (before.judgeLane l s).hand = s.hand := by
  obtain ⟨told, only, eq⟩ := judgeLane_told before s l
  rw [eq]
  exact foldl_keeps (P := fun u => u.hand = s.hand)
    (fun u z h => ite_keeps (P := fun v => v.hand = s.hand) h ((hand_changes z s.hand).judgeSetpoint h)) _ only.hand

/-- R49: the record of the lane that was judged. -/
theorem judgeLane_lane (before : State) (h : l < s.lanes.length) : (before.judgeLane l s).lane l
    = { s.lane l with ammoniaValid := s.optPointGood (s.lane l).cfg.ammoniaPoint .nh4, activeBand := s.activeBandNow l } :=
  (lane_congr (judgeLane_onlyZones before s l).lanes l).trans (State.lane_modLane_same h _)

/-- The judgement with its three values named. -/
theorem judgeLane_eq (before : State) (h : l < s.lanes.length) : before.judgeLane l s =
    let x := before.lane l
    let y := s.lane l
    let good := s.optPointGood y.cfg.ammoniaPoint .nh4
    let failed := x.inService && x.cfg.ammoniaPoint.isSome && !x.ammoniaValid
    let fails := y.inService && y.cfg.ammoniaPoint.isSome && !good
    let judged := s.judgedLane l
    let told := if fails && !failed then judged.raiseAlarm .laneAmmoniaInvalid (.lane l) none
      else if failed && !fails then judged.clearAlarm .laneAmmoniaInvalid (.lane l) else judged
    (laneZones l).foldl before.rejudgeSetpoint told := by
  have is : ((s.judgedLane l).lane l).ammoniaFailed = ((s.lane l).inService && (s.lane l).cfg.ammoniaPoint.isSome
      && !s.optPointGood (s.lane l).cfg.ammoniaPoint .nh4) := by
    rw [State.judgedLane, State.lane_modLane_same h]
    rfl
  dsimp only
  rw [← is]
  rfl

/-! ### LANE_WRITE (R47, R48) -/

/-- R48: the lane's record with its new configuration, its band moved by a GOOD ammonia point. -/
def State.movedLane (s : State) (l : Nat) (c : LaneCfg) : State :=
  match c.ammoniaPoint with
  | some p => if s.pointGood p .nh4 then
      (s.modLane l fun x => { x with cfg := c }).modLane l fun x =>
        { x with ammoniaBand := bandAfter c x.ammoniaBand (s.point p).value }
    else s.modLane l fun x => { x with cfg := c }
  | none => s.modLane l fun x => { x with cfg := c }

theorem rewriteLane_eq (h : l < s.lanes.length) (c : LaneCfg) : s.rewriteLane l c = s.judgeLane l (s.movedLane l c) := by
  have moved (v : Nat) : (s.modLane l fun x => { x with cfg := c }).moveBand l v
      = (s.modLane l fun x => { x with cfg := c }).modLane l fun x => { x with ammoniaBand := bandAfter c x.ammoniaBand v } := by
    refine modLane_congr ?_
    rw [State.lane_modLane_same h]
  unfold State.rewriteLane State.movedLane
  cases c.ammoniaPoint with
  | none => rfl
  | some p =>
    dsimp only
    rw [moved]
    rfl

theorem movedLane_frame (s : State) (l : Nat) (c : LaneCfg) : ∃ lanes, s.movedLane l c = { s with lanes := lanes }
    ∧ lanes.length = s.lanes.length := by
  unfold State.movedLane
  split
  · split
    · exact ⟨_, rfl, by simp⟩
    · exact ⟨_, rfl, by simp⟩
  · exact ⟨_, rfl, by simp⟩

/-- R48: the band moves where the new ammonia point is GOOD, and is kept otherwise. -/
theorem movedLane_lane (h : l < s.lanes.length) (c : LaneCfg) :
    ∃ band, (s.movedLane l c).lane l = { s.lane l with cfg := c, ammoniaBand := band }
      ∧ (∀ p ∈ c.ammoniaPoint, s.pointGood p .nh4 = true → band = bandAfter c (s.lane l).ammoniaBand (s.point p).value)
      ∧ (¬ (∃ p ∈ c.ammoniaPoint, s.pointGood p .nh4 = true) → band = (s.lane l).ammoniaBand) := by
  have written : (s.modLane l fun x => { x with cfg := c }).lane l = { s.lane l with cfg := c } := State.lane_modLane_same h _
  unfold State.movedLane
  cases hp : c.ammoniaPoint with
  | none => exact ⟨_, written, by simp, fun _ => rfl⟩
  | some p =>
    by_cases good : s.pointGood p .nh4 = true
    · refine ⟨bandAfter c (s.lane l).ammoniaBand (s.point p).value, ?_, ?_, fun k => absurd ⟨p, rfl, good⟩ k⟩
      · simp only [if_pos good]
        rw [State.lane_modLane_same (by simpa using h), written]
      · rintro q ⟨⟩ -
        rfl
    · refine ⟨(s.lane l).ammoniaBand, ?_, ?_, fun _ => rfl⟩
      · simp only [if_neg good]
        exact written
      · rintro q ⟨⟩ k
        exact absurd k good

theorem rewriteLane_config (s : State) (l : Nat) (c : LaneCfg) : (s.rewriteLane l c).config
    = { s.config with lanes := s.config.lanes.modify l fun x => (x.1, c) } := by
  have plant := config_plant { s.config with lanes := s.config.lanes.modify l fun x => (x.1, c) }
  have written : (s.modLane l fun x => { x with cfg := c }).config
      = { s.config with lanes := s.config.lanes.modify l fun x => (x.1, c) } := config_modLane (fun _ => rfl) s l
  unfold State.rewriteLane
  refine plant.judgeLane ?_ s l
  split
  · exact written
  · exact ite_keeps (P := fun u => u.config = _) (plant.moveBand written l _) written

/-- R47 to R49: the lane after an accepted LANE_WRITE. -/
theorem rewriteLane_lane (h : l < s.lanes.length) (c : LaneCfg) :
    let good := ∃ p ∈ c.ammoniaPoint, s.pointGood p .nh4 = true
    let x := s.lane l
    let y := (s.rewriteLane l c).lane l
    y.cfg = c ∧ y.inService = x.inService ∧ y.graceDeadline = x.graceDeadline ∧ (y.ammoniaValid = true ↔ good)
      ∧ (∀ p ∈ c.ammoniaPoint, s.pointGood p .nh4 = true → y.ammoniaBand = bandAfter c x.ammoniaBand (s.point p).value)
      ∧ (¬ good → y.ammoniaBand = x.ammoniaBand)
      ∧ (c.stormFollow = true → s.stormInForce = true → y.activeBand = .storm)
      ∧ (¬ (c.stormFollow = true ∧ s.stormInForce = true) → c.ammoniaPoint = none → y.activeBand = .mid)
      ∧ (¬ (c.stormFollow = true ∧ s.stormInForce = true) → c.ammoniaPoint ≠ none → ¬ good → y.activeBand = .high)
      ∧ (¬ (c.stormFollow = true ∧ s.stormInForce = true) → good → y.activeBand = y.ammoniaBand) := by
  intro good x y
  obtain ⟨lanes, frame, length⟩ := movedLane_frame s l c
  obtain ⟨band, record, moves, keeps⟩ := movedLane_lane h c
  have optGood : (s.movedLane l c).optPointGood c.ammoniaPoint .nh4 = s.optPointGood c.ammoniaPoint .nh4 := by
    rw [frame]
    rfl
  have active : (s.movedLane l c).activeBandNow l = if c.stormFollow && s.stormInForce then .storm
      else if c.ammoniaPoint.isNone then .mid else if s.optPointGood c.ammoniaPoint .nh4 then band else .high := by
    have storm : (s.movedLane l c).stormInForce = s.stormInForce := by
      rw [frame]
      rfl
    unfold State.activeBandNow
    rw [record]
    dsimp only
    rw [optGood, storm]
  have hy : y = { s.lane l with
      cfg := c, ammoniaBand := band, ammoniaValid := s.optPointGood c.ammoniaPoint .nh4,
      activeBand := (s.movedLane l c).activeBandNow l } := by
    change (s.rewriteLane l c).lane l = _
    rw [rewriteLane_eq h, judgeLane_lane s (by rw [frame]; exact length ▸ h), record]
    dsimp only
    rw [optGood]
  have valid : s.optPointGood c.ammoniaPoint .nh4 = true ↔ good := optPointGood_iff _ _
  have calm (k : ¬ (c.stormFollow = true ∧ s.stormInForce = true)) : (c.stormFollow && s.stormInForce) ≠ true := by
    simpa using k
  rw [hy, active]
  refine ⟨rfl, rfl, rfl, valid, moves, keeps, ?_, ?_, ?_, ?_⟩
  · exact fun follow storm => if_pos (by rw [follow, storm]; rfl)
  · exact fun k none => (if_neg (calm k)).trans (if_pos (by rw [none]; rfl))
  · exact fun k some bad => (if_neg (calm k)).trans ((if_neg (mt Option.isNone_iff_eq_none.mp some)).trans (if_neg (mt valid.mp bad)))
  · intro k fine
    have ⟨p, hp, _⟩ := fine
    exact (if_neg (calm k)).trans ((if_neg (by rw [show c.ammoniaPoint = some p from hp]; exact Bool.false_ne_true)).trans
      (if_pos (valid.mpr fine)))

/-- Settles O23: the lane's new record, then its judgement; and the judgement at any event. -/
theorem laneWriteRejudgesTheLane : Obligations.LaneWriteRejudgesTheLane := by
  refine ⟨fun s h l c hs hl hok hlen => ?_, fun before s l hl => judgeLane_eq before hl⟩
  intro good
  have accepted : exec (.laneWrite h l c) s = .next (((s.addressed h).rewriteLane l c).answered h 13 .done []) :=
    exec_accepted (c := .laneWrite h l c) rfl hs rfl hok
  have settled := Settled.answered ((s.addressed h).rewriteLane l c) h 13 .done []
  have own : ((s.addressed h).rewriteLane l c).port.own = (s.addressed h).port.own := (ownPort_effects _).rewriteLane rfl l c
  have only := judgeLane_onlyZones (s.addressed h) ((s.addressed h).movedLane l c) l
  have rewritten : (s.addressed h).rewriteLane l c = (s.addressed h).judgeLane l ((s.addressed h).movedLane l c) :=
    rewriteLane_eq (s := s.addressed h) hlen c
  rw [← rewritten] at only
  obtain ⟨lanes, frame, -⟩ := movedLane_frame (s.addressed h) l c
  have points : ((s.addressed h).rewriteLane l c).points = s.points := only.points.trans (by rw [State.judgedLane, frame]; rfl)
  have stations : ((s.addressed h).rewriteLane l c).stations = s.stations :=
    only.stations.trans (by rw [State.judgedLane, frame]; rfl)
  obtain ⟨cfg, service, grace, valid, moves, keeps, storm, mid, high, band⟩ := rewriteLane_lane (s := s.addressed h) hlen c
  refine ⟨_, accepted, answered_replied own 13 .done [], settled.config.trans (rewriteLane_config _ l c),
    settled.points.trans points, settled.stations.trans stations, ?_⟩
  rw [lane_congr settled.lanes]
  refine ⟨cfg, service, grace, valid, moves, keeps, storm, mid, high, band, ?_⟩
  rw [rewritten]
  rfl

end Sys2Proof.Machine
end

section
/-! LANE_SERVICE: a lane's zones go to OFF and come out of it (R66, R67). -/

namespace Sys2Proof.Machine

open Sys2Proof

variable {s t u : State} {l z : Nat}

/-! ### One zone -/

theorem dropPassage_eq (s : State) (x : HandTarget) : s.dropPassage x = { s with hand := s.hand.filter fun p => p.target ≠ x } := by
  have same : (fun p : Passage => p.target != x) = fun p => decide (p.target ≠ x) := by
    funext p
    rw [Bool.eq_iff_iff]
    simp
  unfold State.dropPassage
  rw [same]

theorem dropPassage_onlyZones (s : State) (x : HandTarget) (Z : Set Nat) : s.OnlyZones Z (s.dropPassage x) :=
  ⟨fun _ _ => rfl, rfl, rfl, rfl, rfl, rfl, rfl, rfl, rfl, rfl, rfl, rfl, rfl⟩

/-- R66: a zone whose lane goes out of service. -/
def State.zoneOff (s : State) (z : Nat) : State :=
  let gone := (s.dropPassage ⟨.zone, z⟩).enterOff z
  if (gone.zone z).cfg.configured then gone.offerDrive (gone.zone z).cfg.valve (.position 0) else gone

/-- R67: a zone whose lane comes into service. -/
def State.zoneOn (s : State) (z : Nat) : State := if (s.zone z).cfg.configured then s.leaveOff z else s

theorem zoneOff_onlyZone (s : State) (z : Nat) : s.OnlyZone z (s.zoneOff z) := by
  have gone := (onlyZone_changes z s).enterOff (dropPassage_onlyZones s ⟨.zone, z⟩ {z})
  exact ite_keeps (gone.trans (offerExpress_onlyZones _ _ _)) gone

theorem zoneOn_onlyZone (s : State) (z : Nat) : s.OnlyZone z (s.zoneOn z) :=
  ite_keeps ((onlyZone_changes z s).leaveOff (.refl _ s)) (.refl _ s)

theorem zoneOff_hand (s : State) (z : Nat) : (s.zoneOff z).hand = s.hand.filter fun p => p.target ≠ ⟨.zone, z⟩ := by
  have changes := hand_changes z (s.hand.filter fun p => p.target ≠ ⟨.zone, z⟩)
  have gone := changes.enterOff (congrArg State.hand (dropPassage_eq s ⟨.zone, z⟩))
  exact ite_keeps (P := fun u => u.hand = _) (changes.express _ gone) gone

theorem zoneOn_hand (s : State) (z : Nat) : (s.zoneOn z).hand = s.hand :=
  ite_keeps (P := fun u => u.hand = s.hand) ((hand_changes z s.hand).leaveOff rfl) rfl

/-- R66: the record of a zone whose lane goes out of service. -/
theorem zoneOff_zone (s : State) (z : Nat) : (s.zoneOff z).zone z = ((s.dropPassage ⟨.zone, z⟩).enterOff z).zone z :=
  ite_keeps (P := fun u => u.zone z = ((s.dropPassage ⟨.zone, z⟩).enterOff z).zone z) (offerExpress_zone _ _ z) rfl

theorem zoneOff_stops (hz : z < s.zones.length) (hm : (s.zone z).mode ≠ .off) :
    ((s.zone z).stopped s.uptime).Judged ((s.zoneOff z).zone z) := by
  rw [zoneOff_zone]
  exact enterOff_zone (s := s.dropPassage ⟨.zone, z⟩) hz hm

theorem zoneOff_stays (hm : (s.zone z).mode = .off) : (s.zoneOff z).zone z = s.zone z := by
  have stays : (s.dropPassage ⟨.zone, z⟩).enterOff z = s.dropPassage ⟨.zone, z⟩ := if_pos hm
  rw [zoneOff_zone, stays]
  rfl

/-- R67: the record of a configured zone whose lane comes into service. -/
theorem zoneOn_zone (hz : z < s.zones.length) (hc : (s.zone z).cfg.configured = true) :
    let x := s.zone z
    let y := (s.zoneOn z).zone z
    y.causes = s.causesNow z ∧ y.mode = (if (s.causesNow z).isEmpty then .auto else .fallback)
      ∧ ((s.causesNow z).isEmpty = true → y.desired = x.cfg.fallbackPos ∧ y.trimDeadline = some (s.uptime + x.cfg.trimPeriod)) := by
  have on : s.zoneOn z = s.leaveRest z (s.zone z).cfg.fallbackPos := if_pos hc
  intro x y
  rw [show y = (s.leaveRest z x.cfg.fallbackPos).zone z from congrArg (State.zone · z) on]
  obtain h | h := Bool.eq_false_or_eq_true (s.causesNow z).isEmpty
  · have leaves : s.leaveRest z x.cfg.fallbackPos = s.enterAuto z x.cfg.fallbackPos := if_pos h
    have none : s.causesNow z = .none := (Causes.isEmpty_iff _).mp h
    rw [leaves, enterAuto_zone hz, if_pos h, none]
    exact ⟨rfl, rfl, fun _ => ⟨rfl, rfl⟩⟩
  · have unmet : (s.causesNow z).isEmpty ≠ true := by
      rw [h]
      exact Bool.false_ne_true
    have leaves : s.leaveRest z x.cfg.fallbackPos = s.enterFallback z (s.causesNow z) 0 := if_neg unmet
    rw [leaves, enterFallback_zone hz, if_neg unmet]
    exact ⟨rfl, rfl, fun k => absurd k unmet⟩

/-! ### The lane -/

theorem laneOff_eq (s : State) (l : Nat) : s.laneOff l
    = s.judgeLane l ((laneZones l).foldl State.zoneOff (s.modLane l fun x => { x with inService := false })) := by
  unfold State.laneOff
  exact congrArg (s.judgeLane l) (each_laneZones State.zoneOff l _)

theorem laneOn_eq (s : State) (l : Nat) : s.laneOn l
    = s.judgeLane l ((laneZones l).foldl State.zoneOn (s.modLane l fun x => { x with inService := true })) := rfl

theorem laneOff_hand (s : State) (l : Nat) :
    (s.laneOff l).hand = s.hand.filter fun p => ∀ i < 4, p.target ≠ ⟨.zone, l * 4 + i⟩ := by
  have turns (zs : List Nat) (u : State) :
      (zs.foldl State.zoneOff u).hand = u.hand.filter fun p => ∀ z ∈ zs, p.target ≠ ⟨.zone, z⟩ := by
    induction zs generalizing u with
    | nil => simp
    | cons z zs ih =>
      rw [List.foldl_cons, ih, zoneOff_hand, List.filter_filter]
      exact List.filter_congr fun p _ => by simp [Bool.and_comm]
  rw [laneOff_eq, judgeLane_hand, turns]
  refine List.filter_congr fun p _ => decide_eq_decide.mpr ⟨fun h i hi => h _ ?_, fun h z hz => ?_⟩
  · rw [mem_laneZones]
    omega
  · have place : z = l * 4 + z % 4 := by
      have := (mem_laneZones l z).mp hz
      omega
    rw [place]
    exact h _ (Nat.mod_lt _ (by decide))

theorem laneOn_hand (s : State) (l : Nat) : (s.laneOn l).hand = s.hand := by
  rw [laneOn_eq, judgeLane_hand]
  exact foldl_keeps (P := fun u => u.hand = s.hand) (fun u z h => (zoneOn_hand u z).trans h) _ rfl

/-- What the zones' turns and the lane's judgement leave alone, and what they make of a zone of the lane: its own turn, from a state
in which it and the rest of the plant still are as they were. -/
theorem service_frame {g : State → Nat → State} (hg : ∀ (u : State) (z : Nat), u.OnlyZone z (g u z)) (s : State) (l : Nat)
    (f : Lane → Lane) : let t := s.judgeLane l ((laneZones l).foldl g (s.modLane l f))
    t.points = s.points ∧ t.stations = s.stations
      ∧ ∀ z, z / 4 = l → ∃ u, (s.modLane l f).OnlyZones {z}ᶜ u ∧ ((g u z).zone z).Judged (t.zone z) := by
  have turns := foldl_onlyZones hg (laneZones l) (s.modLane l f)
  have judged := judgeLane_onlyZones s ((laneZones l).foldl g (s.modLane l f)) l
  refine ⟨judged.points.trans turns.points, judged.stations.trans turns.stations, fun z hz => ?_⟩
  obtain ⟨u, before, after⟩ := foldl_zone hg (nodup_laneZones l) (s.modLane l f) ((mem_laneZones l z).mpr hz)
  refine ⟨u, before, ?_⟩
  rw [← after]
  exact judgeLane_judged s _ l z

/-- R66: the lane's zones after its going out of service. -/
theorem laneOff_zone (hz : z / 4 = l) (hlen : z < s.zones.length) : let x := s.zone z
    let y := (s.laneOff l).zone z
    y.mode = .off ∧ (x.mode ≠ .off → y.desired = 0 ∧ y.grant = 0 ∧ y.cap = 0 ∧ y.causes = .none ∧ y.trimDeadline = none) := by
  obtain ⟨-, -, zones⟩ := service_frame zoneOff_onlyZone s l fun x => { x with inService := false }
  obtain ⟨u, before, judged⟩ := zones z hz
  have same : u.zone z = s.zone z := before.reads.1
  rw [← laneOff_eq] at judged
  intro x y
  rw [show y = _ from judged]
  by_cases hm : (u.zone z).mode = .off
  · rw [zoneOff_stays hm]
    exact ⟨hm, fun k => absurd ((congrArg Zone.mode same).symm.trans hm) k⟩
  · have stopped := zoneOff_stops (before.length.symm ▸ hlen) hm
    rw [stopped]
    exact ⟨rfl, fun _ => ⟨rfl, rfl, rfl, rfl, rfl⟩⟩

/-- R67: the lane's configured zones after its coming into service. -/
theorem laneOn_zone (hz : z / 4 = l) (hlen : z < s.zones.length) (hc : (s.zone z).cfg.configured = true) :
    let x := s.zone z
    let y := (s.laneOn l).zone z
    y.causes = s.causesNow z ∧ y.mode = (if (s.causesNow z).isEmpty then .auto else .fallback)
      ∧ ((s.causesNow z).isEmpty = true → y.desired = x.cfg.fallbackPos ∧ y.trimDeadline = some (s.uptime + x.cfg.trimPeriod)) := by
  obtain ⟨-, -, zones⟩ := service_frame zoneOn_onlyZone s l fun x => { x with inService := true }
  obtain ⟨u, before, judged⟩ := zones z hz
  obtain ⟨same, causes, -⟩ := before.reads
  have on := zoneOn_zone (s := u) (before.length.symm ▸ hlen) (by rw [same]; exact hc)
  rw [same, causes, before.uptime] at on
  rw [← laneOn_eq] at judged
  intro x y
  rw [show y = _ from judged]
  exact on

theorem laneOff_config (s : State) (l : Nat) : (s.laneOff l).config
    = { s.config with lanes := s.config.lanes.modify l fun x => (false, x.2) } := by
  let conf := { s.config with lanes := s.config.lanes.modify l fun x => (false, x.2) }
  have plant := config_plant conf
  rw [laneOff_eq]
  refine plant.judgeLane (foldl_keeps (P := fun u => u.config = conf) (fun u z h => ?_) _ (config_modLane (fun _ => rfl) s l)) s l
  have gone := plant.enterOff (plant.passage ⟨.zone, z⟩ h) z
  exact ite_keeps (P := fun v => v.config = conf) (plant.offerDrive gone _ _) gone

theorem laneOn_config (s : State) (l : Nat) : (s.laneOn l).config
    = { s.config with lanes := s.config.lanes.modify l fun x => (true, x.2) } := by
  let conf := { s.config with lanes := s.config.lanes.modify l fun x => (true, x.2) }
  have plant := config_plant conf
  rw [laneOn_eq]
  refine plant.judgeLane (foldl_keeps (P := fun u => u.config = conf) (fun u z h => ?_) _ (config_modLane (fun _ => rfl) s l)) s l
  exact ite_keeps (P := fun v => v.config = conf) (plant.leaveOff h z) h

/-! ### The request -/

theorem exec_laneService {c : Instr} {h : Hdr} {on : Bool} (hq : c.request = some ⟨h, .laneService l on⟩) (hs : s.ready)
    (hl : l < 6) : exec c s = .next ((if (s.lane l).inService = on then s.addressed h
      else if on then (s.addressed h).laneOn l else (s.addressed h).laneOff l).answered h 14 .done []) := by
  have handled : handleLaneService l on (s.addressed h) = (if (s.lane l).inService = on then s.addressed h
      else if on then (s.addressed h).laneOn l else (s.addressed h).laneOff l).done := by
    refine (if_neg (Nat.not_le.mpr hl)).trans ?_
    rw [apply_ite State.done, apply_ite State.done]
    rfl
  exact exec_done hq hs (congrArg (fun x : Handled => (x.state, some (x.status, x.report))) handled)

/-- R66: the entry to OFF. -/
theorem enterOff_eq (hm : (s.zone z).mode ≠ .off) : s.enterOff z = ((((((s.modZone z fun y => { y with
    desired := 0, cap := 0, grant := 0, trimDeadline := none, mode := .off, causes := ⟨false, false⟩,
    lastModeChange := s.uptime }).offerNotice (.zoneModeChange z (s.zone z).mode .off ⟨false, false⟩ s.uptime)).clearAlarm
      .zoneDoInvalid (.zone z)).clearAlarm .zoneValveUnavailable (.zone z)).endDoLow z).endAir z) := by
  have moded := setMode_modZone (s := s) (z := z) (f := fun y => { y with desired := 0, cap := 0, grant := 0, trimDeadline := none })
    (fun _ => rfl) hm .none
  have off : s.enterOff z = _ := if_neg hm
  rw [off]
  exact congrArg (fun u : State => ((u.causeAlarms z (s.zone z).causes .none false).endDoLow z).endAir z) moded

theorem exec_laneServiceOff {h : Hdr} (hs : s.ready) (hl : l < 6) (k : (s.lane l).inService = true) :
    exec (.laneServiceOff h l) s = .next (((s.addressed h).laneOff l).answered h 14 .done []) := by
  rw [exec_laneService (c := .laneServiceOff h l) (on := false) rfl hs hl, if_neg (by rw [k]; decide), if_neg Bool.false_ne_true]

theorem exec_laneServiceOn {h : Hdr} (hs : s.ready) (hl : l < 6) (k : (s.lane l).inService = false) :
    exec (.laneServiceOn h l) s = .next (((s.addressed h).laneOn l).answered h 14 .done []) := by
  rw [exec_laneService (c := .laneServiceOn h l) (on := true) rfl hs hl, if_neg (by rw [k]; decide), if_pos rfl]

theorem zoneOff_eq (u : State) (z : Nat) : u.zoneOff z =
    let gone := ({ u with hand := u.hand.filter fun p => p.target ≠ ⟨.zone, z⟩ } : State).enterOff z
    if (gone.zone z).cfg.configured then gone.offerDrive (gone.zone z).cfg.valve (.position 0) else gone := by
  unfold State.zoneOff
  rw [dropPassage_eq]

/-- Settles O24: the zones of the lane in turn, the hand table, then the lane's judgement. -/
theorem laneServiceMovesItsZones : Obligations.LaneServiceMovesItsZones := by
  refine ⟨fun s h l hs hl hlen hzones => ?_, fun s z => ⟨fun hm => if_pos hm, fun hm => enterOff_eq hm⟩⟩
  intro a
  have goesOff := exec_laneServiceOff (h := h) hs hl
  have comesOn := exec_laneServiceOn (h := h) hs hl
  have offOwn : (a.laneOff l).port.own = a.port.own := (ownPort_effects _).laneOff rfl l
  have onOwn : (a.laneOn l).port.own = a.port.own := (ownPort_effects _).laneOn rfl l
  have zone (i : Nat) (hi : i < 4) : (l * 4 + i) / 4 = l ∧ l * 4 + i < a.zones.length := by
    refine ⟨by omega, ?_⟩
    change l * 4 + i < s.zones.length
    omega
  refine ⟨fun k => ?_, fun k => ?_, fun k => ?_, fun k => ?_, fun k => ?_, fun k => ?_⟩
  · rw [exec_laneService (c := .laneServiceOff h l) (on := false) rfl hs hl, if_pos k]
  · rw [exec_laneService (c := .laneServiceOn h l) (on := true) rfl hs hl, if_pos k]
  · have settled := Settled.answered (a.laneOff l) h 14 .done []
    obtain ⟨points, stations, -⟩ := service_frame zoneOff_onlyZone a l fun x => { x with inService := false }
    rw [← laneOff_eq] at points stations
    refine ⟨_, goesOff k, answered_replied offOwn 14 .done [], settled.config.trans (laneOff_config a l),
      settled.hand.trans (laneOff_hand a l), settled.points.trans points, settled.stations.trans stations, fun i hi => ?_⟩
    intro z
    rw [zone_congr settled.zones]
    exact laneOff_zone (s := a) (zone i hi).1 (zone i hi).2
  · have settled := Settled.answered (a.laneOn l) h 14 .done []
    obtain ⟨points, stations, -⟩ := service_frame zoneOn_onlyZone a l fun x => { x with inService := true }
    rw [← laneOn_eq] at points stations
    refine ⟨_, comesOn k, answered_replied onOwn 14 .done [], settled.config.trans (laneOn_config a l),
      settled.hand.trans (laneOn_hand a l), settled.points.trans points, settled.stations.trans stations, fun i hi => ?_⟩
    intro z hc
    rw [zone_congr settled.zones]
    exact laneOn_zone (s := a) (zone i hi).1 (zone i hi).2 hc
  · have turns : (fun (u : State) (i : Nat) => u.zoneOff (l * 4 + i)) = _ := funext₂ fun u i => zoneOff_eq u (l * 4 + i)
    rw [goesOff k, laneOff_eq, ← each_laneZones, State.each]
    exact congrArg (fun g : State → Nat → State => Host.Outcome.next ((a.judgeLane l ([0, 1, 2, 3].foldl g
      (a.modLane l fun x => { x with inService := false }))).answered h 14 .done [])) turns
  · exact comesOn k

end Sys2Proof.Machine
end

section
/-! ZONE_WRITE (R68). The rewrite in its steps, the record it leaves, and its next state written out. -/

namespace Sys2Proof.Machine

open Sys2Proof

variable {P : State → Prop} {s t u : State} {y z : Nat} {c : Causes}

/-! ### The trim timer and the alarms -/

theorem modAlarms_modZone (s : State) (z : Nat) (f : Zone → Zone) (g : Alarms → Alarms) :
    (s.modZone z f).modAlarms g = (s.modAlarms g).modZone z f := rfl

theorem offerNotice_modZone (s : State) (z : Nat) (f : Zone → Zone) (n : Notice) :
    (s.modZone z f).offerNotice n = (s.offerNotice n).modZone z f := rfl

/-- A change of a zone's record that no alarm record reads. -/
def Quiet (f : Zone → Zone) : Prop := ∀ x, (f x).mode = x.mode ∧ (f x).causes = x.causes

section
variable {f : Zone → Zone} (hf : Quiet f)
include hf

theorem pinned_modZone (s : State) (z : Nat) (code : AlarmCode) (src : Source) :
    (s.modZone z f).pinned code src = s.pinned code src := by
  have mode (y : Nat) : ((s.modZone z f).zone y).mode = (s.zone y).mode := zone_modZone_of_fix Zone.mode (fun x => (hf x).1) y z
  have causes (y : Nat) : ((s.modZone z f).zone y).causes = (s.zone y).causes :=
    zone_modZone_of_fix Zone.causes (fun x => (hf x).2) y z
  unfold State.pinned
  simp only [mode, causes]
  rfl

theorem noteAlarm_modZone (s : State) (z : Nat) (a : AlarmAction) (r : AlarmRecord) (removed : Bool) :
    (s.modZone z f).noteAlarm a r removed = (s.noteAlarm a r removed).modZone z f := by
  unfold State.noteAlarm State.view
  rw [pinned_modZone hf]
  rfl

theorem evictee_modZone (s : State) (z : Nat) (code : AlarmCode) (src : Source) :
    (s.modZone z f).evictee code src = s.evictee code src := by
  unfold State.evictee
  simp only [pinned_modZone hf]
  rfl

theorem view_modZone (s : State) (z : Nat) (r : AlarmRecord) : (s.modZone z f).view r = s.view r := by
  unfold State.view
  rw [pinned_modZone hf]
  rfl

theorem insertRecord_modZone (s : State) (z : Nat) (code : AlarmCode) (src : Source) (v : Option Nat) :
    (s.modZone z f).insertRecord code src v = (s.insertRecord code src v).modZone z f := by
  unfold State.insertRecord
  dsimp only
  rw [modAlarms_modZone, noteAlarm_modZone hf]
  rfl

theorem raiseAlarm_modZone (s : State) (z : Nat) (code : AlarmCode) (src : Source) (v : Option Nat) :
    (s.modZone z f).raiseAlarm code src v = (s.raiseAlarm code src v).modZone z f := by
  have record : (s.modZone z f).record code src = s.record code src := rfl
  unfold State.raiseAlarm
  rw [record, evictee_modZone hf]
  dsimp only
  split
  · rw [modAlarms_modZone, noteAlarm_modZone hf]
    rfl
  · simp only [State.modZone_alarms, modAlarms_modZone, offerNotice_modZone, insertRecord_modZone hf, view_modZone hf]
    split_ifs
    · rfl
    · split <;> rfl

theorem clearAlarm_modZone (s : State) (z : Nat) (code : AlarmCode) (src : Source) :
    (s.modZone z f).clearAlarm code src = (s.clearAlarm code src).modZone z f := by
  have record : (s.modZone z f).record code src = s.record code src := rfl
  unfold State.clearAlarm
  rw [record]
  dsimp only
  split
  · rfl
  · split <;> simp only [modAlarms_modZone, noteAlarm_modZone hf] <;> rfl

theorem causeAlarm_modZone (s : State) (z : Nat) (code : AlarmCode) (was is entry : Bool) :
    (s.modZone z f).causeAlarm z code was is entry = (s.causeAlarm z code was is entry).modZone z f := by
  unfold State.causeAlarm
  rw [raiseAlarm_modZone hf, clearAlarm_modZone hf]
  split_ifs <;> rfl

theorem causeAlarms_modZone (s : State) (z : Nat) (old new : Causes) (entry : Bool) :
    (s.modZone z f).causeAlarms z old new entry = (s.causeAlarms z old new entry).modZone z f := by
  unfold State.causeAlarms
  rw [causeAlarm_modZone hf, causeAlarm_modZone hf]

end

theorem driveAlone_modZone (s : State) (z : Nat) (f : Zone → Zone) (cfg : ZoneCfg) (c : Causes) :
    (s.modZone z f).driveAlone cfg c = (s.driveAlone cfg c).modZone z f := by
  unfold State.driveAlone
  split_ifs <;> rfl

end Sys2Proof.Machine
end

section
/-! ZONE_WRITE (R68) in its steps: what it leaves alone, and the record it leaves. -/

namespace Sys2Proof.Machine

open Sys2Proof

variable {P : State → Prop} {s t u : State} {z : Nat} {c cfg : ZoneCfg} {old : Zone} {mode : ZoneMode}

/-! ### The steps -/

/-- R68, steps 1 and 2: the passage and both spells have ended, the configuration is the new one. -/
def State.calmed (s : State) (z : Nat) (cfg : ZoneCfg) : State :=
  (((s.dropPassage ⟨.zone, z⟩).modZone z fun x => { x with cfg := cfg }).endDoLow z).endAir z

/-- R68, step 3: the mode under the new configuration. -/
def State.derived (u : State) (z : Nat) (cfg : ZoneCfg) (old : Zone) (mode : ZoneMode) : State :=
  if !cfg.configured || !(u.lane (laneOf z)).inService then u.enterOff z
  else match mode with
    | .waiting => u.rewriteWaiting z old
    | .off => u.leaveOff z
    | .auto | .fallback | .hand => u.rewriteTrimming z old

/-- R68, step 4: the trim timer restarts. -/
def State.retimed (u : State) (z : Nat) : State :=
  if (u.zone z).mode = .auto ∨ (u.zone z).mode = .fallback then u.startTrim z else u

/-- R50, R61: the judgements of a changed setpoint or desired position. -/
def State.rejudged (s u : State) (z : Nat) : State :=
  if s.setpoint z = u.setpoint z then (if (s.zone z).desired = (u.zone z).desired then u else u.judgeAir z) else u.judgeSetpoint z

/-- The mode of a zone, of one that is held the mode it was held in. -/
def Zone.ownMode (x : Zone) : ZoneMode := if x.mode = .hand then x.modeBeforeHand else x.mode

theorem rewriteZone_eq (s : State) (z : Nat) (cfg : ZoneCfg) : s.rewriteZone z cfg
    = s.rejudged ((((s.calmed z cfg).derived z cfg (s.zone z) (s.zone z).ownMode).retimed z).lowerWaitingGrant z) z := rfl

theorem derived_cases {P : State → Prop} (off : P (u.enterOff z)) (waiting : P (u.rewriteWaiting z old)) (leave : P (u.leaveOff z))
    (trimming : P (u.rewriteTrimming z old)) (cfg : ZoneCfg) (mode : ZoneMode) : P (u.derived z cfg old mode) := by
  unfold State.derived
  split
  · exact off
  · cases mode <;> assumption

/-! ### What it leaves alone -/

section
variable (hP : ZoneChanges z P)
include hP

theorem ZoneChanges.rewriteTrimming (h : P s) (old : Zone) : P (s.rewriteTrimming z old) := by
  have trims (d : Nat) (e : Bool) (m : ZoneMode) (k : Causes) :
      P (((s.modZone z fun x => { x with desired := d }).setMode z m k).causeAlarms z old.causes k e) :=
    hP.causeAlarms (hP.setMode (hP.zone _ h) _ _) _ _ _
  exact ite_keeps (ite_keeps (hP.zone _ h) (hP.enterAuto h _)) (ite_keeps (hP.offerFallback (trims _ _ _ _)) (trims _ _ _ _))

theorem ZoneChanges.rewriteWaiting (h : P s) (old : Zone) : P (s.rewriteWaiting z old) :=
  ite_keeps (hP.enterAuto h _) (ite_keeps (hP.leaveWaiting h)
    (ite_keeps (hP.causeAlarms (hP.setMode (hP.zone _ h) _ _) _ _ _) (hP.zone _ h)))

theorem ZoneChanges.rewriteZone (h : P (s.dropPassage ⟨.zone, z⟩)) (cfg : ZoneCfg) : P (s.rewriteZone z cfg) := by
  have calmed : P (s.calmed z cfg) := hP.endAir (hP.endDoLow (hP.zone _ h))
  have derived : P ((s.calmed z cfg).derived z cfg (s.zone z) (s.zone z).ownMode) :=
    derived_cases (hP.enterOff calmed) (hP.rewriteWaiting calmed _) (hP.leaveOff calmed) (hP.rewriteTrimming calmed _) _ _
  have retimed : P (State.retimed _ z) := ite_keeps (hP.startTrim derived) derived
  have lowered : P (State.lowerWaitingGrant _ z) := ite_keeps (hP.zone _ retimed) retimed
  rw [rewriteZone_eq]
  exact ite_keeps (ite_keeps lowered (hP.judgeAir lowered)) (hP.judgeSetpoint lowered)

end

theorem AirBlocks.rewriteZone_of_calmed (hP : AirBlocks P) (h : P (s.calmed z cfg)) : P (s.rewriteZone z cfg) := by
  have derived : P ((s.calmed z cfg).derived z cfg (s.zone z) (s.zone z).ownMode) :=
    derived_cases (hP.enterOff h z) (hP.rewriteWaiting h z _) (hP.leaveOff h z) (hP.rewriteTrimming h z _) _ _
  have retimed : P (State.retimed _ z) := ite_keeps (hP.startTrim derived z) derived
  have lowered := hP.lowerWaitingGrant retimed z
  rw [rewriteZone_eq]
  exact ite_keeps (ite_keeps lowered (hP.judgeAir lowered z)) (hP.judgeSetpoint lowered z)

theorem rewriteZone_onlyZone (s : State) (z : Nat) (cfg : ZoneCfg) : s.OnlyZone z (s.rewriteZone z cfg) :=
  (onlyZone_changes z s).rewriteZone (dropPassage_onlyZones s _ _) cfg

theorem calmed_onlyZone (s : State) (z : Nat) (cfg : ZoneCfg) : s.OnlyZone z (s.calmed z cfg) :=
  have changes := onlyZone_changes z s
  changes.endAir (changes.endDoLow (changes.zone _ (dropPassage_onlyZones s _ _)))

theorem rewriteZone_hand (s : State) (z : Nat) (cfg : ZoneCfg) :
    (s.rewriteZone z cfg).hand = s.hand.filter fun p => p.target ≠ ⟨.zone, z⟩ :=
  (hand_changes z _).rewriteZone (congrArg State.hand (dropPassage_eq s ⟨.zone, z⟩)) cfg

theorem endDoLow_zone (hz : z < s.zones.length) : (s.endDoLow z).zone z = { s.zone z with doLow := ⟨none, false⟩ } :=
  (clearAlarm_zone _ _ _ _).trans (State.zone_modZone_same hz _)

theorem endAir_zone (hz : z < s.zones.length) : (s.endAir z).zone z = { s.zone z with air := ⟨none, false⟩ } :=
  (clearAlarm_zone _ _ _ _).trans (State.zone_modZone_same hz _)

theorem calmed_zone (hz : z < s.zones.length) (cfg : ZoneCfg) :
    (s.calmed z cfg).zone z = { s.zone z with cfg := cfg, doLow := ⟨none, false⟩, air := ⟨none, false⟩ } := by
  let written := (s.dropPassage ⟨.zone, z⟩).modZone z fun x => { x with cfg := cfg }
  have length : z < written.zones.length := by simpa [written, State.dropPassage] using hz
  have record : written.zone z = { s.zone z with cfg := cfg } := State.zone_modZone_same (s := s.dropPassage ⟨.zone, z⟩) hz _
  have longer : z < (written.endDoLow z).zones.length :=
    ((onlyZone_changes z written).endDoLow (.refl _ _)).length ▸ length
  unfold State.calmed
  rw [endAir_zone longer, endDoLow_zone length, record]

theorem rewriteZone_cfg (hz : z < s.zones.length) (cfg : ZoneCfg) : ((s.rewriteZone z cfg).zone z).cfg = cfg :=
  (zoneCfg_air z cfg).rewriteZone_of_calmed (by rw [calmed_zone hz])

theorem rewriteZone_config (s : State) (z : Nat) (cfg : ZoneCfg) :
    (s.rewriteZone z cfg).config = { s.config with zones := s.config.zones.modify z fun _ => cfg } := by
  have plant := config_plant { s.config with zones := s.config.zones.modify z fun _ => cfg }
  have written : ((s.dropPassage ⟨.zone, z⟩).modZone z fun x => { x with cfg := cfg }).config
      = { s.config with zones := s.config.zones.modify z fun _ => cfg } :=
    congrArg (fun k => { s.config with zones := k }) (map_modify_const Zone.cfg (f := fun x => { x with cfg := cfg }) (fun _ => rfl) s.zones z)
  exact plant.rewriteZone_of_calmed (plant.endAir (plant.endDoLow written z) z)

/-! ### The record it leaves -/

theorem derived_off (h : cfg.configured = false ∨ (u.lane (z / 4)).inService = false) : u.derived z cfg old mode = u.enterOff z := by
  refine if_pos ?_
  unfold laneOf
  obtain h | h := h <;> simp [h]

theorem derived_on (hc : cfg.configured = true) (hl : (u.lane (z / 4)).inService = true) : u.derived z cfg old mode =
    match mode with
    | .waiting => u.rewriteWaiting z old
    | .off => u.leaveOff z
    | .auto | .fallback | .hand => u.rewriteTrimming z old := by
  refine if_neg ?_
  unfold laneOf
  simp [hc, hl]

/-- R68, steps 4 and 5: the record after the step that gives the mode. -/
def Zone.rewritten (x : Zone) (now : Nat) : Zone :=
  if x.mode = .auto ∨ x.mode = .fallback then x.timed now
  else if x.mode = .waiting ∧ x.cfg.mixingFloor < x.grant then
    { x with grant := x.cfg.mixingFloor, cap := capOf x.cfg.mixingFloor x.cfg.fullOpenAir }
  else x

theorem Zone.rewritten_of_off {x : Zone} (h : x.mode = .off) (now : Nat) : x.rewritten now = x :=
  (if_neg (by simp [h])).trans (if_neg (by simp [h]))

theorem Zone.rewritten_of_waiting {x : Zone} (h : x.mode = .waiting) (now : Nat) : let y := x.rewritten now
    y.mode = .waiting ∧ y.desired = x.desired ∧ y.trimDeadline = x.trimDeadline ∧ y.causes = x.causes
      ∧ y.grant = min x.grant x.cfg.mixingFloor := by
  have waits : x.rewritten now = if x.mode = .waiting ∧ x.cfg.mixingFloor < x.grant then _ else x := if_neg (by simp [h])
  intro y
  rw [show y = _ from waits]
  split_ifs with lower
  · exact ⟨h, rfl, rfl, rfl, (Nat.min_eq_right (Nat.le_of_lt lower.2)).symm⟩
  · exact ⟨h, rfl, rfl, rfl, (Nat.min_eq_left (Nat.not_lt.mp fun k => lower ⟨h, k⟩)).symm⟩

theorem lowerWaitingGrant_zone (hz : z < u.zones.length) : ((u.retimed z).lowerWaitingGrant z).zone z = (u.zone z).rewritten u.uptime := by
  unfold State.retimed Zone.rewritten
  by_cases hm : (u.zone z).mode = .auto ∨ (u.zone z).mode = .fallback
  · rw [if_pos hm, if_pos hm]
    have timed : (u.startTrim z).zone z = (u.zone z).timed u.uptime := startTrim_zone hz
    have still : ((u.startTrim z).zone z).mode ≠ .waiting := by
      rw [timed]
      obtain k | k := hm <;> simp [Zone.timed, k]
    rw [← timed]
    exact congrArg (State.zone · z) (if_neg fun k => still k.1)
  · rw [if_neg hm, if_neg hm]
    unfold State.lowerWaitingGrant
    dsimp only
    split_ifs
    · exact State.zone_modZone_same hz _
    · rfl

theorem rejudged_judged (s u : State) (z : Nat) : (u.zone z).Judged ((s.rejudged u z).zone z) :=
  ite_keeps (P := fun t => (u.zone z).Judged (t.zone z)) (ite_keeps (P := fun t => (u.zone z).Judged (t.zone z)) rfl
    (judgeAir_judged u z)) (judgeSetpoint_judged u z)

theorem derived_onlyZone (u : State) (z : Nat) (cfg : ZoneCfg) (old : Zone) (mode : ZoneMode) :
    u.OnlyZone z (u.derived z cfg old mode) :=
  have changes := onlyZone_changes z u
  derived_cases (changes.enterOff (.refl _ u)) (changes.rewriteWaiting (.refl _ u) old) (changes.leaveOff (.refl _ u))
    (changes.rewriteTrimming (.refl _ u) old) cfg mode

/-- The record after the write, from the record the step of the mode leaves. -/
theorem rewriteZone_judged (hz : z < s.zones.length) (cfg : ZoneCfg) :
    ((((s.calmed z cfg).derived z cfg (s.zone z) (s.zone z).ownMode).zone z).rewritten s.uptime).Judged
      ((s.rewriteZone z cfg).zone z) := by
  have calmed := calmed_onlyZone s z cfg
  have derived := calmed.trans (derived_onlyZone (s.calmed z cfg) z cfg (s.zone z) (s.zone z).ownMode)
  rw [rewriteZone_eq, ← derived.uptime, ← lowerWaitingGrant_zone (derived.length ▸ hz)]
  exact rejudged_judged s _ z

/-- R55, R68: the desired position in FALLBACK under the new configuration. -/
def State.trimmedPosition (u : State) (z : Nat) (old : Zone) : Nat :=
  let cfg := (u.zone z).cfg
  let c := u.causesNow z
  if c.valveUnavailable && !old.causes.valveUnavailable then u.trackedPosition z (min old.desired old.cap)
  else if c.doAlone && !old.causes.doAlone then cfg.fallbackPos else clampNat cfg.minPos cfg.maxPos old.desired

/-- R68: the zone in FALLBACK with the causes that hold, before the express DRIVE. -/
def State.fell (u : State) (z : Nat) (old : Zone) : State :=
  ((u.modZone z fun x => { x with desired := u.trimmedPosition z old }).setMode z .fallback (u.causesNow z)).causeAlarms z old.causes
    (u.causesNow z) (old.mode != .fallback)

theorem rewriteTrimming_falls (h : (u.causesNow z).isEmpty ≠ true) : u.rewriteTrimming z old =
    if (u.causesNow z).doAlone && !old.causes.doAlone then (u.fell z old).offerFallback z else u.fell z old := if_neg h

/-- R68: a zone whose mode is derived from AUTO or FALLBACK. -/
theorem rewriteTrimming_zone (hz : z < u.zones.length) (hm : (u.zone z).mode = old.mode) : let y := (u.rewriteTrimming z old).zone z
    y.mode = (if (u.causesNow z).isEmpty then .auto else .fallback) ∧ ((u.causesNow z).isEmpty = false → y.causes = u.causesNow z) := by
  intro y
  obtain h | h := Bool.eq_false_or_eq_true (u.causesNow z).isEmpty
  · rw [if_pos h]
    refine ⟨?_, fun k => absurd (h.symm.trans k) (by decide)⟩
    have trims : u.rewriteTrimming z old = if old.mode = .auto then _ else _ := if_pos h
    by_cases auto : old.mode = .auto
    · rw [show y = _ from congrArg (State.zone · z) (trims.trans (if_pos auto)), State.zone_modZone_same hz]
      exact hm.trans auto
    · rw [show y = _ from congrArg (State.zone · z) (trims.trans (if_neg auto)), enterAuto_zone hz]
      rfl
  · have unmet : (u.causesNow z).isEmpty ≠ true := by
      rw [h]
      exact Bool.false_ne_true
    rw [if_neg unmet]
    have record : (u.fell z old).zone z
        = ((u.zone z).placed (u.trimmedPosition z old)).moded u.uptime .fallback (u.causesNow z) := by
      unfold State.fell
      rw [(causeAlarms_only _ _ _ _ _).zone, setMode_zone (by simpa using hz), State.zone_modZone_same hz]
      rfl
    have fallen : y = (u.fell z old).zone z := by
      refine (congrArg (State.zone · z) (rewriteTrimming_falls unmet)).trans ?_
      exact ite_keeps (P := fun t => t.zone z = (u.fell z old).zone z) (offerExpress_zone _ _ z) rfl
    rw [fallen, record]
    exact ⟨rfl, fun _ => rfl⟩

/-- R65, R67: a zone that leaves WAITING or OFF, held or not. -/
theorem leaveRest_moded (hz : z < u.zones.length) (d : Nat) : let y := (u.leaveRest z d).zone z
    y.causes = u.causesNow z ∧ ((u.causesNow z).isEmpty = true → y.mode = .auto ∧ y.desired = d)
      ∧ ((u.causesNow z).isEmpty = false → y.mode = .fallback ∧ y.desired = u.fallbackPosition z (u.causesNow z) 0) := by
  intro y
  obtain h | h := Bool.eq_false_or_eq_true (u.causesNow z).isEmpty
  · have leaves : u.leaveRest z d = u.enterAuto z d := if_pos h
    have none : u.causesNow z = .none := (Causes.isEmpty_iff _).mp h
    rw [show y = _ from congrArg (State.zone · z) leaves, enterAuto_zone hz d]
    exact ⟨none.symm, fun _ => ⟨rfl, rfl⟩, fun k => absurd (h.symm.trans k) (by decide)⟩
  · have leaves : u.leaveRest z d = u.enterFallback z (u.causesNow z) 0 := if_neg (by rw [h]; exact Bool.false_ne_true)
    rw [show y = _ from congrArg (State.zone · z) leaves, enterFallback_zone hz]
    refine ⟨rfl, fun k => absurd (h.symm.trans k) (by decide), fun _ => ⟨rfl, ?_⟩⟩
    unfold Zone.fallen
    split_ifs <;> rfl

theorem readyForAuto_of (he : (u.causesNow z).isEmpty = true) : u.readyForAuto z = u.pool.firstPassDone := by
  unfold State.readyForAuto
  rw [he, Bool.true_and]

/-- R64, R65: a zone that was WAITING leaves it where its conditions are met or the start grace is over. -/
theorem rewriteWaiting_leaves (h : (u.causesNow z).isEmpty = true ∧ u.pool.firstPassDone = true ∨ (u.lane (z / 4)).graceExpired = true) :
    u.rewriteWaiting z old = u.leaveRest z (u.startPosition z) := by
  by_cases ready : u.readyForAuto z = true
  · have empty : (u.causesNow z).isEmpty = true := (Bool.and_eq_true_iff.mp ready).1
    exact (if_pos ready).trans (if_pos empty).symm
  · have expired : (u.lane (z / 4)).graceExpired = true :=
      h.resolve_left fun k => ready ((readyForAuto_of k.1).trans k.2)
    exact (if_neg ready).trans (if_pos expired)

/-- R68: else it waits on at desired position 0; one that was held returns to WAITING. -/
theorem rewriteWaiting_waits (hr : u.readyForAuto z ≠ true) (hg : (u.lane (z / 4)).graceExpired = false) :
    u.rewriteWaiting z old = if old.mode = .hand then
      ((u.modZone z fun x => { x with desired := 0, trimDeadline := none }).setMode z .waiting .none).causeAlarms z old.causes .none false
      else u.modZone z fun x => { x with desired := 0, trimDeadline := none } :=
  (if_neg hr).trans (if_neg (by unfold laneOf; rw [hg]; exact Bool.false_ne_true))

theorem rewriteWaiting_zone (hz : z < u.zones.length) (hr : u.readyForAuto z ≠ true) (hg : (u.lane (z / 4)).graceExpired = false) :
    (u.rewriteWaiting z old).zone z = if old.mode = .hand then
      Zone.moded { u.zone z with desired := 0, trimDeadline := none } u.uptime .waiting .none
      else { u.zone z with desired := 0, trimDeadline := none } := by
  rw [rewriteWaiting_waits hr hg]
  split_ifs
  · rw [(causeAlarms_only _ _ _ _ _).zone, setMode_zone (by simpa using hz), State.zone_modZone_same hz]
    rfl
  · exact State.zone_modZone_same hz _

/-! ### The zone after the write -/

section
variable (hz : z < s.zones.length)
include hz

/-- R68: a zone that is not configured, or whose lane is out of service. -/
theorem rewriteZone_off (h : cfg.configured = false ∨ (s.lane (z / 4)).inService = false) : let y := (s.rewriteZone z cfg).zone z
    y.mode = .off ∧ ((s.zone z).mode ≠ .off → y.grant = 0 ∧ y.cap = 0) := by
  have calmed := calmed_onlyZone s z cfg
  have record := calmed_zone hz cfg
  have judged := rewriteZone_judged hz cfg
  rw [derived_off (by rw [lane_congr calmed.lanes]; exact h)] at judged
  intro y
  by_cases off : (s.zone z).mode = .off
  · have stays : (s.calmed z cfg).enterOff z = s.calmed z cfg := if_pos ((congrArg Zone.mode record).trans off)
    rw [stays, Zone.rewritten_of_off (by rw [record]; exact off), record] at judged
    rw [show y = _ from judged]
    exact ⟨off, fun k => absurd off k⟩
  · have stops := enterOff_zone (s := s.calmed z cfg) (calmed.length ▸ hz) (by rw [record]; exact off)
    rw [show ((s.calmed z cfg).enterOff z).zone z = _ from stops, Zone.rewritten_of_off rfl] at judged
    rw [show y = _ from judged]
    exact ⟨rfl, fun _ => ⟨rfl, rfl⟩⟩

/-- A record in AUTO or FALLBACK keeps its parts through the rest of the write, and its trim timer restarts. -/
theorem rewriteZone_trimming {x : Zone}
    (hx : ((s.calmed z cfg).derived z cfg (s.zone z) (s.zone z).ownMode).zone z = x) (hm : x.mode = .auto ∨ x.mode = .fallback) :
    let y := (s.rewriteZone z cfg).zone z
    y.mode = x.mode ∧ y.causes = x.causes ∧ y.desired = x.desired ∧ y.trimDeadline = some (s.uptime + cfg.trimPeriod) := by
  have judged := rewriteZone_judged hz cfg
  have kept := (zoneCfg_air z cfg).rewriteZone_of_calmed (s := s) (by rw [calmed_zone hz])
  have timed : Zone.rewritten x s.uptime = x.timed s.uptime := if_pos hm
  rw [hx, timed] at judged
  rw [show (s.rewriteZone z cfg).zone z = _ from judged] at kept ⊢
  refine ⟨rfl, rfl, rfl, ?_⟩
  rw [← kept]
  rfl

section
variable (hc : cfg.configured = true) (hl : (s.lane (z / 4)).inService = true)
include hc hl

omit hz in
theorem derived_calmed : (s.calmed z cfg).derived z cfg (s.zone z) (s.zone z).ownMode =
    match (s.zone z).ownMode with
    | .waiting => (s.calmed z cfg).rewriteWaiting z (s.zone z)
    | .off => (s.calmed z cfg).leaveOff z
    | .auto | .fallback | .hand => (s.calmed z cfg).rewriteTrimming z (s.zone z) :=
  derived_on hc (by rw [lane_congr (calmed_onlyZone s z cfg).lanes]; exact hl)

/-- R68: a zone that was AUTO or FALLBACK. -/
theorem rewriteZone_trims (hm : (s.zone z).ownMode = .auto ∨ (s.zone z).ownMode = .fallback) :
    let k := (s.calmed z cfg).causesNow z
    let y := (s.rewriteZone z cfg).zone z
    y.mode = (if k.isEmpty then .auto else .fallback) ∧ (k.isEmpty = false → y.causes = k)
      ∧ y.trimDeadline = some (s.uptime + cfg.trimPeriod) := by
  have derived : (s.calmed z cfg).derived z cfg (s.zone z) (s.zone z).ownMode = (s.calmed z cfg).rewriteTrimming z (s.zone z) := by
    rw [derived_calmed hc hl]
    obtain m | m := hm <;> rw [m]
  have calmed := calmed_onlyZone s z cfg
  obtain ⟨mode, causes⟩ := rewriteTrimming_zone (u := s.calmed z cfg) (old := s.zone z) (calmed.length ▸ hz)
    (by rw [calmed_zone hz cfg])
  obtain ⟨mode', causes', -, timer⟩ := rewriteZone_trimming hz (congrArg (State.zone · z) derived)
    (by rw [mode]; split_ifs <;> simp)
  exact ⟨mode'.trans mode, fun h => causes'.trans (causes h), timer⟩

/-- R64, R65, R67, R68: a zone that was WAITING or OFF and leaves it. -/
theorem rewriteZone_leaves (hm : (s.zone z).ownMode = .off ∨ (s.zone z).ownMode = .waiting)
    (ready : (s.zone z).ownMode = .off ∨ ((s.calmed z cfg).causesNow z).isEmpty = true ∧ s.pool.firstPassDone = true
      ∨ (s.lane (z / 4)).graceExpired = true) :
    let u := s.calmed z cfg
    let k := u.causesNow z
    let y := (s.rewriteZone z cfg).zone z
    y.causes = k ∧ y.trimDeadline = some (s.uptime + cfg.trimPeriod)
      ∧ (k.isEmpty = true → y.mode = .auto ∧ y.desired = if (s.zone z).ownMode = .off then cfg.fallbackPos else u.startPosition z)
      ∧ (k.isEmpty = false → y.mode = .fallback ∧ y.desired = if k.valveUnavailable then u.trackedPosition z 0 else cfg.fallbackPos) := by
  have calmed := calmed_onlyZone s z cfg
  have record := calmed_zone hz cfg
  have derived : (s.calmed z cfg).derived z cfg (s.zone z) (s.zone z).ownMode = (s.calmed z cfg).leaveRest z
      (if (s.zone z).ownMode = .off then cfg.fallbackPos else (s.calmed z cfg).startPosition z) := by
    rw [derived_calmed hc hl]
    obtain m | m := hm
    · rw [m, if_pos rfl]
      exact congrArg ((s.calmed z cfg).leaveRest z) (congrArg (fun x => x.cfg.fallbackPos) record)
    · have leaves := ready.resolve_left (by rw [m]; decide)
      rw [m, if_neg (by decide)]
      refine rewriteWaiting_leaves ?_
      rw [calmed.pool, lane_congr calmed.lanes]
      exact leaves
  obtain ⟨causes, empty, held⟩ := leaveRest_moded (u := s.calmed z cfg) (calmed.length ▸ hz)
    (if (s.zone z).ownMode = .off then cfg.fallbackPos else (s.calmed z cfg).startPosition z)
  have mode := Bool.eq_false_or_eq_true ((s.calmed z cfg).causesNow z).isEmpty
  obtain ⟨mode', causes', desired', timer⟩ := rewriteZone_trimming hz (congrArg (State.zone · z) derived)
    (mode.imp (fun h => (empty h).1) fun h => (held h).1)
  refine ⟨causes'.trans causes, timer, fun h => ⟨mode'.trans (empty h).1, desired'.trans (empty h).2⟩,
    fun h => ⟨mode'.trans (held h).1, (desired'.trans (held h).2).trans ?_⟩⟩
  unfold State.fallbackPosition
  rw [record]

/-- R68: a zone that was WAITING and waits on. -/
theorem rewriteZone_waits (hm : (s.zone z).ownMode = .waiting)
    (unmet : ¬ (((s.calmed z cfg).causesNow z).isEmpty = true ∧ s.pool.firstPassDone = true))
    (hg : (s.lane (z / 4)).graceExpired = false) : let y := (s.rewriteZone z cfg).zone z
    y.mode = .waiting ∧ y.desired = 0 ∧ y.trimDeadline = none ∧ y.grant = min (s.zone z).grant cfg.mixingFloor
      ∧ y.causes = if (s.zone z).mode = .hand then .none else (s.zone z).causes := by
  have calmed := calmed_onlyZone s z cfg
  have record := calmed_zone hz cfg
  have derived : (s.calmed z cfg).derived z cfg (s.zone z) (s.zone z).ownMode = (s.calmed z cfg).rewriteWaiting z (s.zone z) := by
    rw [derived_calmed hc hl, hm]
  have unready : (s.calmed z cfg).readyForAuto z ≠ true := by
    unfold State.readyForAuto
    rw [Ne, Bool.and_eq_true_iff, calmed.pool]
    exact unmet
  have waits := rewriteWaiting_zone (u := s.calmed z cfg) (old := s.zone z) (calmed.length ▸ hz) unready
    (by rw [lane_congr calmed.lanes]; exact hg)
  have judged := rewriteZone_judged hz cfg
  rw [derived, waits, record] at judged
  intro y
  rw [show y = _ from judged]
  by_cases held : (s.zone z).mode = .hand
  · rw [if_pos held, if_pos held]
    obtain ⟨mode, desired, timer, causes, grant⟩ := Zone.rewritten_of_waiting (x := Zone.moded { s.zone z with
      cfg := cfg, doLow := ⟨none, false⟩, air := ⟨none, false⟩, desired := 0, trimDeadline := none } (s.calmed z cfg).uptime
      .waiting .none) rfl s.uptime
    exact ⟨mode, desired, timer, grant, causes⟩
  · have waiting : (s.zone z).mode = .waiting := (if_neg held).symm.trans hm
    rw [if_neg held, if_neg held]
    obtain ⟨mode, desired, timer, causes, grant⟩ := Zone.rewritten_of_waiting (x := { s.zone z with
      cfg := cfg, doLow := ⟨none, false⟩, air := ⟨none, false⟩, desired := 0, trimDeadline := none }) waiting s.uptime
    exact ⟨mode, desired, timer, grant, causes⟩

end
end

end Sys2Proof.Machine
end

section
/-! ZONE_WRITE (R68): the whole next state, written out. -/

namespace Sys2Proof.Machine

open Sys2Proof

variable {s t u : State} {z : Nat} {cfg : ZoneCfg}

/-! ### The steps of the mode written out -/

/-- A zone under rewriting: its record before, its new configuration, its lane, the first-pass flag and the time. -/
structure Rewrite where
  zone : Nat
  old : Zone
  cfg : ZoneCfg
  lane : Lane
  firstPassDone : Bool
  now : Nat

/-- The state that the steps of the mode start from. -/
structure Rewrite.Holds (r : Rewrite) (u : State) : Prop where
  length : r.zone < u.zones.length
  uptime : u.uptime = r.now
  record : u.zone r.zone = { r.old with cfg := r.cfg, doLow := ⟨none, false⟩, air := ⟨none, false⟩ }
  lane : u.lane (r.zone / 4) = r.lane
  firstPass : u.pool.firstPassDone = r.firstPassDone

/-- R71: the mode and its causes, with the notice of a change. -/
def Rewrite.moded (r : Rewrite) (m : ZoneMode) (k : Causes) (u : State) : State :=
  if r.old.mode = m then u.modZone r.zone fun x => { x with causes := k }
  else (u.modZone r.zone fun x => { x with mode := m, causes := k, lastModeChange := r.now }).offerNotice
    (.zoneModeChange r.zone r.old.mode m k r.now)

/-- The entry to AUTO. -/
def Rewrite.auto (r : Rewrite) (d : Nat) (u : State) : State :=
  let entered := (r.moded .auto ⟨false, false⟩ ((u.modZone r.zone fun x => { x with desired := d }).modZone r.zone fun x =>
    { x with trimDeadline := some (r.now + r.cfg.trimPeriod) })).causeAlarms r.zone r.old.causes ⟨false, false⟩ false
  if d = r.old.desired then entered else entered.judgeAir r.zone

/-- The entry to FALLBACK from OFF, WAITING or HAND, its trim timer aside. -/
def Rewrite.fallback (r : Rewrite) (u : State) : State :=
  let k := u.causesNow r.zone
  let entered := r.moded .fallback k (u.modZone r.zone fun x =>
    { x with desired := if k.valveUnavailable then u.trackedPosition r.zone 0 else r.cfg.fallbackPos })
  let joined := if r.old.mode = .hand ∧ k.doInvalid = true ∧ r.old.causes.doInvalid = false then entered.endDoLow r.zone else entered
  (joined.causeAlarms r.zone r.old.causes k true).driveAlone r.cfg k

/-- The entry to OFF. -/
def Rewrite.off (r : Rewrite) (u : State) : State :=
  if r.old.mode = .off then u else (((r.moded .off ⟨false, false⟩ (u.modZone r.zone fun x =>
    { x with desired := 0, cap := 0, grant := 0, trimDeadline := none })).causeAlarms r.zone r.old.causes ⟨false, false⟩
      false).endDoLow r.zone).endAir r.zone

/-- The desired position within its new limits. -/
def Rewrite.limited (r : Rewrite) : Nat := max r.cfg.minPos (min r.cfg.maxPos r.old.desired)

/-- The desired position of a zone that was AUTO or FALLBACK, in FALLBACK. -/
def Rewrite.trimmedPosition (r : Rewrite) (u : State) : Nat :=
  let k := u.causesNow r.zone
  if k.valveUnavailable && !r.old.causes.valveUnavailable then u.trackedPosition r.zone (min r.old.desired r.old.cap)
  else if k = ⟨true, false⟩ ∧ r.old.causes ≠ ⟨true, false⟩ then r.cfg.fallbackPos else r.limited

/-- A zone that was AUTO or FALLBACK, in FALLBACK. -/
def Rewrite.fell (r : Rewrite) (u : State) : State :=
  (r.moded .fallback (u.causesNow r.zone) (u.modZone r.zone fun x => { x with desired := r.trimmedPosition u })).causeAlarms r.zone
    r.old.causes (u.causesNow r.zone) (r.old.mode ≠ .fallback)

/-- The mode of a zone that was AUTO or FALLBACK. -/
def Rewrite.trimming (r : Rewrite) (u : State) : State :=
  let k := u.causesNow r.zone
  if k = ⟨false, false⟩ then
    (if r.old.mode = .auto then u.modZone r.zone fun x => { x with desired := r.limited } else r.auto r.limited u)
  else if k = ⟨true, false⟩ ∧ r.old.causes ≠ ⟨true, false⟩ then (r.fell u).offerDrive r.cfg.valve (.position r.cfg.fallbackPos)
  else r.fell u

/-- The mode of a zone that was WAITING. -/
def Rewrite.waiting (r : Rewrite) (u : State) : State :=
  let k := u.causesNow r.zone
  if k = ⟨false, false⟩ ∧ r.firstPassDone = true then r.auto (u.startPosition r.zone) u
  else if r.lane.graceExpired = true then
    (if k = ⟨false, false⟩ then r.auto (u.startPosition r.zone) u else r.fallback u)
  else
    let still := u.modZone r.zone fun x => { x with desired := 0, trimDeadline := none }
    if r.old.mode = .hand then (r.moded .waiting ⟨false, false⟩ still).causeAlarms r.zone r.old.causes ⟨false, false⟩ false else still

/-- The mode of a zone that was OFF. -/
def Rewrite.left (r : Rewrite) (u : State) : State :=
  if u.causesNow r.zone = ⟨false, false⟩ then r.auto r.cfg.fallbackPos u else r.fallback u

/-- The step that gives the mode. -/
def Rewrite.derived (r : Rewrite) (u : State) : State :=
  if r.cfg.configured = false ∨ r.lane.inService = false then r.off u
  else match r.old.ownMode with
    | .waiting => r.waiting u
    | .off => r.left u
    | _ => r.trimming u

/-- The trim timer restarts. -/
def Rewrite.timed (r : Rewrite) (u : State) : State :=
  if (u.zone r.zone).mode = .auto ∨ (u.zone r.zone).mode = .fallback then
    u.modZone r.zone fun x => { x with trimDeadline := some (r.now + r.cfg.trimPeriod) } else u

/-- The grant of a zone that waits follows its new floor. -/
def Rewrite.lowered (r : Rewrite) (u : State) : State :=
  let x := u.zone r.zone
  if x.mode = .waiting ∧ r.cfg.mixingFloor < x.grant then u.modZone r.zone fun x =>
    { x with grant := r.cfg.mixingFloor, cap := min 1000 (r.cfg.mixingFloor * 1000 / r.cfg.fullOpenAir) } else u

/-! ### They are the steps of the model -/

section
variable {r : Rewrite} (h : r.Holds u)
include h

theorem Rewrite.Holds.setMode_eq {f : Zone → Zone} (hf : ∀ x, (f x).mode = x.mode) (m : ZoneMode) (k : Causes) :
    (u.modZone r.zone f).setMode r.zone m k = r.moded m k (u.modZone r.zone f) := by
  have mode : ((u.modZone r.zone f).zone r.zone).mode = r.old.mode :=
    (zone_modZone_of_fix Zone.mode hf r.zone r.zone).trans (by rw [h.record])
  unfold State.setMode Rewrite.moded
  dsimp only
  rw [mode, State.modZone_uptime, h.uptime]

theorem Rewrite.Holds.enterAuto_eq (d : Nat) : u.enterAuto r.zone d = r.auto d u := by
  have timed : (u.modZone r.zone fun x => { x with desired := d }).startTrim r.zone
      = (u.modZone r.zone fun x => { x with desired := d }).modZone r.zone fun x =>
        { x with trimDeadline := some (r.now + r.cfg.trimPeriod) } := by
    refine modZone_congr ?_
    rw [State.modZone_uptime, State.zone_modZone_same h.length, h.uptime, h.record]
  have moded := h.setMode_eq (f := fun x => { x with desired := d, trimDeadline := some (r.now + r.cfg.trimPeriod) })
    (fun _ => rfl) .auto .none
  unfold State.enterAuto Rewrite.auto
  dsimp only
  rw [timed, State.modZone_modZone, h.record]
  exact if_congr Iff.rfl (congrArg (State.causeAlarms · r.zone r.old.causes .none false) moded)
    (congrArg (fun v : State => (v.causeAlarms r.zone r.old.causes .none false).judgeAir r.zone) moded)

theorem Rewrite.Holds.enterOff_eq : u.enterOff r.zone = r.off u := by
  have moded := h.setMode_eq (f := fun x => { x with desired := 0, cap := 0, grant := 0, trimDeadline := none })
    (fun _ => rfl) .off .none
  unfold State.enterOff Rewrite.off
  dsimp only
  rw [h.record]
  exact if_congr Iff.rfl rfl (congrArg (fun v : State =>
    ((v.causeAlarms r.zone r.old.causes .none false).endDoLow r.zone).endAir r.zone) moded)

theorem Rewrite.Holds.rewriteTrimming_eq : u.rewriteTrimming r.zone r.old = r.trimming u := by
  have empty := (u.causesNow r.zone).isEmpty_iff
  have newly : ((u.causesNow r.zone).doAlone && !r.old.causes.doAlone) = true
      ↔ u.causesNow r.zone = ⟨true, false⟩ ∧ r.old.causes ≠ ⟨true, false⟩ := by
    rw [Bool.and_eq_true, Causes.doAlone_iff, Bool.not_eq_true', ← Bool.not_eq_true, Causes.doAlone_iff]
  have position : u.trimmedPosition r.zone r.old = r.trimmedPosition u := by
    unfold State.trimmedPosition
    rw [h.record]
    exact if_congr Iff.rfl rfl (if_congr newly rfl rfl)
  have moded := h.setMode_eq (f := fun x => { x with desired := r.trimmedPosition u }) (fun _ => rfl) .fallback (u.causesNow r.zone)
  have was : (r.old.mode != .fallback) = decide (r.old.mode ≠ .fallback) := by
    cases r.old.mode <;> rfl
  have told : u.fell r.zone r.old = r.fell u := by
    unfold State.fell Rewrite.fell
    rw [position, moded, was]
  have cfg : ((r.fell u).zone r.zone).cfg = r.cfg := by
    have air := zoneCfg_air r.zone r.cfg
    have placed := air.zone (s := u) r.zone (fun x => { x with desired := r.trimmedPosition u }) (fun _ => rfl) (by rw [h.record])
    have entered := air.setMode placed r.zone .fallback (u.causesNow r.zone)
    rw [moded] at entered
    exact air.causeAlarms entered r.zone r.old.causes (u.causesNow r.zone) (r.old.mode ≠ .fallback)
  unfold Rewrite.trimming
  dsimp only
  by_cases none : (u.causesNow r.zone).isEmpty = true
  · rw [if_pos (empty.mp none)]
    refine (if_pos none).trans ?_
    rw [h.enterAuto_eq, h.record]
    rfl
  · rw [if_neg (mt empty.mpr none), rewriteTrimming_falls none, told, State.offerFallback, cfg]
    exact if_congr newly rfl rfl

omit h in
theorem Rewrite.Holds.doJoined_eq (hm : r.old.mode = .hand) (v : State) (k : Causes) : v.doJoined r.zone r.old.causes k
    = if r.old.mode = .hand ∧ k.doInvalid = true ∧ r.old.causes.doInvalid = false then v.endDoLow r.zone else v := by
  refine if_congr ?_ rfl rfl
  simp [hm]

theorem Rewrite.Holds.fallbackPosition_eq : u.fallbackPosition r.zone (u.causesNow r.zone) 0
    = if (u.causesNow r.zone).valveUnavailable then u.trackedPosition r.zone 0 else r.cfg.fallbackPos := by
  unfold State.fallbackPosition
  rw [h.record]

/-- The entry to FALLBACK from HAND. -/
theorem Rewrite.Holds.enterFallback_of_hand (hm : r.old.mode = .hand) :
    u.enterFallback r.zone (u.causesNow r.zone) 0 = r.fallback u := by
  have moded := h.setMode_eq (f := fun x => { x with desired := u.fallbackPosition r.zone (u.causesNow r.zone) 0 }) (fun _ => rfl)
    .fallback (u.causesNow r.zone)
  have mode : (u.zone r.zone).mode = .hand := by
    rw [h.record]
    exact hm
  have enters := Machine.enterFallback_eq (early := false) (trimmed := false) (s := u) 0 (by rw [mode]; rfl) (by rw [mode]; rfl) moded
  rw [h.fallbackPosition_eq, h.record] at enters
  rw [enters]
  unfold Rewrite.fallback
  dsimp only
  rw [← doJoined_eq hm]
  rfl

omit h in
theorem startTrim_startTrim (v : State) (z : Nat) : (v.startTrim z).startTrim z = v.startTrim z := State.modZone_modZone ..

/-- The entry to FALLBACK from OFF and WAITING, where the trim timer already starts. -/
theorem Rewrite.Holds.enterFallback_of_rest (hm : r.old.mode = .off ∨ r.old.mode = .waiting) :
    u.enterFallback r.zone (u.causesNow r.zone) 0 = (r.fallback u).startTrim r.zone := by
  let z := r.zone
  let k := u.causesNow z
  let d := if k.valveUnavailable then u.trackedPosition z 0 else r.cfg.fallbackPos
  let f : Zone → Zone := fun x => { x with desired := d, mode := .fallback, causes := k, lastModeChange := r.now }
  let note : Notice := .zoneModeChange z r.old.mode .fallback k r.now
  have quiet : Quiet (Zone.timed · r.now) := fun _ => ⟨rfl, rfl⟩
  have record := h.record
  have enters := Machine.enterFallback_of_rest (s := u) (z := z) (by rw [record]; exact hm) k 0
  rw [h.fallbackPosition_eq, record, h.uptime] at enters
  have moves : r.fallback u = (((u.modZone z f).offerNotice note).causeAlarms z r.old.causes k true).driveAlone r.cfg k := by
    have changes : r.old.mode ≠ .fallback := by obtain h | h := hm <;> rw [h] <;> decide
    have unheld : r.old.mode ≠ .hand := by obtain h | h := hm <;> rw [h] <;> decide
    unfold Rewrite.fallback Rewrite.moded
    dsimp only
    rw [if_neg changes, if_neg fun k => unheld k.1, State.modZone_modZone]
    rfl
  have timer : (r.fallback u).startTrim z = (r.fallback u).modZone z (Zone.timed · r.now) := by
    have changes := onlyZone_changes z u
    have told := changes.causeAlarms (changes.notice note (changes.zone f (.refl _ u))) r.old.causes k true
    have uptime : (r.fallback u).uptime = r.now := by
      rw [moves, ← h.uptime]
      exact (ite_keeps (P := u.OnlyZone z) (changes.express _ told) told).uptime
    rw [← uptime]
    rfl
  rw [timer, moves, ← driveAlone_modZone, ← causeAlarms_modZone quiet, ← offerNotice_modZone, State.modZone_modZone, enters]
  refine congrArg (fun v : State => ((v.offerNotice note).causeAlarms z r.old.causes k true).driveAlone r.cfg k) (modZone_congr ?_)
  rw [record]
  rfl

/-- After R68's step 4 the two are one. -/
theorem Rewrite.Holds.retimed_enterFallback (hm : r.old.ownMode = .off ∨ r.old.ownMode = .waiting) :
    (u.enterFallback r.zone (u.causesNow r.zone) 0).retimed r.zone = (r.fallback u).retimed r.zone := by
  by_cases held : r.old.mode = .hand
  · rw [h.enterFallback_of_hand held]
  · have own : r.old.ownMode = r.old.mode := if_neg held
    have enters := h.enterFallback_of_rest (own ▸ hm)
    have fallen : ((u.enterFallback r.zone (u.causesNow r.zone) 0).zone r.zone).mode = .fallback :=
      congrArg Zone.mode (enterFallback_zone h.length (u.causesNow r.zone) 0)
    have mode : ((r.fallback u).zone r.zone).mode = .fallback := by
      rw [enters] at fallen
      exact (zone_modZone_of_fix Zone.mode (f := (Zone.timed · (r.fallback u).uptime)) (fun _ => rfl) _ _).symm.trans fallen
    have retimed : (r.fallback u).retimed r.zone = (r.fallback u).startTrim r.zone := if_pos (.inr mode)
    have again : ((r.fallback u).startTrim r.zone).retimed r.zone = ((r.fallback u).startTrim r.zone).startTrim r.zone :=
      if_pos (.inr (enters ▸ fallen))
    rw [enters, again, retimed, startTrim_startTrim]

theorem Rewrite.Holds.retimed_leaveRest (hm : r.old.ownMode = .off ∨ r.old.ownMode = .waiting) (d : Nat) :
    (u.leaveRest r.zone d).retimed r.zone
      = (if u.causesNow r.zone = ⟨false, false⟩ then r.auto d u else r.fallback u).retimed r.zone := by
  by_cases none : u.causesNow r.zone = ⟨false, false⟩
  · have leaves : u.leaveRest r.zone d = u.enterAuto r.zone d := if_pos ((Causes.isEmpty_iff _).mpr none)
    rw [if_pos none, leaves, h.enterAuto_eq]
  · have leaves : u.leaveRest r.zone d = u.enterFallback r.zone (u.causesNow r.zone) 0 := if_neg (mt (Causes.isEmpty_iff _).mp none)
    rw [if_neg none, leaves, h.retimed_enterFallback hm]

theorem Rewrite.Holds.retimed_rewriteWaiting (hm : r.old.ownMode = .waiting) :
    (u.rewriteWaiting r.zone r.old).retimed r.zone = (r.waiting u).retimed r.zone := by
  have empty := (u.causesNow r.zone).isEmpty_iff
  have leaves (hl : _) := (congrArg (State.retimed · r.zone) (rewriteWaiting_leaves (u := u) (z := r.zone) (old := r.old) hl)).trans
    (h.retimed_leaveRest (.inr hm) (u.startPosition r.zone))
  rw [h.lane, h.firstPass, empty] at leaves
  unfold Rewrite.waiting
  dsimp only
  by_cases ready : u.causesNow r.zone = ⟨false, false⟩ ∧ r.firstPassDone = true
  · rw [if_pos ready, leaves (.inl ready), if_pos ready.1]
  · rw [if_neg ready]
    by_cases expired : r.lane.graceExpired = true
    · rw [if_pos expired, leaves (.inr expired)]
    · have unready : u.readyForAuto r.zone ≠ true := by
        unfold State.readyForAuto
        rw [Ne, Bool.and_eq_true_iff, empty, h.firstPass]
        exact ready
      have moded := h.setMode_eq (f := fun x => { x with desired := 0, trimDeadline := none }) (fun _ => rfl) .waiting .none
      rw [if_neg expired, rewriteWaiting_waits unready (by rw [h.lane]; exact Bool.not_eq_true _ ▸ expired), moded]
      rfl

theorem Rewrite.Holds.retimed_derived :
    (u.derived r.zone r.cfg r.old r.old.ownMode).retimed r.zone = (r.derived u).retimed r.zone := by
  unfold Rewrite.derived
  by_cases off : r.cfg.configured = false ∨ r.lane.inService = false
  · rw [if_pos off, derived_off (by rw [h.lane]; exact off), h.enterOff_eq]
  · obtain ⟨configured, service⟩ := not_or.mp off
    rw [Bool.not_eq_false] at configured service
    rw [if_neg off, derived_on configured (by rw [h.lane]; exact service)]
    cases own : r.old.ownMode with
    | waiting => exact h.retimed_rewriteWaiting own
    | off =>
      have leaves := h.retimed_leaveRest (.inl own) (u.zone r.zone).cfg.fallbackPos
      rw [h.record] at leaves
      exact (congrArg (fun d => (u.leaveRest r.zone d).retimed r.zone) (by rw [h.record])).trans leaves
    | _ => exact congrArg (State.retimed · r.zone) h.rewriteTrimming_eq

theorem Rewrite.Holds.timed_derived : (u.derived r.zone r.cfg r.old r.old.ownMode).retimed r.zone = r.timed (r.derived u) := by
  have air := zoneCfg_air r.zone r.cfg
  have hc : (u.zone r.zone).cfg = r.cfg := by rw [h.record]
  let w := u.derived r.zone r.cfg r.old r.old.ownMode
  have cfg : (w.zone r.zone).cfg = r.cfg :=
    derived_cases (P := fun w => (w.zone r.zone).cfg = r.cfg) (air.enterOff hc r.zone) (air.rewriteWaiting hc r.zone r.old)
      (air.leaveOff hc r.zone) (air.rewriteTrimming hc r.zone r.old) r.cfg r.old.ownMode
  have uptime : w.uptime = r.now := (derived_onlyZone u r.zone r.cfg r.old r.old.ownMode).uptime.trans h.uptime
  have same := h.retimed_derived
  have uptime' : (r.derived u).uptime = r.now := by
    have keeps (v : State) : (v.retimed r.zone).uptime = v.uptime := ite_keeps (P := fun t => t.uptime = v.uptime) rfl rfl
    rw [← keeps, ← same, keeps, uptime]
  have cfg' : ((r.derived u).zone r.zone).cfg = r.cfg := by
    have keeps (v : State) : ((v.retimed r.zone).zone r.zone).cfg = (v.zone r.zone).cfg :=
      ite_keeps (P := fun t => (t.zone r.zone).cfg = (v.zone r.zone).cfg)
        (zone_modZone_of_fix Zone.cfg (f := (Zone.timed · v.uptime)) (fun _ => rfl) _ _) rfl
    rw [← keeps, ← same, keeps, cfg]
  rw [same]
  refine if_congr Iff.rfl (modZone_congr ?_) rfl
  rw [uptime', cfg']

end

theorem lowerWaitingGrant_eq {r : Rewrite} {v : State} (hc : (v.zone r.zone).cfg = r.cfg) :
    v.lowerWaitingGrant r.zone = r.lowered v := by
  unfold State.lowerWaitingGrant Rewrite.lowered
  dsimp only
  rw [hc]
  refine if_congr Iff.rfl (modZone_congr ?_) rfl
  rw [hc]
  rfl

/-- The zone under a ZONE_WRITE. -/
def State.rewrite (s : State) (z : Nat) (cfg : ZoneCfg) : Rewrite :=
  ⟨z, s.zone z, cfg, s.lane (z / 4), s.pool.firstPassDone, s.uptime⟩

theorem calmed_holds (hz : z < s.zones.length) (cfg : ZoneCfg) : (s.rewrite z cfg).Holds (s.calmed z cfg) :=
  have calmed := calmed_onlyZone s z cfg
  ⟨calmed.length ▸ hz, calmed.uptime, calmed_zone hz cfg, lane_congr calmed.lanes _, by rw [calmed.pool]; rfl⟩

/-- R68: the whole next state. -/
theorem rewriteZone_written (hz : z < s.zones.length) (cfg : ZoneCfg) : let r := s.rewrite z cfg
    s.rewriteZone z cfg = s.rejudged (r.lowered (r.timed (r.derived (s.calmed z cfg)))) z := by
  have air := zoneCfg_air z cfg
  have hc : ((s.calmed z cfg).zone z).cfg = cfg := by rw [calmed_zone hz]
  have derived := derived_cases (P := fun w => (w.zone z).cfg = cfg) (air.enterOff hc z) (air.rewriteWaiting hc z (s.zone z))
    (air.leaveOff hc z) (air.rewriteTrimming hc z (s.zone z)) cfg (s.zone z).ownMode
  have timed := (calmed_holds hz cfg).timed_derived
  have kept : (((s.rewrite z cfg).timed ((s.rewrite z cfg).derived (s.calmed z cfg))).zone z).cfg = cfg := by
    rw [← timed]
    exact ite_keeps (P := fun w => (w.zone z).cfg = cfg) (air.startTrim derived z) derived
  have lowered := lowerWaitingGrant_eq (r := s.rewrite z cfg) kept
  rw [← timed] at lowered
  intro r
  rw [← timed, ← lowered]
  exact rewriteZone_eq s z cfg

/-- Settles O25: the record of the zone in each of the four cases, then the whole next state. -/
theorem zoneWriteRewritesTheZone : Obligations.ZoneWriteRewritesTheZone := by
  intro s h z c hs hok hz old mode
  let a := s.addressed h
  let v := a.rewriteZone z c
  let u := a.calmed z c
  have accepted : exec (.zoneWrite h z c) s = .next (v.answered h 15 .done []) :=
    exec_accepted (c := .zoneWrite h z c) rfl hs rfl hok
  have settled := Settled.answered v h 15 .done []
  have own : v.port.own = a.port.own := (ownPort_effects _).rewriteZone rfl z c
  have only := rewriteZone_onlyZone a z c
  have calmed := calmed_onlyZone a z c
  have cfg : (v.zone z).cfg = (u.zone z).cfg := (rewriteZone_cfg (s := a) hz c).trans (by rw [calmed_zone (s := a) hz])
  have zone : (v.answered h 15 .done []).zone z = v.zone z := zone_congr settled.zones z
  have points : (v.answered h 15 .done []).points = u.points := settled.points.trans (only.points.trans calmed.points.symm)
  have causes : (v.answered h 15 .done []).causesNow z = u.causesNow z :=
    causesNow_congr (settled.stations.trans (only.stations.trans calmed.stations.symm))
      (settled.groups.trans (only.groups.trans calmed.groups.symm)) points ((congrArg Zone.cfg zone).trans cfg)
  have start : (v.answered h 15 .done []).startPosition z = u.startPosition z :=
    startPosition_congr points ((congrArg Zone.cfg zone).trans cfg)
  have tracked : (v.answered h 15 .done []).trackedPosition z 0 = u.trackedPosition z 0 :=
    trackedPosition_congr points ((congrArg Zone.cfg zone).trans cfg) 0
  refine ⟨_, accepted, answered_replied own 15 .done [], settled.config.trans (rewriteZone_config a z c),
    settled.hand.trans (rewriteZone_hand a z c), settled.points.trans only.points, settled.stations.trans only.stations,
    settled.lanes.trans only.lanes, settled.blowers.trans only.blowers, settled.pool.trans only.pool,
    settled.channels.trans only.channels, settled.storm.trans only.storm, ?_, ?_, ?_, ?_⟩
  · rw [zone]
    exact rewriteZone_off (s := a) hz
  · rw [zone, causes]
    exact rewriteZone_trims (s := a) hz
  · rw [zone, causes, start, tracked]
    intro hc hl hm ready waits
    have leaves := rewriteZone_leaves (s := a) hz hc hl hm
    refine ⟨fun k => ?_, fun nr nw => ?_, fun w => ?_⟩
    · obtain ⟨empty, met⟩ := k
      obtain ⟨causes, timer, auto, -⟩ := leaves (met.imp_right (Or.imp_left (And.intro empty)))
      obtain ⟨mode, desired⟩ := auto empty
      exact ⟨mode, causes.trans ((Causes.isEmpty_iff _).mp empty), timer, desired⟩
    · have left : mode = .off ∨ (s.lane (z / 4)).graceExpired = true := by
        refine hm.imp_right fun waiting => ?_
        by_contra k
        exact nw ⟨waiting, nr, Bool.not_eq_true _ ▸ k⟩
      obtain ⟨causes, timer, -, held⟩ := leaves (left.imp_right .inr)
      obtain ⟨mode, desired⟩ := held (Bool.not_eq_true _ ▸ fun k => nr ⟨k, left.imp_right .inr⟩)
      exact ⟨mode, causes, timer, desired⟩
    · obtain ⟨waiting, nr, grace⟩ := w
      exact rewriteZone_waits (s := a) hz hc hl waiting (fun k => nr ⟨k.1, .inr (.inl k.2)⟩) grace
  · have calmedEq : a.calmed z c = ((({ a with hand := s.hand.filter fun p => p.target ≠ ⟨.zone, z⟩ } : State).modZone z fun x =>
        { x with cfg := c }).endDoLow z).endAir z := by
      unfold State.calmed
      rw [dropPassage_eq]
      rfl
    have written := rewriteZone_written (s := a) hz c
    rw [calmedEq] at written
    exact congrArg (State.answered · h 15 .done []) written

end Sys2Proof.Machine
end

section
/-! The storm monitor: its requests, its influent point, and what an entry to a state does (R127, R130 to R133). -/

namespace Sys2Proof.Machine

open Sys2Proof

variable {P : State → Prop} {s t u : State} {l p v : Nat} {st : StormState}

/-! ### What the lanes' judgements and the monitor's moves are made of -/

/-- Kept by the moves of zones, blowers and pool, and by any change of a lane. -/
structure LaneBlocks (P : State → Prop) : Prop extends AirBlocks P where
  lane : ∀ {s : State} (l : Nat) (f : Lane → Lane), P s → P (s.modLane l f)

/-- Kept by any change of the monitor as well. -/
structure StormBlocks (P : State → Prop) : Prop extends LaneBlocks P where
  storm : ∀ {s : State} (f : Storm → Storm), P s → P (s.modStorm f)

theorem LaneBlocks.judgeLane (hP : LaneBlocks P) (h : P s) (before : State) (l : Nat) : P (before.judgeLane l s) := by
  have judged := hP.lane l (fun x =>
    { x with ammoniaValid := s.optPointGood (s.lane l).cfg.ammoniaPoint .nh4, activeBand := s.activeBandNow l }) h
  exact each_keeps _ (fun i u hu => ite_keeps hu (hP.judgeSetpoint hu _))
    (ite_keeps (hP.raise _ _ _ judged) (ite_keeps (hP.clear _ _ judged) judged))

theorem LaneBlocks.judgeLanes (hP : LaneBlocks P) (h : P s) : P s.judgeLanes := each_keeps _ (fun l u hu => hP.judgeLane hu u l) h

section
variable (hP : StormBlocks P)
include hP

theorem StormBlocks.enterStorm (h : P s) (st : StormState) : P (s.enterStorm st) := by
  have entered := hP.notice (.stormChange s.storm.state st s.storm.force
    (s.modStorm fun m => { m with state := st, lastChange := s.uptime }).stormInForce s.storm.lastInfluent s.uptime)
    (hP.storm (fun m => { m with state := st, lastChange := s.uptime }) h)
  exact ite_keeps h (ite_keeps entered (hP.judgeMinimum (hP.judgeLanes (hP.setAlarm entered _ _ _ _))))

theorem StormBlocks.stormReading (h : P s) (v : Nat) : P (s.stormReading v) := by
  have enters (f : Storm → Storm) (st : StormState) :
      P (((s.modStorm fun m => { m with lastInfluent := some v }).modStorm f).enterStorm st) :=
    hP.enterStorm (hP.storm f (hP.storm _ h)) st
  have read := hP.storm (fun m => { m with lastInfluent := some v }) h
  unfold State.stormReading
  dsimp only
  split
  · exact read
  · split <;> exact ite_keeps (enters _ _) read

theorem StormBlocks.holdExpires (h : P s) : P s.holdExpires := by
  have expired := hP.storm (fun m => { m with holdTimer := .stopped, holdExpired := true }) h
  unfold State.holdExpires
  dsimp only
  split
  · exact expired
  · exact ite_keeps (hP.enterStorm (hP.storm _ expired) _) expired

theorem StormBlocks.entryExpires (h : P s) : P s.entryExpires := hP.enterStorm (hP.storm _ h) .storm

theorem StormBlocks.exitExpires (h : P s) : P s.exitExpires := hP.enterStorm (hP.storm _ h) .normal

theorem StormBlocks.thaw (h : P s) : P s.thaw := by
  unfold State.thaw
  extract_lets cleared m resumed entered held
  have hresumed : P resumed := hP.storm _ (hP.clear _ _ h)
  have hentered : P entered := ite_keeps (hP.entryExpires hresumed) hresumed
  have hheld : P held := ite_keeps (hP.holdExpires hentered) hentered
  exact ite_keeps (hP.exitExpires hheld) hheld

theorem StormBlocks.judgeInfluent (h : P s) (accepted watched : Bool) : P (s.judgeInfluent accepted watched) := by
  have frozen : P ((s.modStorm fun m => { m with influentValid := false }).suspendTimers) := hP.storm _ (hP.storm _ h)
  unfold State.judgeInfluent
  split
  · exact hP.clear _ _ frozen
  · have valid := ite_keeps (c := s.storm.influentValid = true) h (hP.thaw h)
    exact ite_keeps (ite_keeps (hP.stormReading valid _) valid) (ite_keeps (hP.raise _ _ _ frozen) h)

theorem StormBlocks.rewriteStorm (h : P s) (cfg : StormCfg) : P (s.rewriteStorm cfg) :=
  ite_keeps (hP.storm _ h) (hP.judgeInfluent (hP.storm _ (hP.storm _ h)) _ _)

theorem StormBlocks.takeForce (h : P s) (f : Force) : P (s.takeForce f) := by
  have taken := hP.storm (fun m => { m with force := f }) h
  cases f with
  | on => exact hP.enterStorm (hP.storm _ taken) .storm
  | off => exact hP.enterStorm (hP.storm _ taken) .normal
  | auto =>
    have fresh : P (s.modStorm fun m => { m with force := .auto }).freshHold := ite_keeps (hP.storm _ taken) taken
    unfold State.takeForce
    dsimp only
    split
    · split
      · exact hP.stormReading fresh _
      · exact fresh
    · exact hP.storm _ fresh

end

/-- The stations, the points, the channels and the hand table are those of `s`. -/
def State.StormAside (s t : State) : Prop :=
  t.stations = s.stations ∧ t.points = s.points ∧ t.channels = s.channels ∧ t.hand = s.hand

theorem AlarmsOnly.stormAside (h : AlarmsOnly s t) : s.StormAside t := by
  rw [h.2]
  exact ⟨rfl, rfl, rfl, rfl⟩

theorem State.StormAside.trans (h : s.StormAside t) (k : t.StormAside u) : s.StormAside u := by
  obtain ⟨stations, points, channels, hand⟩ := h
  obtain ⟨stations', points', channels', hand'⟩ := k
  exact ⟨stations'.trans stations, points'.trans points, channels'.trans channels, hand'.trans hand⟩

theorem stormAside_blocks (s : State) : StormBlocks s.StormAside where
  zone _ _ _ h := h
  blower _ _ _ h := h
  start _ _ _ h := h
  pool _ _ h := h
  notice n h := by rw [offerNotice_eq]; exact h
  express e h := by rw [offerExpress_eq]; exact h
  raise _ _ _ h := h.trans (raiseAlarm_only _ _ _ _).stormAside
  clear _ _ h := h.trans (clearAlarm_only _ _ _).stormAside
  lane _ _ h := h
  storm _ h := h

theorem storm_lanes (m : Storm) : LaneBlocks (fun s => s.storm = m) where
  zone _ _ _ h := h
  blower _ _ _ h := h
  start _ _ _ h := h
  pool _ _ h := h
  notice n h := by rw [offerNotice_eq]; exact h
  express e h := by rw [offerExpress_eq]; exact h
  raise _ _ _ h := by rw [(raiseAlarm_only _ _ _ _).2]; exact h
  clear _ _ h := by rw [(clearAlarm_only _ _ _).2]; exact h
  lane _ _ h := h

/-! ### The lanes in turn (R49) -/

theorem activeBandNow_congr (hl : t.lane l = s.lane l) (hs : t.storm = s.storm) (hp : t.points = s.points) :
    t.activeBandNow l = s.activeBandNow l := by
  unfold State.activeBandNow State.stormInForce State.optPointGood State.pointGood State.point
  rw [hl, hs, hp]

theorem judgeLane_frame (before s : State) (l : Nat) : let t := before.judgeLane l s
    t.lanes.length = s.lanes.length ∧ t.storm = s.storm ∧ t.points = s.points ∧ ∀ y, y ≠ l → t.lane y = s.lane y := by
  have only := judgeLane_onlyZones before s l
  refine ⟨(congrArg List.length only.lanes).trans (List.length_modify ..), only.storm, only.points, fun y hy => ?_⟩
  rw [lane_congr only.lanes, State.judgedLane, State.lane_modLane, if_neg fun k => hy k.1.symm]

theorem foldl_judgeLane_activeBand {ls : List Nat} (hn : ls.Nodup) (s : State) (hl : l ∈ ls) (h : l < s.lanes.length) :
    ((ls.foldl (fun u x => u.judgeLane x u) s).lane l).activeBand = s.activeBandNow l := by
  have later (xs : List Nat) (hx : l ∉ xs) (u : State) : (xs.foldl (fun u x => u.judgeLane x u) u).lane l = u.lane l := by
    induction xs generalizing u with
    | nil => rfl
    | cons x xs ih =>
      rw [List.mem_cons, not_or] at hx
      obtain ⟨hx, rest⟩ := hx
      obtain ⟨-, -, -, others⟩ := judgeLane_frame u u x
      exact (ih rest _).trans (others l hx)
  induction ls generalizing s with
  | nil => cases hl
  | cons x xs ih =>
    obtain ⟨hx, hn⟩ := List.nodup_cons.mp hn
    obtain ⟨length, storm, points, others⟩ := judgeLane_frame s s x
    by_cases same : l = x
    · subst same
      rw [List.foldl_cons, later xs hx, judgeLane_lane s h]
    · rw [List.foldl_cons, ih hn _ ((List.mem_cons.mp hl).resolve_left same) (length ▸ h)]
      exact activeBandNow_congr (others l same) storm points

theorem judgeLanes_activeBand (hl : l < 6) (h : l < s.lanes.length) : (s.judgeLanes.lane l).activeBand = s.activeBandNow l :=
  foldl_judgeLane_activeBand List.nodup_range s (List.mem_range.mpr hl) h

/-! ### The influent point (R130) -/

/-- R130: the monitor frozen. -/
def State.frozen (s : State) : State :=
  s.modStorm fun m =>
    { m with
      influentValid := false, entryTimer := m.entryTimer.suspend s.uptime, holdTimer := m.holdTimer.suspend s.uptime,
      exitTimer := m.exitTimer.suspend s.uptime }

/-- R130: the suspended timers run again. -/
def State.resumed (s : State) : State :=
  (s.clearAlarm .influentInvalid .works).modStorm fun m =>
    { m with
      influentValid := true, entryTimer := m.entryTimer.resume s.uptime, holdTimer := m.holdTimer.resume s.uptime,
      exitTimer := m.exitTimer.resume s.uptime }

/-- R130: the end of a freeze, with the expiry of each timer of `m` that has no time remaining. -/
def State.thawed (s : State) (m : Storm) : State :=
  let entered := if m.entryTimer = .suspended 0 then s.resumed.entryExpires else s.resumed
  let held := if m.holdTimer = .suspended 0 then entered.holdExpires else entered
  if m.exitTimer = .suspended 0 then held.exitExpires else held

theorem thaw_eq (s : State) : s.thaw = s.thawed s.storm := by
  have storm : (s.clearAlarm .influentInvalid .works).storm = s.storm := by rw [(clearAlarm_only _ _ _).2]
  unfold State.thaw State.thawed State.resumed
  dsimp only
  rw [storm, clearAlarm_uptime]

theorem judgeInfluent_absent (h : s.storm.cfg.influentPoint = none) (accepted watched : Bool) :
    s.judgeInfluent accepted watched = s.frozen.clearAlarm .influentInvalid .works := by
  unfold State.judgeInfluent
  rw [h]
  rfl

section
variable (hp : s.storm.cfg.influentPoint = some p)
include hp

theorem influentGood_eq : s.influentGood = s.pointGood p .inflow := by
  unfold State.influentGood
  rw [hp]
  rfl

theorem judgeInfluent_good (hg : s.pointGood p .inflow = true) (accepted watched : Bool) :
    s.judgeInfluent accepted watched =
      let u := if s.storm.influentValid then s else s.thawed s.storm
      if accepted then u.stormReading (s.point p).value else u := by
  have value : (if s.storm.influentValid then s else s.thaw).pointValue p = (s.point p).value := by
    have points : (if s.storm.influentValid then s else s.thaw).points = s.points :=
      ite_keeps (P := fun u => u.points = s.points) rfl ((stormAside_blocks s).thaw ⟨rfl, rfl, rfl, rfl⟩).2.1
    unfold State.pointValue State.point
    rw [points]
  unfold State.judgeInfluent
  rw [hp]
  dsimp only
  rw [if_pos ((influentGood_eq hp).trans hg), value, thaw_eq]

theorem judgeInfluent_freezes (hg : s.pointGood p .inflow = false) (accepted : Bool) {watched : Bool}
    (hv : s.storm.influentValid = true ∨ watched = false) :
    s.judgeInfluent accepted watched = s.frozen.raiseAlarm .influentInvalid .works none := by
  have bad : s.influentGood ≠ true := by
    rw [influentGood_eq hp, hg]
    exact Bool.false_ne_true
  unfold State.judgeInfluent
  rw [hp]
  refine (if_neg bad).trans (if_pos ?_)
  obtain h | h := hv <;> simp [h]

theorem judgeInfluent_stays (hg : s.pointGood p .inflow = false) (accepted : Bool) (hv : s.storm.influentValid = false) :
    s.judgeInfluent accepted true = s := by
  have bad : s.influentGood ≠ true := by
    rw [influentGood_eq hp, hg]
    exact Bool.false_ne_true
  unfold State.judgeInfluent
  rw [hp]
  refine (if_neg bad).trans (if_neg ?_)
  simp [hv]

end

/-- R130, R131: a report of the influent point. -/
theorem stormPoint_eq (hp : s.storm.cfg.influentPoint = some p) (accepted : Bool) :
    s.stormPoint p accepted = s.judgeInfluent accepted true := if_pos hp

theorem stormReading_of_forced (h : s.storm.force ≠ .auto) (v : Nat) :
    s.stormReading v = s.modStorm fun m => { m with lastInfluent := some v } := if_pos h

/-! ### Entering a state (R132, R133) -/

theorem stormInForce_iff : s.stormInForce = true ↔ s.storm.state = .storm ∨ s.storm.state = .falling := by
  unfold State.stormInForce
  cases s.storm.state <;> simp

/-- R133: the monitor in its new state, with the notice. -/
def State.noted (s : State) (st : StormState) (active : Bool) : State :=
  (s.modStorm fun m => { m with state := st, lastChange := s.uptime }).offerNotice
    (.stormChange s.storm.state st s.storm.force active s.storm.lastInfluent s.uptime)

theorem enterStorm_eq (h : s.storm.state ≠ st) {is : Bool}
    (his : (s.modStorm fun m => { m with state := st, lastChange := s.uptime }).stormInForce = is) :
    s.enterStorm st = if s.stormInForce = is then s.noted st is
      else ((s.noted st is).setAlarm .stormActive .works is s.storm.lastInfluent).judgeLanes.judgeMinimum := by
  subst his
  exact if_neg h

theorem enterStorm_storm (s : State) (st : StormState) : (s.enterStorm st).storm =
    if s.storm.state = st then s.storm else { s.storm with state := st, lastChange := s.uptime } := by
  split_ifs with h
  · exact congrArg State.storm (if_pos h)
  · have hP := storm_lanes { s.storm with state := st, lastChange := s.uptime }
    rw [enterStorm_eq h rfl]
    have noted : (s.noted st (s.modStorm fun m => { m with state := st, lastChange := s.uptime }).stormInForce).storm
        = { s.storm with state := st, lastChange := s.uptime } := by
      unfold State.noted
      rw [offerNotice_eq]
      rfl
    exact ite_keeps (P := fun u => u.storm = _) noted (hP.judgeMinimum (hP.judgeLanes (hP.setAlarm noted _ _ _ _)))

end Sys2Proof.Machine
end

section
/-! STORM_WRITE and STORM_FORCE (R127, R131). -/

namespace Sys2Proof.Machine

open Sys2Proof

variable {s t u : State} {p v : Nat} {st : StormState} {c : StormCfg} {f : Force}

/-! ### STORM_WRITE -/

theorem rewriteStorm_kept (h : c.influentPoint = s.storm.cfg.influentPoint) :
    s.rewriteStorm c = s.modStorm fun m => { m with cfg := c } := if_pos h

theorem rewriteStorm_moved (h : c.influentPoint ≠ s.storm.cfg.influentPoint) : s.rewriteStorm c
    = (s.modStorm fun m => { m with cfg := c, lastInfluent := none }).judgeInfluent false s.storm.cfg.influentPoint.isSome := if_neg h

theorem rewriteStorm_config (s : State) (c : StormCfg) : (s.rewriteStorm c).config = { s.config with storm := c } := by
  have plant := config_plant { s.config with storm := c }
  exact ite_keeps (P := fun u => u.config = { s.config with storm := c }) rfl (plant.judgeInfluent rfl _ _)

/-! ### STORM_FORCE -/

theorem takeForce_config (s : State) (f : Force) : (s.takeForce f).config = { s.config with force := f } := by
  have plant := config_plant { s.config with force := f }
  cases f with
  | on => exact plant.enterStorm (s := (s.modStorm fun m => { m with force := .on }).stopStormTimers) rfl .storm
  | off => exact plant.enterStorm (s := (s.modStorm fun m => { m with force := .off }).stopStormTimers) rfl .normal
  | auto =>
    have fresh : (s.modStorm fun m => { m with force := .auto }).freshHold.config = { s.config with force := .auto } :=
      ite_keeps (P := fun u => u.config = { s.config with force := .auto }) rfl rfl
    unfold State.takeForce
    dsimp only
    split
    · split
      · exact plant.stormReading fresh _
      · exact fresh
    · exact plant.suspendTimers fresh

/-- R131: ON and OFF. -/
theorem takeForce_storm (hf : f ≠ .auto) : (s.takeForce f).storm = { s.storm with
    force := f, state := if f = .on then .storm else .normal, entryTimer := .stopped, holdTimer := .stopped,
    exitTimer := .stopped, holdExpired := false,
    lastChange := if s.storm.state = (if f = .on then .storm else .normal) then s.storm.lastChange else s.uptime } := by
  have enters (st : StormState) := enterStorm_storm ((s.modStorm fun m => { m with force := f }).stopStormTimers) st
  have forced (st : StormState) : (((s.modStorm fun m => { m with force := f }).stopStormTimers).enterStorm st).storm = { s.storm with
      force := f, state := st, entryTimer := .stopped, holdTimer := .stopped, exitTimer := .stopped, holdExpired := false,
      lastChange := if s.storm.state = st then s.storm.lastChange else s.uptime } := by
    rw [enters]
    by_cases h : s.storm.state = st
    · refine (if_pos h).trans ?_
      rw [if_pos h, ← h]
      rfl
    · refine (if_neg h).trans ?_
      rw [if_neg h]
      rfl
  cases f with
  | on => exact forced .storm
  | off => exact forced .normal
  | auto => exact absurd rfl hf

/-- R131: AUTO, in STORM with a fresh hold. -/
def State.freed (s : State) : State :=
  let freed := s.modStorm fun m => { m with force := .auto }
  if s.storm.state = .storm then freed.modStorm fun m =>
    { m with holdTimer := .running (s.uptime + m.cfg.minimumHold * 60), holdExpired := false } else freed

/-- R131: with the timers suspended. -/
def State.freedFrozen (s : State) : State :=
  s.freed.modStorm fun m =>
    { m with
      entryTimer := m.entryTimer.suspend s.uptime, holdTimer := m.holdTimer.suspend s.uptime,
      exitTimer := m.exitTimer.suspend s.uptime }

theorem takeForce_auto (s : State) : s.takeForce .auto = if s.influentGood then
    s.storm.lastInfluent.elim s.freed s.freed.stormReading else s.freedFrozen := by
  have fresh : (s.modStorm fun m => { m with force := .auto }).freshHold = s.freed := rfl
  have good : s.freed.influentGood = s.influentGood := by unfold State.freed; dsimp only; split_ifs <;> rfl
  have last : s.freed.storm.lastInfluent = s.storm.lastInfluent := by unfold State.freed; dsimp only; split_ifs <;> rfl
  have uptime : s.freed.uptime = s.uptime := by unfold State.freed; dsimp only; split_ifs <;> rfl
  unfold State.takeForce State.freedFrozen State.suspendTimers
  dsimp only
  rw [fresh, good, last, uptime]
  cases s.storm.lastInfluent <;> rfl

/-! ### The statement -/

/-- R127: an accepted STORM_WRITE. -/
theorem exec_stormWrite {h : Hdr} (hs : s.ready) (hok : s.stormOk c = true) :
    exec (.stormWrite h c) s = .next (((s.addressed h).rewriteStorm c).answered h 31 .done []) :=
  exec_accepted (c := .stormWrite h c) rfl hs rfl hok

/-- R131: a STORM_FORCE of another force than the one held. -/
theorem exec_stormForce {h : Hdr} (hs : s.ready) (hf : f ≠ s.storm.force) :
    exec (.stormForce h (.val f)) s = .next (((s.addressed h).takeForce f).answered h 32 .done []) := by
  have handled : handleStormForce (.val f) (s.addressed h) = ((s.addressed h).takeForce f).done := if_neg hf
  exact exec_done (c := .stormForce h (.val f)) rfl hs (congrArg (fun x : Handled => (x.state, some (x.status, x.report))) handled)

/-- R127: a write that moves the influent point. -/
theorem stormWrite_moves {h : Hdr} (hs : s.ready) (hok : s.stormOk c = true) (hc : c.influentPoint ≠ s.storm.cfg.influentPoint) :
    let written := (s.addressed h).modStorm fun m => { m with cfg := c, lastInfluent := none }
    let answers := fun u : State => exec (.stormWrite h c) s = .next (u.answered h 31 .done [])
    (c.influentPoint = none → answers (written.frozen.clearAlarm .influentInvalid .works))
      ∧ ∀ p, c.influentPoint = some p →
        (s.pointGood p .inflow = true → answers (if s.storm.influentValid then written else written.thawed s.storm))
        ∧ (s.pointGood p .inflow = false → s.storm.influentValid = true ∨ s.storm.cfg.influentPoint = none →
          answers (written.frozen.raiseAlarm .influentInvalid .works none))
        ∧ (s.pointGood p .inflow = false → s.storm.influentValid = false → s.storm.cfg.influentPoint ≠ none → answers written) := by
  intro written answers
  have judged : answers (written.judgeInfluent false s.storm.cfg.influentPoint.isSome) := by
    have moved := rewriteStorm_moved (s := s.addressed h) hc
    have accepted := exec_stormWrite (h := h) hs hok
    rw [moved] at accepted
    exact accepted
  refine ⟨fun absent => ?_, fun p hp => ⟨fun good => ?_, fun bad edge => ?_, fun bad still watched => ?_⟩⟩
  · rw [judgeInfluent_absent (s := written) absent] at judged
    exact judged
  · rw [judgeInfluent_good (s := written) hp good] at judged
    exact judged
  · have first : written.storm.influentValid = true ∨ s.storm.cfg.influentPoint.isSome = false :=
      edge.imp id fun k => by rw [k]; rfl
    rw [judgeInfluent_freezes (s := written) hp bad false first] at judged
    exact judged
  · rw [Option.isSome_iff_ne_none.mpr watched, judgeInfluent_stays (s := written) hp bad false still] at judged
    exact judged

/-- R130, R131: the monitor takes up a report of its influent point. -/
theorem stormPoint_moves (hp : s.storm.cfg.influentPoint = some p) (accepted : Bool) :
    (s.pointGood p .inflow = false → s.storm.influentValid = true →
        s.stormPoint p accepted = s.frozen.raiseAlarm .influentInvalid .works none)
      ∧ (s.pointGood p .inflow = false → s.storm.influentValid = false → s.stormPoint p accepted = s)
      ∧ (s.pointGood p .inflow = true → s.storm.influentValid = true →
        s.stormPoint p accepted = if accepted then s.stormReading (s.point p).value else s)
      ∧ (s.pointGood p .inflow = true → s.storm.influentValid = false → s.stormPoint p accepted =
        if accepted then (s.thawed s.storm).stormReading (s.point p).value else s.thawed s.storm) := by
  rw [stormPoint_eq hp]
  refine ⟨fun bad valid => judgeInfluent_freezes hp bad accepted (.inl valid), fun bad still => judgeInfluent_stays hp bad accepted still,
    fun good valid => ?_, fun good frozen => ?_⟩
  · rw [judgeInfluent_good hp good, valid]
    rfl
  · rw [judgeInfluent_good hp good, frozen]
    rfl

/-- R132: what an entry to a state does beside the notice. -/
theorem enterStorm_cases (s : State) (st : StormState) :
    let was := s.storm.state = .storm ∨ s.storm.state = .falling
    let is := st = .storm ∨ st = .falling
    (s.storm.state = st → s.enterStorm st = s)
      ∧ (s.storm.state ≠ st → was → is → s.enterStorm st = s.noted st true)
      ∧ (s.storm.state ≠ st → ¬ was → ¬ is → s.enterStorm st = s.noted st false)
      ∧ (¬ was → is → s.enterStorm st
        = ((s.noted st true).raiseAlarm .stormActive .works s.storm.lastInfluent).judgeLanes.judgeMinimum)
      ∧ (was → ¬ is → s.enterStorm st = ((s.noted st false).clearAlarm .stormActive .works).judgeLanes.judgeMinimum) := by
  intro was is
  let moved := s.modStorm fun m => { m with state := st, lastChange := s.uptime }
  have now : moved.stormInForce = true ↔ is := stormInForce_iff
  have before : s.stormInForce = true ↔ was := stormInForce_iff
  have holds (h : is) : moved.stormInForce = true := now.mpr h
  have ended (h : ¬ is) : moved.stormInForce = false := Bool.not_eq_true _ ▸ mt now.mp h
  refine ⟨fun h => if_pos h, fun h w i => ?_, fun h w i => ?_, fun w i => ?_, fun w i => ?_⟩
  · rw [enterStorm_eq h (holds i), if_pos (before.mpr w)]
  · rw [enterStorm_eq h (ended i), if_pos (Bool.not_eq_true _ ▸ mt before.mp w)]
  · have enters : s.storm.state ≠ st := by
      rintro rfl
      exact w i
    rw [enterStorm_eq enters (holds i), if_neg (mt before.mp w)]
    rfl
  · have enters : s.storm.state ≠ st := by
      rintro rfl
      exact i w
    rw [enterStorm_eq enters (ended i), if_neg (by rw [before.mpr w]; decide)]
    rfl

/-- Settles O43: the requests, the influent point, then an entry to a state and the lanes it judges. -/
theorem stormRequestsSetTheMonitor : Obligations.StormRequestsSetTheMonitor := by
  refine ⟨fun s h hs => ⟨fun c hok => ?_, fun c hok hc => stormWrite_moves hs hok hc, fun code => ?_, ?_, fun f hf => ?_,
    fun hf => ?_⟩, fun s v hf => stormReading_of_forced hf v, fun now e => ⟨rfl, rfl, rfl, rfl, rfl, rfl⟩,
    fun s p accepted => ⟨fun hp => if_neg hp, fun hp => stormPoint_moves hp accepted⟩,
    fun s => ⟨fun st => enterStorm_cases s st, fun l hl h => judgeLanes_activeBand hl h⟩⟩
  · let u := (s.addressed h).rewriteStorm c
    have settled := Settled.answered u h 31 .done []
    have own : u.port.own = (s.addressed h).port.own := (ownPort_effects _).rewriteStorm rfl c
    obtain ⟨stations, points, -⟩ := (stormAside_blocks (s.addressed h)).rewriteStorm ⟨rfl, rfl, rfl, rfl⟩ c
    refine ⟨_, exec_stormWrite hs hok, answered_replied own 31 .done [], settled.config.trans (rewriteStorm_config _ c),
      settled.stations.trans stations, settled.points.trans points, fun kept => ?_⟩
    have written := rewriteStorm_kept (s := s.addressed h) kept
    have storm : u.storm = { s.storm with cfg := c } := congrArg State.storm written
    have zones : u.zones = s.zones := (congrArg State.zones written).trans rfl
    have blowers : u.blowers = s.blowers := (congrArg State.blowers written).trans rfl
    exact ⟨settled.storm.trans storm, settled.zones.trans zones, settled.blowers.trans blowers⟩
  · exact exec_bare (c := .stormForce h (.unlisted code)) rfl hs rfl (by decide)
  · have handled : handleStormForce (.val s.storm.force) (s.addressed h) = (s.addressed h).done := if_pos rfl
    exact exec_done (c := .stormForce h (.val s.storm.force)) rfl hs
      (congrArg (fun x : Handled => (x.state, some (x.status, x.report))) handled)
  · let u := (s.addressed h).takeForce f
    have settled := Settled.answered u h 32 .done []
    have own : u.port.own = (s.addressed h).port.own := (ownPort_effects _).takeForce rfl f
    obtain ⟨stations, points, channels, hand⟩ := (stormAside_blocks (s.addressed h)).takeForce ⟨rfl, rfl, rfl, rfl⟩ f
    exact ⟨_, exec_stormForce hs hf, answered_replied own 32 .done [], settled.config.trans (takeForce_config _ f),
      settled.stations.trans stations, settled.points.trans points, settled.channels.trans channels, settled.hand.trans hand,
      fun auto => settled.storm.trans (takeForce_storm (s := s.addressed h) auto)⟩
  · have takes := exec_stormForce (h := h) (f := .auto) hs (Ne.symm hf)
    have good : (s.addressed h).influentGood = true ↔ ∃ p ∈ s.storm.cfg.influentPoint, s.pointGood p .inflow = true :=
      optPointGood_iff (s := s.addressed h) s.storm.cfg.influentPoint .inflow
    rw [takeForce_auto] at takes
    refine ⟨fun bad => ?_, fun fine last => ?_, fun v fine last => ?_⟩
    · rw [if_neg (mt good.mp bad)] at takes
      exact takes
    · rw [if_pos (good.mpr fine), show (s.addressed h).storm.lastInfluent = none from last] at takes
      exact takes
    · rw [if_pos (good.mpr fine), show (s.addressed h).storm.lastInfluent = some v from last] at takes
      exact takes

end Sys2Proof.Machine
end

section
/-! The grants of an allocation pass (R96 to R101): what they sum to, and their four stages. -/

namespace Sys2Proof.Machine

open Sys2Proof

variable {cs : List Claim} {a b wants shares computed : List Nat} {air spare i : Nat}

/-! ### Lists of air -/

theorem length_addAir (h : a.length = b.length) : (addAir a b).length = a.length := by
  unfold addAir
  rw [List.length_zipWith, h, Nat.min_self]

theorem sum_addAir (h : a.length = b.length) : (addAir a b).sum = a.sum + b.sum :=
  (List.sum_add_sum_eq_sum_zipWith_of_length_eq a b h).symm

theorem getD_addAir (h : a.length = b.length) (i : Nat) : (addAir a b).getD i 0 = a.getD i 0 + b.getD i 0 := by
  unfold addAir
  induction a generalizing b i with
  | nil =>
    cases b with
    | nil => simp
    | cons y ys => cases h
  | cons x xs ih =>
    cases b with
    | nil => cases h
    | cons y ys =>
      cases i with
      | zero => rfl
      | succ i => exact ih (Nat.succ.inj h) i

/-- A list of wants met from some air: no more than the air, and nothing to a want of 0. -/
structure Meets (air : Nat) (wants shares : List Nat) : Prop where
  length : shares.length = wants.length
  sum : shares.sum ≤ air
  none : ∀ i, wants.getD i 0 = 0 → shares.getD i 0 = 0

theorem sum_shares_le (air S : Nat) (ws : List Nat) : (ws.map fun w => air * w / S).sum * S ≤ air * ws.sum := by
  induction ws with
  | nil => simp
  | cons w ws ih =>
    have first := Nat.div_mul_le_self (air * w) S
    simp only [List.map_cons, List.sum_cons, Nat.add_mul, Nat.mul_add]
    omega

theorem getD_shareOut_le (air : Nat) (wants : List Nat) (i : Nat) : (shareOut air wants).getD i 0 ≤ wants.getD i 0 := by
  unfold shareOut
  split_ifs with fits
  · exact Nat.le_refl _
  · have scaled : (wants.map fun w => air * w / wants.sum).getD i 0 = air * wants.getD i 0 / wants.sum := by
      simp only [List.getD_eq_getElem?_getD, List.getElem?_map]
      cases wants[i]? <;> simp
    rw [scaled]
    exact Nat.div_le_of_le_mul (Nat.mul_le_mul_right _ (by omega))

theorem shareOut_meets (air : Nat) (wants : List Nat) : Meets air wants (shareOut air wants) := by
  refine ⟨?_, ?_, fun i h => Nat.le_zero.mp ((getD_shareOut_le air wants i).trans_eq h)⟩
  · unfold shareOut
    split_ifs
    · rfl
    · exact List.length_map _
  · unfold shareOut
    split_ifs with fits
    · exact fits
    · exact Nat.le_of_mul_le_mul_right (sum_shares_le air wants.sum wants) (by omega)

theorem getD_zipWith_eq_zero {f : Claim → Nat → Nat} (hf : ∀ c, f c 0 = 0) (h : wants.getD i 0 = 0) :
    (List.zipWith f cs wants).getD i 0 = 0 := by
  rw [List.getD_eq_getElem?_getD] at h ⊢
  rw [List.getElem?_zipWith]
  cases cs[i]? with
  | none => rfl
  | some c =>
    cases hw : wants[i]? with
    | none => rfl
    | some w =>
      rw [hw] at h
      obtain rfl : w = 0 := h
      exact hf c

/-- R99: no more than the air, class by class. -/
theorem priorityShares_meets (h : cs.length = wants.length) (ks : List Nat) (air : Nat) :
    Meets air wants (priorityShares cs wants ks air) := by
  induction ks generalizing air with
  | nil =>
    refine ⟨List.length_map _, ?_, fun i _ => ?_⟩
    · simp [priorityShares]
    · simp only [priorityShares, List.getD_eq_getElem?_getD, List.getElem?_map]
      cases wants[i]? <;> rfl
  | cons k ks ih =>
    have length : (classWants k cs wants).length = wants.length := by simp [classWants, h]
    have none (i : Nat) (hi : wants.getD i 0 = 0) : (classWants k cs wants).getD i 0 = 0 :=
      getD_zipWith_eq_zero (fun c => by simp) hi
    unfold priorityShares
    dsimp only
    split_ifs with fits
    · have rest := ih (air - (classWants k cs wants).sum)
      have same : (classWants k cs wants).length
          = (priorityShares cs wants ks (air - (classWants k cs wants).sum)).length := length.trans rest.length.symm
      refine ⟨(length_addAir same).trans length, ?_, fun i hi => ?_⟩
      · rw [sum_addAir same]
        have := rest.sum
        omega
      · rw [getD_addAir same, none i hi, rest.none i hi]
    · have shared := shareOut_meets air (classWants k cs wants)
      exact ⟨shared.length.trans length, shared.sum, fun i hi => shared.none i (none i hi)⟩

theorem remainderShares_meets (h : cs.length = wants.length) (policy : Policy) (air : Nat) :
    Meets air wants (remainderShares policy cs wants air) := by
  cases policy with
  | priority => exact priorityShares_meets h _ air
  | level => exact shareOut_meets air wants

/-! ### The computed grants -/

theorem handGrants_meets (supply : Nat) (cs : List Claim) : Meets supply (cs.map Claim.handClaim) (handGrants supply cs) :=
  shareOut_meets ..

theorem floorGrants_meets (supply : Nat) (cs : List Claim) :
    Meets (supply - (handGrants supply cs).sum) (cs.map Claim.floorClaim) (floorGrants supply cs) := shareOut_meets ..

theorem length_handGrants (supply : Nat) (cs : List Claim) : (handGrants supply cs).length = cs.length :=
  (handGrants_meets supply cs).length.trans (List.length_map _)

theorem length_floorGrants (supply : Nat) (cs : List Claim) : (floorGrants supply cs).length = cs.length :=
  (floorGrants_meets supply cs).length.trans (List.length_map _)

theorem length_remainingDemands (supply : Nat) (cs : List Claim) :
    (remainingDemands (floorGrants supply cs) cs).length = cs.length := by
  unfold remainingDemands
  rw [List.length_zipWith, length_floorGrants, Nat.min_self]

/-- The third stage, from the air the first two left. -/
def thirdShares (policy : Policy) (supply : Nat) (cs : List Claim) : List Nat :=
  remainderShares policy cs (remainingDemands (floorGrants supply cs) cs)
    (supply - (handGrants supply cs).sum - (floorGrants supply cs).sum)

theorem thirdShares_meets (policy : Policy) (supply : Nat) (cs : List Claim) :
    Meets (supply - (handGrants supply cs).sum - (floorGrants supply cs).sum) (remainingDemands (floorGrants supply cs) cs)
      (thirdShares policy supply cs) := remainderShares_meets (length_remainingDemands supply cs).symm policy _

theorem length_thirdShares (policy : Policy) (supply : Nat) (cs : List Claim) : (thirdShares policy supply cs).length = cs.length :=
  (thirdShares_meets policy supply cs).length.trans (length_remainingDemands supply cs)

theorem computedGrants_eq (policy : Policy) (supply : Nat) (cs : List Claim) : computedGrants policy supply cs
    = addAir (addAir (handGrants supply cs) (floorGrants supply cs)) (thirdShares policy supply cs) := rfl

theorem length_handFloor (supply : Nat) (cs : List Claim) :
    (addAir (handGrants supply cs) (floorGrants supply cs)).length = cs.length := by
  rw [length_addAir ((length_handGrants supply cs).trans (length_floorGrants supply cs).symm), length_handGrants]

theorem length_computedGrants (policy : Policy) (supply : Nat) (cs : List Claim) :
    (computedGrants policy supply cs).length = cs.length := by
  rw [computedGrants_eq, length_addAir ((length_handFloor supply cs).trans (length_thirdShares policy supply cs).symm), length_handFloor]

theorem sum_computedGrants_le (policy : Policy) (supply : Nat) (cs : List Claim) : (computedGrants policy supply cs).sum ≤ supply := by
  rw [computedGrants_eq, sum_addAir ((length_handFloor supply cs).trans (length_thirdShares policy supply cs).symm),
    sum_addAir ((length_handGrants supply cs).trans (length_floorGrants supply cs).symm)]
  have hands := (handGrants_meets supply cs).sum
  have floors := (floorGrants_meets supply cs).sum
  have shares := (thirdShares_meets policy supply cs).sum
  omega

theorem getD_computedGrants (policy : Policy) (supply : Nat) (cs : List Claim) (i : Nat) :
    (computedGrants policy supply cs).getD i 0
      = (handGrants supply cs).getD i 0 + (floorGrants supply cs).getD i 0 + (thirdShares policy supply cs).getD i 0 := by
  rw [computedGrants_eq, getD_addAir ((length_handFloor supply cs).trans (length_thirdShares policy supply cs).symm),
    getD_addAir ((length_handGrants supply cs).trans (length_floorGrants supply cs).symm)]

/-! ### What ON_REQUEST zones keep (R101) -/

/-- R101: what a zone keeps where the computed grant is `g`. -/
def Claim.keeps (c : Claim) (g spare : Nat) : Nat := if c.trimming && c.onRequest then max g (min c.previous (g + spare)) else g

theorem Claim.le_keeps (c : Claim) (g spare : Nat) : g ≤ c.keeps g spare := by
  unfold Claim.keeps
  split_ifs
  · exact Nat.le_max_left ..
  · exact Nat.le_refl _

theorem Claim.keeps_le (c : Claim) (g spare : Nat) : c.keeps g spare ≤ g + spare := by
  unfold Claim.keeps
  split_ifs
  · exact Nat.max_le.mpr ⟨Nat.le_add_right .., Nat.min_le_right ..⟩
  · exact Nat.le_add_right ..

theorem releaseKeep_cons (spare : Nat) (c : Claim) (cs : List Claim) (g : Nat) (gs : List Nat) : releaseKeep spare (c :: cs) (g :: gs)
    = c.keeps g spare :: releaseKeep (spare - (c.keeps g spare - g)) cs gs := rfl

theorem length_releaseKeep (spare : Nat) (h : cs.length = computed.length) : (releaseKeep spare cs computed).length = cs.length := by
  induction cs generalizing spare computed with
  | nil => rfl
  | cons c cs ih =>
    cases computed with
    | nil => cases h
    | cons g gs => exact congrArg (· + 1) (ih _ (Nat.succ.inj h))

theorem sum_releaseKeep_le (spare : Nat) (h : cs.length = computed.length) :
    (releaseKeep spare cs computed).sum ≤ computed.sum + spare := by
  induction cs generalizing spare computed with
  | nil => exact Nat.zero_le _
  | cons c cs ih =>
    cases computed with
    | nil => cases h
    | cons g gs =>
      have rest := ih (spare - (c.keeps g spare - g)) (Nat.succ.inj h)
      have least := c.le_keeps g spare
      have most := c.keeps_le g spare
      rw [releaseKeep_cons, List.sum_cons, List.sum_cons]
      omega

/-- R101: in zone order, each from the spare that the zones before it left. -/
theorem getD_releaseKeep {c : Claim} {g : Nat} (hc : cs[i]? = some c) (hg : computed[i]? = some g) (spare : Nat) :
    (releaseKeep spare cs computed).getD i 0 = c.keeps g
      (spare - ((List.range i).map fun j => (releaseKeep spare cs computed).getD j 0 - computed.getD j 0).sum) := by
  induction i generalizing cs computed spare with
  | zero =>
    cases cs with
    | nil => cases hc
    | cons d cs =>
      cases computed with
      | nil => cases hg
      | cons k gs =>
        obtain rfl : d = c := Option.some.inj hc
        obtain rfl : k = g := Option.some.inj hg
        rfl
  | succ i ih =>
    cases cs with
    | nil => cases hc
    | cons d cs =>
      cases computed with
      | nil => cases hg
      | cons k gs =>
        have rest := ih (cs := cs) (computed := gs) hc hg (spare - (d.keeps k spare - k))
        have kept : ((List.range (i + 1)).map fun j => (releaseKeep spare (d :: cs) (k :: gs)).getD j 0 - (k :: gs).getD j 0).sum
            = (d.keeps k spare - k)
              + ((List.range i).map fun j => (releaseKeep (spare - (d.keeps k spare - k)) cs gs).getD j 0 - gs.getD j 0).sum := by
          rw [List.range_succ_eq_map, List.map_cons, List.sum_cons, List.map_map]
          rfl
        rw [kept, ← Nat.sub_sub]
        exact rest

/-! ### The grants -/

/-- R101: some zone asks for more than it is granted. -/
def asks (cs : List Claim) (computed : List Nat) : Bool := (List.zipWith requesting cs computed).any id

theorem computeGrants_of_asks {policy : Policy} {supply : Nat} (h : asks cs (computedGrants policy supply cs) = true) :
    computeGrants policy supply cs = computedGrants policy supply cs := if_pos h

theorem computeGrants_of_rest {policy : Policy} {supply : Nat} (h : asks cs (computedGrants policy supply cs) = false) :
    computeGrants policy supply cs
      = releaseKeep (supply - (computedGrants policy supply cs).sum) cs (computedGrants policy supply cs) :=
  if_neg (Bool.eq_false_iff.mp h)

theorem length_computeGrants (policy : Policy) (supply : Nat) (cs : List Claim) : (computeGrants policy supply cs).length = cs.length := by
  obtain h | h := Bool.eq_false_or_eq_true (asks cs (computedGrants policy supply cs))
  · rw [computeGrants_of_asks h, length_computedGrants]
  · rw [computeGrants_of_rest h, length_releaseKeep _ (length_computedGrants policy supply cs).symm]

/-- R96 to R101: the grants never sum above the supply. -/
theorem sum_computeGrants_le (policy : Policy) (supply : Nat) (cs : List Claim) : (computeGrants policy supply cs).sum ≤ supply := by
  have computed := sum_computedGrants_le policy supply cs
  obtain h | h := Bool.eq_false_or_eq_true (asks cs (computedGrants policy supply cs))
  · rw [computeGrants_of_asks h]
    exact computed
  · rw [computeGrants_of_rest h]
    have kept := sum_releaseKeep_le (supply - (computedGrants policy supply cs).sum) (length_computedGrants policy supply cs).symm
    omega

theorem exists_computedGrants (policy : Policy) (supply : Nat) {c : Claim} (hc : cs[i]? = some c) :
    (computedGrants policy supply cs)[i]? = some ((computedGrants policy supply cs).getD i 0) := by
  obtain ⟨length, -⟩ := List.getElem?_eq_some_iff.mp hc
  have longer : i < (computedGrants policy supply cs).length := (length_computedGrants policy supply cs).symm ▸ length
  rw [List.getD_eq_getElem?_getD, List.getElem?_eq_getElem longer]
  rfl

/-- A zone that does not trim keeps its computed grant. -/
theorem getD_computeGrants_of_rest {policy : Policy} {supply : Nat} {c : Claim} (hc : cs[i]? = some c) (ht : c.trimming = false) :
    (computeGrants policy supply cs).getD i 0 = (computedGrants policy supply cs).getD i 0 := by
  obtain h | h := Bool.eq_false_or_eq_true (asks cs (computedGrants policy supply cs))
  · rw [computeGrants_of_asks h]
  · rw [computeGrants_of_rest h, getD_releaseKeep hc (exists_computedGrants policy supply hc)]
    exact if_neg (by rw [ht]; exact Bool.false_ne_true)

theorem getD_map_claim {f : Claim → Nat} {c : Claim} (hc : cs[i]? = some c) : (cs.map f).getD i 0 = f c := by
  rw [List.getD_eq_getElem?_getD, List.getElem?_map, hc]
  rfl

/-- A zone that neither trims nor is held is granted its floor at most. -/
theorem getD_computedGrants_le {c : Claim} (hc : cs[i]? = some c) (ht : c.trimming = false) (hh : c.hand = false) (policy : Policy)
    (supply : Nat) : (computedGrants policy supply cs).getD i 0 ≤ c.floorClaim := by
  have hand : (handGrants supply cs).getD i 0 = 0 := by
    refine (handGrants_meets supply cs).none i ((getD_map_claim hc).trans ?_)
    unfold Claim.handClaim
    rw [hh]
    rfl
  have shares : (thirdShares policy supply cs).getD i 0 = 0 := by
    refine (thirdShares_meets policy supply cs).none i ?_
    unfold remainingDemands
    rw [List.getD_eq_getElem?_getD, List.getElem?_zipWith, hc]
    cases (floorGrants supply cs)[i]? with
    | none => rfl
    | some f => exact if_neg (by rw [ht]; exact Bool.false_ne_true)
  have floor : (floorGrants supply cs).getD i 0 ≤ c.floorClaim := (getD_shareOut_le _ _ i).trans_eq (getD_map_claim hc)
  rw [getD_computedGrants, hand, shares]
  omega

theorem getD_computeGrants_of_off {c : Claim} (hc : cs[i]? = some c) (hm : c.mode = .off) (policy : Policy) (supply : Nat) :
    (computeGrants policy supply cs).getD i 0 = 0 := by
  have ht : c.trimming = false := by simp [Claim.trimming, hm]
  have least := getD_computedGrants_le hc ht (by simp [Claim.hand, hm]) policy supply
  have floor : c.floorClaim = 0 := by simp [Claim.floorClaim, Claim.floorZone, hm]
  rw [getD_computeGrants_of_rest hc ht]
  omega

theorem getD_computeGrants_of_waiting {c : Claim} (hc : cs[i]? = some c) (hm : c.mode = .waiting) (policy : Policy) (supply : Nat) :
    (computeGrants policy supply cs).getD i 0 ≤ c.floor := by
  have ht : c.trimming = false := by simp [Claim.trimming, hm]
  have least := getD_computedGrants_le hc ht (by simp [Claim.hand, hm]) policy supply
  have floor : c.floorClaim = c.floor := by simp [Claim.floorClaim, Claim.floorZone, hm]
  rw [getD_computeGrants_of_rest hc ht]
  omega

/-! ### The third stage under PRIORITY (R99) -/

theorem zipWith_congr_mem {f g : Claim → Nat → Nat} (h : ∀ c ∈ cs, ∀ w, f c w = g c w) (wants : List Nat) :
    List.zipWith f cs wants = List.zipWith g cs wants := by
  induction cs generalizing wants with
  | nil => rfl
  | cons c cs ih =>
    cases wants with
    | nil => rfl
    | cons w ws =>
      rw [List.zipWith_cons_cons, List.zipWith_cons_cons, h c List.mem_cons_self, ih fun d hd => h d (List.mem_cons_of_mem c hd)]

theorem addAir_zipWith (f g : Claim → Nat → Nat) (cs : List Claim) (wants : List Nat) :
    addAir (List.zipWith f cs wants) (List.zipWith g cs wants) = List.zipWith (fun c w => f c w + g c w) cs wants := by
  unfold addAir
  induction cs generalizing wants with
  | nil => rfl
  | cons c cs ih =>
    cases wants with
    | nil => rfl
    | cons w ws => exact congrArg ((f c w + g c w) :: ·) (ih ws)

theorem zipWith_zero (h : cs.length = wants.length) : List.zipWith (fun _ _ => 0) cs wants = wants.map fun _ => 0 := by
  induction cs generalizing wants with
  | nil => rw [List.eq_nil_of_length_eq_zero h.symm]; rfl
  | cons c cs ih =>
    cases wants with
    | nil => cases h
    | cons w ws => exact congrArg (0 :: ·) (ih (Nat.succ.inj h))

/-- What a class wants. -/
def wantedBy (cs : List Claim) (wants : List Nat) (k : Nat) : Nat := (classWants k cs wants).sum

/-- What the classes before a class want. -/
def wantedSooner (cs : List Claim) (wants : List Nat) (k : Nat) : Nat := ((List.range k).map (wantedBy cs wants)).sum

theorem wantedSooner_succ (cs : List Claim) (wants : List Nat) (k : Nat) :
    wantedSooner cs wants (k + 1) = wantedSooner cs wants k + wantedBy cs wants k := by
  unfold wantedSooner
  rw [List.range_succ, List.map_append, List.sum_append, List.map_singleton, List.sum_singleton]

theorem wantedSooner_mono (cs : List Claim) (wants : List Nat) : Monotone (wantedSooner cs wants) :=
  monotone_nat_of_le_succ fun k => by rw [wantedSooner_succ]; exact Nat.le_add_right ..

/-- R99: the share of one zone, by its class. -/
def classShare (cs : List Claim) (wants : List Nat) (air : Nat) (c : Claim) (w : Nat) : Nat :=
  let k := c.priorityClass
  if wantedSooner cs wants k + wantedBy cs wants k ≤ air then w else (air - wantedSooner cs wants k) * w / wantedBy cs wants k

/-- After a class that is not met in full no class is granted anything. -/
theorem classShare_after {k : Nat} (hk : air < wantedSooner cs wants k + wantedBy cs wants k) {c : Claim} (hc : k < c.priorityClass)
    (w : Nat) : classShare cs wants air c w = 0 := by
  have later := wantedSooner_mono cs wants (Nat.succ_le_of_lt hc)
  rw [Nat.succ_eq_add_one, wantedSooner_succ] at later
  have empty : air - wantedSooner cs wants c.priorityClass = 0 := by omega
  refine (if_neg (by omega)).trans ?_
  rw [empty, Nat.zero_mul, Nat.zero_div]

theorem priorityShares_cons (cs : List Claim) (wants : List Nat) (k : Nat) (ks : List Nat) (air : Nat) :
    priorityShares cs wants (k :: ks) air = if wantedBy cs wants k ≤ air then
      addAir (classWants k cs wants) (priorityShares cs wants ks (air - wantedBy cs wants k))
      else shareOut air (classWants k cs wants) := rfl

/-- The classes from `k` on. -/
theorem priorityShares_range' (h : cs.length = wants.length) (n k : Nat) (hk : wantedSooner cs wants k ≤ air) :
    priorityShares cs wants (List.range' k n) (air - wantedSooner cs wants k) = List.zipWith
      (fun c w => if k ≤ c.priorityClass ∧ c.priorityClass < k + n then classShare cs wants air c w else 0) cs wants := by
  induction n generalizing k with
  | zero =>
    refine (zipWith_zero h).symm.trans (zipWith_congr_mem (fun c _ w => (if_neg ?_).symm) wants)
    omega
  | succ n ih =>
    have mine : classWants k cs wants = List.zipWith (fun c w => if c.priorityClass = k then w else 0) cs wants := rfl
    rw [List.range'_succ, priorityShares_cons]
    split_ifs with fits
    · rw [Nat.sub_sub, ← wantedSooner_succ, ih (k + 1) (by rw [wantedSooner_succ]; omega), mine, addAir_zipWith]
      refine zipWith_congr_mem (fun c _ w => ?_) wants
      by_cases same : c.priorityClass = k
      · have whole : classShare cs wants air c w = w := if_pos (by rw [same]; omega)
        rw [if_pos same, if_neg (by omega), if_pos (by omega), whole, Nat.add_zero]
      · rw [if_neg same, Nat.zero_add]
        exact if_congr (by omega) rfl rfl
    · have excess : ¬ (classWants k cs wants).sum ≤ air - wantedSooner cs wants k := fits
      unfold shareOut
      rw [if_neg excess, mine, List.map_zipWith]
      refine zipWith_congr_mem (fun c _ w => ?_) wants
      by_cases same : c.priorityClass = k
      · have part : classShare cs wants air c w = (air - wantedSooner cs wants k) * w / wantedBy cs wants k := by
          unfold classShare
          rw [same]
          exact if_neg (by omega)
        rw [if_pos same, if_pos (by omega), part]
        rfl
      · rw [if_neg same, Nat.mul_zero, Nat.zero_div]
        split_ifs with later
        · exact (classShare_after (k := k) (by omega) (by omega) w).symm
        · rfl

theorem priorityShares_eq (h : cs.length = wants.length) (hc : ∀ c ∈ cs, c.priorityClass ≤ 3) (air : Nat) :
    priorityShares cs wants [0, 1, 2, 3] air = List.zipWith (classShare cs wants air) cs wants := by
  refine (priorityShares_range' (air := air) h 4 0 (Nat.zero_le _)).trans (zipWith_congr_mem (fun c hmem w => if_pos ?_) wants)
  have := hc c hmem
  omega

end Sys2Proof.Machine
end

section
/-! An allocation pass on the state (R91, R94 to R102) and the header pressure (R92). -/

namespace Sys2Proof.Machine

open Sys2Proof

variable {s t u : State} {z b p : Nat} {cs : List Claim}

/-! ### The stages as the pass's rules give them -/

theorem handClaim_eq (c : Claim) : c.handClaim = if c.mode = .hand then c.demand else 0 := by
  unfold Claim.handClaim Claim.hand
  simp only [beq_iff_eq]

theorem floorClaim_eq (c : Claim) : c.floorClaim = if c.mode = .auto ∨ c.mode = .fallback ∨ c.mode = .waiting then c.floor else 0 := by
  unfold Claim.floorClaim Claim.floorZone
  simp only [Bool.or_eq_true, beq_iff_eq, or_assoc]

theorem thirdShares_priority (supply : Nat) (h : ∀ c ∈ cs, c.priorityClass ≤ 3) : thirdShares .priority supply cs = List.zipWith
    (classShare cs (remainingDemands (floorGrants supply cs) cs) (supply - (handGrants supply cs).sum - (floorGrants supply cs).sum)) cs
    (remainingDemands (floorGrants supply cs) cs) :=
  priorityShares_eq (length_remainingDemands supply cs).symm h _

/-! ### What the pass reads -/

/-- The grants of the pass. -/
def State.passGrants (s : State) : List Nat := computeGrants s.policy s.pool.supply s.claims

/-- The figures of the pass. -/
def State.passFigures (s : State) : PassFigures := Machine.passFigures s.pool.supply s.claims s.passGrants

/-- What the pass reads of one zone. -/
def State.claim (s : State) (z : Nat) : Claim :=
  { mode := (s.zone z).mode, demand := s.demand z, floor := (s.zone z).cfg.mixingFloor, priorityClass := (s.zone z).cfg.priorityClass,
    onRequest := (s.zone z).cfg.release == .val .onRequest, previous := (s.zone z).grant }

theorem claims_eq (s : State) : s.claims = (List.range 24).map s.claim := rfl

theorem getElem?_claims (s : State) (hz : z < 24) : s.claims[z]? = some (s.claim z) := by
  rw [claims_eq, List.getElem?_map, List.getElem?_range hz]
  rfl

theorem sum_claims (s : State) (f : Claim → Nat) : (s.claims.map f).sum = ((List.range 24).map fun z => f (s.claim z)).sum := by
  rw [claims_eq, List.map_map]
  rfl

theorem passFigures_handClaims (s : State) : s.passFigures.handClaims
    = ((List.range 24).map fun z => if (s.zone z).mode = .hand then s.demand z else 0).sum := by
  refine (sum_claims s Claim.handClaim).trans ?_
  simp only [handClaim_eq]
  rfl

theorem passFigures_floors (s : State) : s.passFigures.floors = ((List.range 24).map fun z => if (s.zone z).mode = .auto
    ∨ (s.zone z).mode = .fallback ∨ (s.zone z).mode = .waiting then (s.zone z).cfg.mixingFloor else 0).sum := by
  refine (sum_claims s Claim.floorClaim).trans ?_
  simp only [floorClaim_eq]
  rfl

theorem passFigures_demand (s : State) : s.passFigures.demand = ((List.range 24).map fun z => if (s.zone z).mode = .auto
    ∨ (s.zone z).mode = .fallback ∨ (s.zone z).mode = .hand then s.demand z else 0).sum := by
  refine (sum_claims s fun c => if c.trimming || c.hand then c.demand else 0).trans ?_
  simp only [Claim.trimming, Claim.hand, Bool.or_eq_true, beq_iff_eq, or_assoc]
  rfl

theorem passFigures_grants (s : State) : s.passFigures.grants = s.passGrants.sum := by
  unfold State.passFigures Machine.passFigures
  dsimp only

/-! ### AIR_SHORT (R98) -/

/-- The pool with its air-short flag. -/
def State.flagged (s : State) (wanted : Nat) : State := s.modPool fun p => { p with airShort := decide (s.pool.supply < wanted) }

theorem judgeAirShort_told (s : State) (wanted : Nat) : s.judgeAirShort wanted =
    if s.pool.supply < wanted then (if s.pool.airShort then s else
      (s.flagged wanted).raiseAlarm .airShort .header (some (wanted - s.pool.supply)))
    else (s.flagged wanted).clearAlarm .airShort .header := by
  unfold State.judgeAirShort State.flagged
  by_cases short : s.pool.supply < wanted
  · simp only [short, if_true, decide_true]
  · simp only [short, if_false, decide_false]

theorem judgeAirShort_only (s : State) (wanted : Nat) : AlarmsOnly (s.flagged wanted) (s.judgeAirShort wanted) := by
  rw [judgeAirShort_told]
  split_ifs with short flag
  · have same : s.flagged wanted = s := by
      unfold State.flagged State.modPool
      rw [decide_eq_true short, ← flag]
    rw [same]
    exact .refl s
  · exact raiseAlarm_only ..
  · exact clearAlarm_only ..

/-- R94: the state in which the grants are set, with the figures of the pass. -/
def State.counting (s : State) (f : PassFigures) : State :=
  (s.judgeAirShort (f.handClaims + f.floors)).modPool fun p => p.passed s.uptime f

theorem counting_pool (s : State) (f : PassFigures) : (s.counting f).pool = { s.pool with
    airShort := decide (s.pool.supply < f.handClaims + f.floors), figures := f, passCount := (s.pool.passCount + 1) % 65536,
    lastPass := some s.uptime, allocDeadline := some (s.uptime + s.pool.cfg.allocationPeriod) } :=
  congrArg (fun p : Pool => p.passed s.uptime f) (judgeAirShort_only s _).pool

theorem counting_frame (s : State) (f : PassFigures) : (s.counting f).zones = s.zones ∧ (s.counting f).blowers = s.blowers
    ∧ (s.counting f).points = s.points ∧ (s.counting f).lanes = s.lanes := by
  obtain ⟨-, points, lanes, zones, blowers, -⟩ := (judgeAirShort_only s (f.handClaims + f.floors)).banks
  exact ⟨zones, blowers, points, lanes⟩

theorem allocate_eq (s : State) : s.allocate
    = (List.range 24).foldl (fun u z => u.setGrant z (s.passGrants.getD z 0)) (s.counting s.passFigures) := by
  have uptime (w : Nat) : (s.judgeAirShort w).uptime = s.uptime := ((judgeAirShort_only s w).onlyZones ∅).uptime
  unfold State.allocate State.counting State.passFigures State.passGrants State.each
  dsimp only
  rw [uptime]

/-! ### Grants and caps (R102) -/

theorem setGrant_onlyZone (u : State) (z grant : Nat) : u.OnlyZone z (u.setGrant z grant) := by
  have set := modZone_onlyZone u z fun x =>
    { x with grant := grant, cap := if (u.zone z).mode = .off then 0 else capOf grant (u.zone z).cfg.fullOpenAir }
  exact ite_keeps set ((onlyZone_changes z u).judgeAir set)

theorem setGrant_zone (hz : z < u.zones.length) (grant : Nat) : Zone.Judged { u.zone z with
    grant := grant, cap := if (u.zone z).mode = .off then 0 else capOf grant (u.zone z).cfg.fullOpenAir }
    ((u.setGrant z grant).zone z) := by
  have set := State.zone_modZone_same hz fun x =>
    { x with grant := grant, cap := if (u.zone z).mode = .off then 0 else capOf grant (u.zone z).cfg.fullOpenAir }
  refine ite_keeps (P := fun t => Zone.Judged _ (t.zone z)) ?_ ?_
  · rw [set]
    exact rfl
  · have judged := judgeAir_judged (u.modZone z fun x =>
      { x with grant := grant, cap := if (u.zone z).mode = .off then 0 else capOf grant (u.zone z).cfg.fullOpenAir }) z
    rw [set] at judged
    exact judged

theorem allocate_onlyZones (s : State) : (s.counting s.passFigures).OnlyZones {y | y ∈ List.range 24} s.allocate := by
  rw [allocate_eq]
  exact foldl_onlyZones (fun u z => setGrant_onlyZone u z _) _ _

theorem allocate_zone (hz : z < 24) (hlen : z < s.zones.length) : Zone.Judged { s.zone z with
    grant := s.passGrants.getD z 0,
    cap := if (s.zone z).mode = .off then 0 else capOf (s.passGrants.getD z 0) (s.zone z).cfg.fullOpenAir } (s.allocate.zone z) := by
  obtain ⟨zones, -⟩ := counting_frame s s.passFigures
  obtain ⟨u, before, after⟩ := foldl_zone (g := fun u z => u.setGrant z (s.passGrants.getD z 0)) (fun u z => setGrant_onlyZone u z _)
    List.nodup_range (s.counting s.passFigures) (List.mem_range.mpr hz)
  have same : u.zone z = s.zone z := before.reads.1.trans (zone_congr zones z)
  rw [allocate_eq, after, ← same]
  exact setGrant_zone (by rw [before.length, zones]; exact hlen) _

/-! ### Speeds (R91) -/

/-- R91: a blower takes its speed. -/
def State.setSpeed (grants : Nat) (u : State) (b : Nat) : State :=
  if u.counted b then
    u.modBlower b fun x => { x with speed := speedAfter u.pool.pressureHigh x.speed x.cfg.turndown (shareOf grants u.pool.supply) }
  else u

theorem counted_iff : s.counted b = true ↔ (s.blower b).cfg.configured = true
    ∧ ((s.blower b).state = .running ∨ (s.blower b).state = .localMode ∧ s.readsRunning b = true) := by
  unfold State.counted
  dsimp only
  rw [Bool.and_eq_true]
  refine and_congr_right fun _ => ?_
  split <;> simp_all

/-- Beside the blowers nothing has moved. -/
def State.OnlyBlowers (s t : State) : Prop := t = { s with blowers := t.blowers }

theorem State.OnlyBlowers.trans (h : s.OnlyBlowers t) (k : t.OnlyBlowers u) : s.OnlyBlowers u := by
  unfold State.OnlyBlowers at *
  rw [k, h]

theorem setSpeed_only (grants : Nat) (u : State) (b : Nat) : u.OnlyBlowers (u.setSpeed grants b) := by
  unfold State.OnlyBlowers State.setSpeed
  split_ifs <;> rfl

theorem setSpeed_frame (grants : Nat) (u : State) (b : Nat) : (u.setSpeed grants b).blowers.length = u.blowers.length
    ∧ ∀ d, d ≠ b → (u.setSpeed grants b).blower d = u.blower d := by
  unfold State.setSpeed
  split_ifs
  · refine ⟨List.length_modify .., fun d hd => ?_⟩
    rw [State.blower_modBlower, if_neg fun k => hd k.1.symm]
  · exact ⟨rfl, fun _ _ => rfl⟩

theorem counted_congr (h : s.OnlyBlowers t) (hb : t.blower b = s.blower b) : t.counted b = s.counted b := by
  have point (q : Nat) : t.point q = s.point q := by
    rw [h]
    rfl
  have reads : t.readsRunning b = s.readsRunning b := by
    unfold State.readsRunning State.runState State.pointGood State.pointValue
    simp only [hb, point]
  unfold State.counted
  rw [hb, reads]

theorem foldl_setSpeed_frame (grants : Nat) (bs : List Nat) (u : State) : let t := bs.foldl (State.setSpeed grants) u
    u.OnlyBlowers t ∧ t.blowers.length = u.blowers.length ∧ ∀ d, d ∉ bs → t.blower d = u.blower d := by
  induction bs generalizing u with
  | nil => exact ⟨rfl, rfl, fun _ _ => rfl⟩
  | cons b bs ih =>
    obtain ⟨only, length, others⟩ := ih (u.setSpeed grants b)
    obtain ⟨length', others'⟩ := setSpeed_frame grants u b
    refine ⟨(setSpeed_only grants u b).trans only, length.trans length', fun d hd => ?_⟩
    rw [List.mem_cons, not_or] at hd
    exact (others d hd.2).trans (others' d hd.1)

theorem foldl_setSpeed_blower (grants : Nat) {bs : List Nat} (hn : bs.Nodup) (u : State) (hb : b ∈ bs) (hlen : b < u.blowers.length) :
    (bs.foldl (State.setSpeed grants) u).blower b = if u.counted b then { u.blower b with
      speed := speedAfter u.pool.pressureHigh (u.blower b).speed (u.blower b).cfg.turndown (shareOf grants u.pool.supply) }
      else u.blower b := by
  induction bs generalizing u with
  | nil => cases hb
  | cons d bs ih =>
    obtain ⟨hd, hn⟩ := List.nodup_cons.mp hn
    rw [List.foldl_cons]
    by_cases same : b = d
    · subst same
      obtain ⟨-, -, others⟩ := foldl_setSpeed_frame grants bs (u.setSpeed grants b)
      rw [others b hd]
      unfold State.setSpeed
      split_ifs
      · rw [State.blower_modBlower, if_pos ⟨rfl, hlen⟩]
      · rfl
    · obtain ⟨length, others⟩ := setSpeed_frame grants u d
      have only := setSpeed_only grants u d
      have pool : (u.setSpeed grants d).pool = u.pool := by rw [only]
      rw [ih hn _ ((List.mem_cons.mp hb).resolve_left same) (length.symm ▸ hlen), counted_congr only (others b same), others b same, pool]

/-- R91: the blowers after a pass. -/
theorem setSpeeds_sets (s : State) (grants b : Nat) (hb : b < 6) (hlen : b < s.blowers.length) :
    let x := s.blower b
    let t := s.setSpeeds grants
    let share := (grants * 1000 + s.pool.supply - 1) / s.pool.supply
    let figure := min 1000 (max x.cfg.turndown share)
    let counts := x.cfg.configured = true ∧ (x.state = .running ∨ x.state = .localMode ∧ s.readsRunning b = true)
    (counts → t.blower b = { x with speed := if s.pool.pressureHigh then min x.speed figure else figure })
      ∧ (¬ counts → t.blower b = x) ∧ t = { s with blowers := t.blowers } := by
  intro x t share figure counts
  have blower : t.blower b = _ := foldl_setSpeed_blower grants List.nodup_range s (List.mem_range.mpr hb) hlen
  obtain ⟨only, -⟩ := foldl_setSpeed_frame grants (List.range 6) s
  refine ⟨fun h => ?_, fun h => ?_, only⟩
  · rw [blower, if_pos (counted_iff.mpr h)]
    rfl
  · rw [blower, if_neg (mt counted_iff.mp h)]

/-! ### The pass (R94, R103) -/

theorem runPass_eq (s : State) : s.runPass = ((((s.allocate.setSpeeds s.passGrants.sum).stageUp s.passFigures.demand).judgeMinimum).stageDown
    s.passFigures.demand).firstPass := by
  have figures : s.allocate.pool.figures = s.passFigures := by
    rw [(allocate_onlyZones s).pool, counting_pool]
  unfold State.runPass
  dsimp only
  rw [figures, passFigures_grants]

/-! ### The header pressure (R85, R92) -/

theorem judgePressure_absent (h : s.pool.cfg.pressurePoint = none) : s.judgePressure = s := by
  unfold State.judgePressure
  rw [h]

/-- R92: an alarm of the pressure at its edges. -/
theorem edge_eq (u : State) (code : AlarmCode) (is was : Bool) (v : Nat) :
    (if is && was then u else u.setAlarm code .header is (some v))
      = if is then (if was then u else u.raiseAlarm code .header (some v)) else u.clearAlarm code .header := by
  unfold State.setAlarm
  cases is <;> cases was <;> rfl

theorem judgePressure_eq (h : s.pool.cfg.pressurePoint = some p) :
    let v := (s.point p).value
    let good := s.pointGood p .pressure
    let high := good && decide (s.pool.cfg.pressureHigh < v)
    let low := good && decide (v < s.pool.cfg.pressureLow) && decide (0 < s.pool.supply)
    let judged := s.modPool fun q => { q with pressureHigh := high, pressureLow := low }
    let told := if high then
        (if s.pool.pressureHigh then judged else judged.raiseAlarm .headerPressureHigh .header (some v))
      else judged.clearAlarm .headerPressureHigh .header
    s.judgePressure = if low then
        (if s.pool.pressureLow then told else told.raiseAlarm .headerPressureLow .header (some v))
      else told.clearAlarm .headerPressureLow .header := by
  intro v good high low judged told
  unfold State.judgePressure
  rw [h]
  dsimp only
  rw [edge_eq, edge_eq]
  rfl

theorem noteSupply_eq (s : State) : s.noteSupply = if s.pool.supply = 0 ↔ s.supplyNow = 0 then
    s.modPool fun p => { p with supply := s.supplyNow } else (s.modPool fun p => { p with supply := s.supplyNow }).judgePressure := by
  have same : ((s.pool.supply == 0) == (s.supplyNow == 0)) = true ↔ (s.pool.supply = 0 ↔ s.supplyNow = 0) := by
    rw [beq_iff_eq, Bool.eq_iff_iff, beq_iff_eq, beq_iff_eq]
  exact if_congr same rfl rfl

theorem headerPoint_eq (s : State) (p : Nat) : let moved := [0, 1, 2, 3, 4, 5].foldl (fun u b =>
      if (u.blower b).cfg.configured = true ∧ (u.blower b).cfg.runPoint = p then u.judgeBlower b else u) s
    s.headerPoint p = if moved.pool.cfg.pressurePoint = some p then moved.judgePressure else moved := by
  have turn : (fun (u : State) (b : Nat) => if (u.blower b).cfg.configured && (u.blower b).cfg.runPoint == p then u.judgeBlower b else u)
      = fun u b => if (u.blower b).cfg.configured = true ∧ (u.blower b).cfg.runPoint = p then u.judgeBlower b else u :=
    funext₂ fun u b => if_congr (by rw [Bool.and_eq_true, beq_iff_eq]) rfl rfl
  intro moved
  have moves : moved = [0, 1, 2, 3, 4, 5].foldl (fun (u : State) (b : Nat) =>
      if (u.blower b).cfg.configured && (u.blower b).cfg.runPoint == p then u.judgeBlower b else u) s := by rw [turn]
  rw [moves]
  rfl

end Sys2Proof.Machine
end

section
/-! An allocation pass: its stages, the state it leaves, and the statement (R91, R92, R94 to R103). -/

namespace Sys2Proof.Machine

open Sys2Proof

variable {s t u : State} {z b p : Nat} {cs : List Claim}

/-- R96, R97: the first two stages, and what they leave for the third. -/
theorem stages_eq (supply : Nat) (cs : List Claim) :
    let share := fun (air : Nat) (wants : List Nat) => if wants.sum ≤ air then wants else wants.map (air * · / wants.sum)
    let trims := fun c : Claim => c.mode == .auto || c.mode == .fallback
    let hands := share supply (cs.map fun c => if c.mode = .hand then c.demand else 0)
    let floors := share (supply - hands.sum)
      (cs.map fun c => if c.mode = .auto ∨ c.mode = .fallback ∨ c.mode = .waiting then c.floor else 0)
    let wants := List.zipWith (fun (c : Claim) f => if trims c then c.demand - f else 0) cs floors
    let air := supply - hands.sum - floors.sum
    hands = handGrants supply cs ∧ floors = floorGrants supply cs ∧ wants = remainingDemands (floorGrants supply cs) cs
      ∧ air = supply - (handGrants supply cs).sum - (floorGrants supply cs).sum := by
  intro share trims hands floors wants air
  have handClaims : (fun c : Claim => if c.mode = .hand then c.demand else 0) = Claim.handClaim := funext fun c => (handClaim_eq c).symm
  have floorClaims : (fun c : Claim => if c.mode = .auto ∨ c.mode = .fallback ∨ c.mode = .waiting then c.floor else 0)
      = Claim.floorClaim := funext fun c => (floorClaim_eq c).symm
  have hhands : hands = handGrants supply cs := congrArg (fun f => shareOut supply (cs.map f)) handClaims
  have hfloors : floors = floorGrants supply cs := by
    have shared : floors = shareOut (supply - hands.sum) (cs.map Claim.floorClaim) :=
      congrArg (fun f => shareOut (supply - hands.sum) (cs.map f)) floorClaims
    rw [shared, hhands]
    rfl
  have hwants : wants = remainingDemands floors cs := rfl
  have hair : air = supply - hands.sum - floors.sum := rfl
  rw [hfloors] at hwants hair
  rw [hhands] at hair
  exact ⟨hhands, hfloors, hwants, hair⟩

/-- R94, R98, R102: the state after the grants and caps are set. -/
theorem allocate_sets (s : State) (hlen : s.zones.length = 24) :
    let t := s.allocate
    t.pool.airShort = decide (s.pool.supply < s.passFigures.handClaims + s.passFigures.floors)
      ∧ t.pool.passCount = (s.pool.passCount + 1) % 65536 ∧ t.pool.lastPass = some s.uptime
      ∧ t.pool.allocDeadline = some (s.uptime + s.pool.cfg.allocationPeriod) ∧ t.pool.supply = s.pool.supply
      ∧ t.blowers = s.blowers ∧ t.points = s.points ∧ t.lanes = s.lanes ∧ t.config = s.config
      ∧ ∀ z < 24, (t.zone z).grant = s.passGrants.getD z 0 ∧ (t.zone z).mode = (s.zone z).mode
        ∧ (t.zone z).desired = (s.zone z).desired
        ∧ (t.zone z).cap = if (s.zone z).mode = .off then 0
          else min 1000 (s.passGrants.getD z 0 * 1000 / (s.zone z).cfg.fullOpenAir) := by
  intro t
  have only : (s.counting s.passFigures).OnlyZones {y | y ∈ List.range 24} t := allocate_onlyZones s
  have pool := only.pool.trans (counting_pool s s.passFigures)
  obtain ⟨-, blowers, points, lanes⟩ := counting_frame s s.passFigures
  have config : t.config = s.config := (config_plant s.config).allocate rfl
  have zone (z : Nat) (hz : z < 24) : Zone.Judged _ (t.zone z) := allocate_zone hz (hlen.symm ▸ hz)
  generalize s.passFigures = f at only pool blowers points lanes ⊢
  generalize s.passGrants = grants at zone ⊢
  clear_value t
  rw [pool]
  refine ⟨rfl, rfl, rfl, rfl, rfl, only.blowers.trans blowers, only.points.trans points, only.lanes.trans lanes, config,
    fun z hz => ?_⟩
  rw [show t.zone z = _ from zone z hz]
  exact ⟨rfl, rfl, rfl, rfl⟩

theorem passFigures_eq (s : State) : s.passFigures =
    ⟨s.pool.supply, ((List.range 24).map fun z => if (s.zone z).mode = .hand then s.demand z else 0).sum,
      ((List.range 24).map fun z => if (s.zone z).mode = .auto ∨ (s.zone z).mode = .fallback ∨ (s.zone z).mode = .waiting then
        (s.zone z).cfg.mixingFloor else 0).sum,
      ((List.range 24).map fun z => if (s.zone z).mode = .auto ∨ (s.zone z).mode = .fallback ∨ (s.zone z).mode = .hand then
        s.demand z else 0).sum, s.passGrants.sum⟩ := by
  have supply : s.passFigures.supply = s.pool.supply := by
    unfold State.passFigures Machine.passFigures
    dsimp only
  rw [← passFigures_handClaims, ← passFigures_floors, ← passFigures_demand, ← passFigures_grants, ← supply]

theorem counting_written (s : State) (handClaims floors demands granted : Nat) :
    s.counting ⟨s.pool.supply, handClaims, floors, demands, granted⟩ =
      (if s.pool.supply < handClaims + floors then (if s.pool.airShort then s else
        (s.modPool fun p => { p with airShort := decide (s.pool.supply < handClaims + floors) }).raiseAlarm .airShort .header
          (some (handClaims + floors - s.pool.supply)))
      else (s.modPool fun p => { p with airShort := decide (s.pool.supply < handClaims + floors) }).clearAlarm .airShort
        .header).modPool fun p =>
      { p with
        figures := ⟨s.pool.supply, handClaims, floors, demands, granted⟩, passCount := (p.passCount + 1) % 65536,
        lastPass := some s.uptime, allocDeadline := some (s.uptime + p.cfg.allocationPeriod) } :=
  congrArg (fun u : State => u.modPool fun p => p.passed s.uptime ⟨s.pool.supply, handClaims, floors, demands, granted⟩)
    (judgeAirShort_told s (handClaims + floors))

theorem foldl_setGrant (grants : List Nat) (u : State) : (List.range 24).foldl (fun u z => u.setGrant z (grants.getD z 0)) u
    = (List.range 24).foldl (fun u z =>
      let cap := if (u.zone z).mode = .off then 0 else min 1000 (grants.getD z 0 * 1000 / (u.zone z).cfg.fullOpenAir)
      let set := u.modZone z fun x => { x with grant := grants.getD z 0, cap := cap }
      if cap = (u.zone z).cap then set else set.judgeAir z) u :=
  congrArg (fun g : State → Nat → State => (List.range 24).foldl g u) (funext₂ fun _ _ => rfl)

/-- R94 to R102: the pass up to the setting of the caps. -/
theorem allocate_written (s : State) :
    let handClaims := ((List.range 24).map fun z => if (s.zone z).mode = .hand then s.demand z else 0).sum
    let floors := ((List.range 24).map fun z => if (s.zone z).mode = .auto ∨ (s.zone z).mode = .fallback
      ∨ (s.zone z).mode = .waiting then (s.zone z).cfg.mixingFloor else 0).sum
    let demands := ((List.range 24).map fun z => if (s.zone z).mode = .auto ∨ (s.zone z).mode = .fallback
      ∨ (s.zone z).mode = .hand then s.demand z else 0).sum
    let flagged := s.modPool fun p => { p with airShort := decide (s.pool.supply < handClaims + floors) }
    let told := if s.pool.supply < handClaims + floors then (if s.pool.airShort then s else
        flagged.raiseAlarm .airShort .header (some (handClaims + floors - s.pool.supply)))
      else flagged.clearAlarm .airShort .header
    let counted := told.modPool fun p => { p with
      figures := ⟨s.pool.supply, handClaims, floors, demands, s.passGrants.sum⟩, passCount := (p.passCount + 1) % 65536,
      lastPass := some s.uptime, allocDeadline := some (s.uptime + p.cfg.allocationPeriod) }
    s.allocate = (List.range 24).foldl (fun u z =>
      let cap := if (u.zone z).mode = .off then 0 else min 1000 (s.passGrants.getD z 0 * 1000 / (u.zone z).cfg.fullOpenAir)
      let set := u.modZone z fun x => { x with grant := s.passGrants.getD z 0, cap := cap }
      if cap = (u.zone z).cap then set else set.judgeAir z) counted := by
  intro handClaims floors demands flagged told counted
  have figures : s.passFigures = ⟨s.pool.supply, handClaims, floors, demands, s.passGrants.sum⟩ := passFigures_eq s
  have allocates := allocate_eq s
  rw [figures, foldl_setGrant, counting_written] at allocates
  clear_value handClaims floors demands
  exact allocates

theorem firstPass_eq (u : State) : u.firstPass = if u.pool.firstPassDone then u
    else (u.modPool fun p => { p with firstPassDone := true }).rejudgeZones := rfl

/-- R94, R103: the pass. -/
theorem runPass_written (s : State) :
    let demands := ((List.range 24).map fun z => if (s.zone z).mode = .auto ∨ (s.zone z).mode = .fallback
      ∨ (s.zone z).mode = .hand then s.demand z else 0).sum
    let staged := (((s.allocate.setSpeeds s.passGrants.sum).stageUp demands).judgeMinimum).stageDown demands
    s.runPass = if staged.pool.firstPassDone then staged
      else (staged.modPool fun p => { p with firstPassDone := true }).rejudgeZones := by
  intro demands staged
  have figures : s.passFigures.demand = demands := passFigures_demand s
  have passes := runPass_eq s
  rw [figures] at passes
  exact passes.trans (firstPass_eq staged)

/-- R101: the fourth stage. -/
theorem computeGrants_keeps {policy : Policy} {supply i : Nat} {c : Claim} {g : Nat}
    (h : asks cs (computedGrants policy supply cs) = false) (hc : cs[i]? = some c) (hg : (computedGrants policy supply cs)[i]? = some g) :
    (computeGrants policy supply cs).getD i 0 = c.keeps g (supply - (computedGrants policy supply cs).sum
      - ((List.range i).map fun j => (computeGrants policy supply cs).getD j 0 - (computedGrants policy supply cs).getD j 0).sum) := by
  rw [computeGrants_of_rest h]
  exact getD_releaseKeep hc hg _

/-- Settles O60: the grants and their stages, the pass, the speeds, then the header pressure. -/
theorem passesShareTheSupply : Obligations.PassesShareTheSupply := by
  refine ⟨fun policy supply cs => ⟨sum_computeGrants_le policy supply cs, length_computeGrants policy supply cs, fun i c hc =>
    ⟨fun hm => getD_computeGrants_of_off hc hm policy supply, fun hm => getD_computeGrants_of_waiting hc hm policy supply⟩⟩,
    fun policy supply cs hc => ?_, fun s hlen => ?_, fun s => ?_, fun s => ?_,
    fun s grants b hb hlen => setSpeeds_sets s grants b hb hlen, fun s => ⟨fun h => judgePressure_absent h, fun p hp => judgePressure_eq hp,
      ⟨fun h => (noteSupply_eq s).trans (if_pos h), fun h => (noteSupply_eq s).trans (if_neg h)⟩, fun p => headerPoint_eq s p⟩⟩
  · intro share trims hands floors wants air wanted sooner shares computed grants asked
    obtain ⟨hands_eq, floors_eq, wants_eq, air_eq⟩ := stages_eq supply cs
    have shares_eq : shares = thirdShares policy supply cs := by
      cases policy with
      | level => exact congrArg₂ shareOut air_eq wants_eq
      | priority =>
        exact (congrArg₂ (fun a w => List.zipWith (classShare cs w a) cs w) air_eq wants_eq).trans
          (thirdShares_priority supply hc).symm
    have computed_eq : computed = computedGrants policy supply cs :=
      congrArg₂ addAir (congrArg₂ addAir hands_eq floors_eq) shares_eq
    have asked_eq : asked = asks cs (computedGrants policy supply cs) := congrArg (asks cs) computed_eq
    refine ⟨fun h => (computeGrants_of_asks (asked_eq ▸ h)).trans computed_eq.symm, fun h i c g hci hg => ?_⟩
    rw [computed_eq] at hg
    have keeps := computeGrants_keeps (asked_eq ▸ h) hci hg
    rw [← computed_eq] at keeps
    exact keeps
  · have sets := allocate_sets s hlen
    rw [passFigures_handClaims, passFigures_floors] at sets
    obtain ⟨short, rest⟩ := sets
    exact ⟨fun z hz => getElem?_claims s hz, short, rest⟩
  · exact allocate_written s
  · have written := runPass_written s
    rw [State.passGrants] at written
    exact written

end Sys2Proof.Machine
end

section
/-! A blower's entry to a state (R75, R83, R84, R86): the record, the run list, the notice and the trip alarms, and what the entry
leaves alone. -/

namespace Sys2Proof.Machine

open Sys2Proof

variable {P : State → Prop} {s t : State} {b d : Nat} {st : BlowerState} {cause : Option TripCause}

/-! ### The records of the blowers -/

theorem blower_congr (h : t.blowers = s.blowers) (d : Nat) : t.blower d = s.blower d := by
  unfold State.blower
  rw [h]

/-- A blower that the bank does not hold reads as one never configured. -/
theorem blower_of_length_le (h : s.blowers.length ≤ b) : s.blower b = Blower.start 0 false .blank := by
  unfold State.blower
  rw [List.getD_eq_getElem?_getD, List.getElem?_eq_none h]
  rfl

theorem lt_length_of_configuredBlower (h : (s.blower b).cfg.configured = true) : b < s.blowers.length := by
  refine Nat.lt_of_not_le fun hb => ?_
  rw [blower_of_length_le hb] at h
  cases h

theorem State.blower_modBlower_same (h : b < s.blowers.length) (f : Blower → Blower) : (s.modBlower b f).blower b = f (s.blower b) := by
  rw [State.blower_modBlower, if_pos ⟨rfl, h⟩]

/-- The configuration shows of each blower its lockout flag and what BLOWER_WRITE wrote. -/
theorem blowerIn_config (s : State) (b : Nat) : s.config.blowerIn b = ((s.blower b).lockout, (s.blower b).cfg) := by
  unfold Settings.blowerIn State.blower
  simp only [State.config, State.settings, List.getD_eq_getElem?_getD, List.getElem?_map]
  cases s.blowers[b]? <;> rfl

theorem blower_of_config (h : t.config = s.config) (b : Nat) :
    (t.blower b).lockout = (s.blower b).lockout ∧ (t.blower b).cfg = (s.blower b).cfg := by
  have same := blowerIn_config t b
  rw [h, blowerIn_config] at same
  exact ⟨(congrArg Prod.fst same).symm, (congrArg Prod.snd same).symm⟩

/-- What a blower reports is read from the stations, the points and its configuration. -/
theorem reports_congr (hs : t.stations = s.stations) (hp : t.points = s.points) (hc : (t.blower b).cfg = (s.blower b).cfg) :
    t.readsRunning b = s.readsRunning b ∧ t.readsStopped b = s.readsStopped b ∧ t.reportsFault b = s.reportsFault b := by
  have state : t.runState b = s.runState b := by
    unfold State.runState State.pointGood State.pointValue State.point
    rw [hp, hc]
  unfold State.readsRunning State.readsStopped State.reportsFault State.readsFault State.station
  rw [state, hs, hc]
  exact ⟨rfl, rfl, rfl⟩

/-! ### Notices are added at the tail -/

theorem offerNotice_prefix (s : State) (n : Notice) : s.port.notices <+: (s.offerNotice n).port.notices := by
  rcases Nat.lt_or_ge s.port.notices.length 32 with h | h
  · rw [offerNotice_added n h]
    exact List.prefix_append _ _
  · rw [offerNotice_lost n h]

theorem insertRecord_prefix (s : State) (code : AlarmCode) (src : Source) (v : Option Nat) :
    s.port.notices <+: (s.insertRecord code src v).port.notices := offerNotice_prefix (s.modAlarms _) _

theorem raiseAlarm_prefix (s : State) (code : AlarmCode) (src : Source) (v : Option Nat) :
    s.port.notices <+: (s.raiseAlarm code src v).port.notices := by
  unfold State.raiseAlarm
  split
  · exact offerNotice_prefix (s.modAlarms _) _
  · split
    · exact insertRecord_prefix s code src v
    · split
      · exact (offerNotice_prefix (s.modAlarms _) _).trans (insertRecord_prefix _ code src v)
      · exact List.prefix_refl _

theorem clearAlarm_prefix (s : State) (code : AlarmCode) (src : Source) : s.port.notices <+: (s.clearAlarm code src).port.notices := by
  unfold State.clearAlarm
  split
  · exact List.prefix_refl _
  · split
    · exact offerNotice_prefix (s.modAlarms _) _
    · exact offerNotice_prefix (s.modAlarms _) _
    · exact List.prefix_refl _

/-! ### The trip alarms -/

/-- The trip alarms are clears and at most one raise. -/
theorem tripAlarms_keeps (clear : ∀ {u : State} (code : AlarmCode) (src : Source), P u → P (u.clearAlarm code src))
    (raise : ∀ {u : State} (code : AlarmCode) (src : Source) (v : Option Nat), P u → P (u.raiseAlarm code src v)) (h : P s)
    (b : Nat) (cause : Option TripCause) : P (s.tripAlarms b cause) := by
  have cleared : P ([TripCause.fault, .startFail, .lost].foldl
      (fun s c => if cause = some c then s else s.clearAlarm c.alarm (.blower b)) s) :=
    foldl_keeps (fun _ _ h => ite_keeps h (clear _ _ h)) _ h
  unfold State.tripAlarms
  dsimp only
  split
  · exact cleared
  · exact raise _ _ _ cleared

theorem tripAlarms_only (s : State) (b : Nat) (cause : Option TripCause) : AlarmsOnly s (s.tripAlarms b cause) :=
  tripAlarms_keeps (P := AlarmsOnly s) (fun _ _ h => h.trans (clearAlarm_only _ _ _)) (fun _ _ _ h => h.trans (raiseAlarm_only _ _ _ _))
    (.refl s) b cause

theorem tripAlarms_prefix (s : State) (b : Nat) (cause : Option TripCause) : s.port.notices <+: (s.tripAlarms b cause).port.notices :=
  tripAlarms_keeps (P := fun u => s.port.notices <+: u.port.notices) (fun _ _ h => h.trans (clearAlarm_prefix _ _ _))
    (fun _ _ _ h => h.trans (raiseAlarm_prefix _ _ _ _)) (List.prefix_refl _) b cause

/-! ### The entry -/

/-- R75, R86: the record and the run list after an entry. -/
def State.enteredBlower (s : State) (b : Nat) (st : BlowerState) (cause : Option TripCause) : State :=
  (s.modBlower b fun x => x.entered s.uptime st cause (s.entrySpeed b st)).modPool fun p =>
    { p with runList := runListAfter p.runList b st }

/-- R84: the notice of an entry. -/
def State.entryNotice (s : State) (b : Nat) (st : BlowerState) (cause : Option TripCause) : Notice :=
  .blowerChange b (s.blower b).state (s.blower b).tripCause st cause s.uptime

theorem enterBlower_eq (s : State) (b : Nat) (st : BlowerState) (cause : Option TripCause) : s.enterBlower b st cause
    = ((s.enteredBlower b st cause).offerNotice (s.entryNotice b st cause)).tripAlarms b cause := rfl

/-- Beside the record and the run list an entry moves the alarm list and the notices alone. -/
theorem enterBlower_only (s : State) (b : Nat) (st : BlowerState) (cause : Option TripCause) :
    AlarmsOnly (s.enteredBlower b st cause) (s.enterBlower b st cause) :=
  ((AlarmsOnly.refl _).offerNotice _).trans (tripAlarms_only _ b cause)

theorem enterBlower_blowers (s : State) (b : Nat) (st : BlowerState) (cause : Option TripCause) :
    (s.enterBlower b st cause).blowers = s.blowers.modify b fun x => x.entered s.uptime st cause (s.entrySpeed b st) := by
  rw [(enterBlower_only s b st cause).2]
  rfl

theorem enterBlower_blower (h : b < s.blowers.length) (st : BlowerState) (cause : Option TripCause) :
    (s.enterBlower b st cause).blower b = (s.blower b).entered s.uptime st cause (s.entrySpeed b st) :=
  (blower_congr (s := s.modBlower b _) (enterBlower_blowers s b st cause) b).trans (State.blower_modBlower_same h _)

theorem enterBlower_blower_ne (h : d ≠ b) (st : BlowerState) (cause : Option TripCause) :
    (s.enterBlower b st cause).blower d = s.blower d := by
  rw [blower_congr (s := s.modBlower b _) (enterBlower_blowers s b st cause) d, State.blower_modBlower, if_neg fun k => h k.1.symm]

theorem enterBlower_pool (s : State) (b : Nat) (st : BlowerState) (cause : Option TripCause) :
    (s.enterBlower b st cause).pool = { s.pool with runList := runListAfter s.pool.runList b st } := by
  rw [(enterBlower_only s b st cause).2]
  rfl

theorem enterBlower_config (s : State) (b : Nat) (st : BlowerState) (cause : Option TripCause) :
    (s.enterBlower b st cause).config = s.config := by
  have kept : (s.enteredBlower b st cause).blowers.map (fun x => (x.lockout, x.cfg)) = s.blowers.map fun x => (x.lockout, x.cfg) :=
    map_modify_of_fix _ (fun x => x.entered s.uptime st cause (s.entrySpeed b st)) (fun _ => rfl) s.blowers b
  exact (enterBlower_only s b st cause).config.trans
    (config_congr rfl rfl rfl rfl rfl rfl rfl kept rfl rfl rfl rfl rfl rfl rfl rfl rfl)

/-- An express DRIVE after an entry goes to the blower's station. -/
theorem driveBlower_enterBlower (s : State) (b : Nat) (st : BlowerState) (cause : Option TripCause) (d : Drive) :
    (s.enterBlower b st cause).driveBlower b d = (s.enterBlower b st cause).offerDrive (.station (s.blower b).cfg.station) d := by
  unfold State.driveBlower
  rw [(blower_of_config (enterBlower_config s b st cause) b).2]

/-- R82: a stop. -/
theorem stopBlower_eq (s : State) (b : Nat) :
    s.stopBlower b = (s.enterBlower b .stopping).offerDrive (.station (s.blower b).cfg.station) (.stop 0) :=
  driveBlower_enterBlower s b .stopping none (.stop 0)

theorem header_config (s : State) : s.header.config = s.config := (config_plant _).header rfl

end Sys2Proof.Machine
end

section
/-! What takes a blower from state to state: adoption, STARTING, trips, LOCAL and the loss of its station (R76, R78 to R82). -/

namespace Sys2Proof.Machine

open Sys2Proof

variable {s t : State} {b : Nat}

/-! ### The entry, written out -/

/-- R86: the run list after an entry, for the states that put the blower on it and for the others. -/
theorem runListAfter_of_runs {st : BlowerState} (h : st = .starting ∨ st = .running) (l : List Nat) (b : Nat) :
    runListAfter l b st = if b ∈ l then l else l ++ [b] := by
  rcases h with rfl | rfl <;> simp [runListAfter]

theorem runListAfter_of_rests {st : BlowerState} (hs : st ≠ .starting) (hr : st ≠ .running) (l : List Nat) (b : Nat) :
    runListAfter l b st = l.filter (· ≠ b) := by
  have keep : (fun d : Nat => d != b) = fun d => decide (d ≠ b) := funext fun d => by rw [bne, beq_eq_decide, decide_not]
  cases st with
  | starting => exact absurd rfl hs
  | running => exact absurd rfl hr
  | _ => exact congrArg (fun p => l.filter p) keep

/-- R75: the end of a run is stamped at an entry to rest. -/
theorem entered_runEnd (x : Blower) (now : Nat) (st : BlowerState) (cause : Option TripCause) (speed : Nat) :
    let ended := (x.state = .starting ∨ x.state = .running ∨ x.state = .stopping) ∧ (st = .stopped ∨ st = .tripped ∨ st = .lockedOut)
    (ended → (x.entered now st cause speed).runEnd = some now) ∧ (¬ ended → (x.entered now st cause speed).runEnd = x.runEnd) := by
  intro ended
  have test : ((x.state == .starting || x.state == .running || x.state == .stopping)
      && (st == .stopped || st == .tripped || st == .lockedOut)) = true ↔ ended := by
    simp only [Bool.and_eq_true, Bool.or_eq_true, beq_iff_eq, or_assoc]
    rfl
  exact ⟨fun h => if_pos (test.mpr h), fun h => if_neg (mt test.mp h)⟩

/-- Table 31: the speed at an entry to a state that does not run. -/
theorem entrySpeed_of_rests {st : BlowerState} (h : st = .stopped ∨ st = .tripped ∨ st = .lockedOut ∨ st = .stopping ∨ st = .unknown)
    (s : State) (b : Nat) : s.entrySpeed b st = 0 := by
  rcases h with rfl | rfl | rfl | rfl | rfl <;> rfl

/-! ### Reading a blower whose run start and run end are forgotten -/

theorem forgetRuns_config (s : State) (b : Nat) : (s.forgetRuns b).config = s.config := (config_plant _).forgetRuns rfl b

theorem forgetRuns_reports (s : State) (b : Nat) : (s.forgetRuns b).readsRunning b = s.readsRunning b
    ∧ (s.forgetRuns b).readsStopped b = s.readsStopped b ∧ (s.forgetRuns b).reportsFault b = s.reportsFault b :=
  reports_congr rfl rfl (blower_of_config (forgetRuns_config s b) b).2

theorem forgetRuns_restState (s : State) (b : Nat) : ((s.forgetRuns b).blower b).restState = (s.blower b).restState := by
  unfold Blower.restState
  rw [(blower_of_config (forgetRuns_config s b) b).1]

/-! ### Adoption (R76), and what is like it (R81) -/

/-- R76, R82: entry to RUNNING, and on to STOPPING where the blower is locked out. -/
theorem takeRunning_eq (s : State) (b : Nat) : s.takeRunning b
    = let running := (s.enterBlower b .running).header
      if (s.blower b).lockout && (running.blower b).state == .running then
        ((running.enterBlower b .stopping).offerDrive (.station (s.blower b).cfg.station) (.stop 0)).header
      else running := by
  obtain ⟨lockout, cfg⟩ := blower_of_config ((header_config _).trans (enterBlower_config s b .running none)) b
  unfold State.takeRunning State.changeBlower
  dsimp only
  rw [stopBlower_eq, lockout, cfg]

theorem adoptable_iff (s : State) (b : Nat) : s.adoptable b = true ↔
    ((s.blower b).state = .unknown ∨ (s.blower b).state = .tripped ∧ (s.blower b).tripCause = some .lost)
      ∧ s.readsHealth (s.blower b).cfg.station = .live
      ∧ (s.readsLocal (s.blower b).cfg.station || s.reportsFault b || s.readsRunning b || s.readsStopped b) = true := by
  unfold State.adoptable
  simp only [Bool.and_eq_true, Bool.or_eq_true, beq_iff_eq, and_assoc]

/-- R76, R81: a blower, its runs forgotten, that does not stand in LOCAL: TRIPPED where it reports a fault, RUNNING where its run-state
reads so, else in its rest state. -/
def State.readmitted (s : State) (b : Nat) : State :=
  let afresh := s.modBlower b fun y => { y with runStart := none, runEnd := none }
  let running := (afresh.enterBlower b .running).header
  if s.reportsFault b then (afresh.enterBlower b .tripped (some .fault)).header
  else if s.readsRunning b then
    if (s.blower b).lockout && (running.blower b).state == .running then
      ((running.enterBlower b .stopping).offerDrive (.station (s.blower b).cfg.station) (.stop 0)).header
    else running
  else (afresh.enterBlower b (if (s.blower b).lockout then .lockedOut else .stopped)).header

theorem readmitted_eq (s : State) (b : Nat) : s.readmitted b =
    if (s.forgetRuns b).reportsFault b then (s.forgetRuns b).changeBlower b .tripped (some .fault)
    else if (s.forgetRuns b).readsRunning b then (s.forgetRuns b).takeRunning b
    else (s.forgetRuns b).changeBlower b (s.blower b).restState := by
  obtain ⟨running, -, fault⟩ := forgetRuns_reports s b
  obtain ⟨lockout, cfg⟩ := blower_of_config (forgetRuns_config s b) b
  rw [takeRunning_eq, running, fault, lockout, cfg]
  rfl

/-- R76: adoption. -/
theorem adopt_eq (s : State) (b : Nat) : s.adopt b = if s.readsLocal (s.blower b).cfg.station then
    ((s.modBlower b fun y => { y with runStart := none, runEnd := none }).enterBlower b .localMode).header else s.readmitted b := by
  rw [readmitted_eq]
  rfl

/-- R81: the end of LOCAL. -/
theorem blowerLocalClear_of_local (h : (s.blower b).state = .localMode) : s.blowerLocalClear b = s.readmitted b := by
  rw [readmitted_eq, ← forgetRuns_restState]
  exact if_neg (not_not.mpr h)

/-! ### Trips (R79) -/

theorem tripFault_of_runs (h : (s.blower b).state = .starting ∨ (s.blower b).state = .running) : s.tripFault b
    = ((s.enterBlower b .tripped (some .fault)).offerDrive (.station (s.blower b).cfg.station) (.stop 0)).header := by
  rw [← driveBlower_enterBlower]
  exact congrArg State.header (if_pos h)

theorem tripFault_of_rests (h : ¬ ((s.blower b).state = .starting ∨ (s.blower b).state = .running)) :
    s.tripFault b = (s.enterBlower b .tripped (some .fault)).header := congrArg State.header (if_neg h)

/-! ### The judgement of a configured blower, state by state -/

section
variable (hc : (s.blower b).cfg.configured = true)
include hc

theorem judgeBlower_waits (h : (s.blower b).state = .unknown ∨ (s.blower b).state = .tripped ∧ (s.blower b).tripCause = some .lost) :
    s.judgeBlower b = if s.adoptable b then s.adopt b else s := by
  unfold State.judgeBlower
  rcases h with h | ⟨h, hl⟩
  · simp [hc, h]
  · simp [hc, h, hl]

theorem judgeBlower_starting (h : (s.blower b).state = .starting) : s.judgeBlower b =
    if s.reportsFault b then s.tripFault b
    else if s.lasted (s.blower b).runStart (s.blower b).cfg.rampTime && s.readsRunning b then (s.enterBlower b .running).header else s := by
  unfold State.judgeBlower
  simp only [hc, h, Bool.not_true, Bool.false_eq_true, if_false]
  rfl

theorem judgeBlower_running (h : (s.blower b).state = .running) : s.judgeBlower b =
    if s.reportsFault b || s.readsStopped b && !s.readsLocal (s.blower b).cfg.station then s.tripFault b else s := by
  unfold State.judgeBlower
  simp only [hc, h, Bool.not_true, Bool.false_eq_true, if_false]

theorem judgeBlower_stops (h : (s.blower b).state = .stopping ∨ (s.blower b).state = .tripped ∧ (s.blower b).tripCause = some .startFail) :
    s.judgeBlower b = if s.reportsFault b then s.tripFault b else s := by
  unfold State.judgeBlower
  rcases h with h | ⟨h, hl⟩
  · simp [hc, h]
  · simp [hc, h, hl]

theorem judgeBlower_rests (h : (s.blower b).state = .stopped ∨ (s.blower b).state = .lockedOut
    ∨ (s.blower b).state = .tripped ∧ (s.blower b).tripCause = some .fault) : s.judgeBlower b = s := by
  unfold State.judgeBlower
  rcases h with h | h | ⟨h, hl⟩
  · simp [hc, h]
  · simp [hc, h]
  · simp [hc, h, hl, State.adoptable]

theorem judgeBlower_local (h : (s.blower b).state = .localMode) : s.judgeBlower b = s.localReading b := by
  unfold State.judgeBlower
  simp only [hc, h, Bool.not_true, Bool.false_eq_true, if_false]

end

/-! ### LOCAL and loss (R80, R81) -/

theorem blowerLocalSet_enters (hu : (s.blower b).state ≠ .unknown) (hl : (s.blower b).state ≠ .localMode) :
    s.blowerLocalSet b = (s.enterBlower b .localMode).header := by
  unfold State.blowerLocalSet
  split
  · exact absurd ‹_› hu
  · exact absurd ‹_› hl
  · rfl

theorem blowerLocalSet_stays (h : (s.blower b).state = .unknown ∨ (s.blower b).state = .localMode) : s.blowerLocalSet b = s := by
  unfold State.blowerLocalSet
  rcases h with h | h <;> rw [h]

theorem blowerLost_trips (h : (s.blower b).state = .starting ∨ (s.blower b).state = .running ∨ (s.blower b).state = .localMode
    ∨ (s.blower b).state = .unknown) : s.blowerLost b = (s.enterBlower b .tripped (some .lost)).header := by
  unfold State.blowerLost
  rcases h with h | h | h | h <;> rw [h] <;> rfl

theorem blowerLost_stays (h : (s.blower b).state = .stopping ∨ (s.blower b).state = .stopped ∨ (s.blower b).state = .tripped
    ∨ (s.blower b).state = .lockedOut) : s.blowerLost b = s := by
  unfold State.blowerLost
  rcases h with h | h | h | h <;> rw [h]

/-! ### The statement -/

/-- R75, R84, R86: the entry, field by field and then whole. -/
theorem enterBlower_written (s : State) (b : Nat) (st : BlowerState) (cause : Option TripCause) (h : b < s.blowers.length) :
    let t := s.enterBlower b st cause
    let entered := ((s.modBlower b fun _ => t.blower b).modPool fun p => { p with runList := t.pool.runList }).offerNotice
      (.blowerChange b (s.blower b).state (s.blower b).tripCause st cause s.uptime)
    t = entered.tripAlarms b cause := by
  intro t entered
  have record : (s.modBlower b fun _ => t.blower b) = s.modBlower b fun x => x.entered s.uptime st cause (s.entrySpeed b st) :=
    modBlower_congr (enterBlower_blower h st cause)
  have list : t.pool.runList = runListAfter s.pool.runList b st := congrArg Pool.runList (enterBlower_pool s b st cause)
  have same : entered = (s.enteredBlower b st cause).offerNotice (s.entryNotice b st cause) := by
    dsimp only [entered]
    rw [record, list]
    rfl
  rw [same]
  exact enterBlower_eq s b st cause

/-- Settles O26: the entry, then the judgement of a blower state by state, its flags and its loss. -/
theorem blowersEnterStates : Obligations.BlowersEnterStates := by
  refine ⟨fun s b st cause hb => ?_, fun s b hc => ?_⟩
  · intro t x y
    have record : y = x.entered s.uptime st cause (s.entrySpeed b st) := enterBlower_blower hb st cause
    have list : t.pool.runList = runListAfter s.pool.runList b st := congrArg Pool.runList (enterBlower_pool s b st cause)
    obtain ⟨moved, only⟩ := enterBlower_only s b st cause
    have banks : t.zones = s.zones ∧ t.flc = s.flc ∧ t.points = s.points ∧ t.stations = s.stations := by
      rw [show t = _ from only]
      exact ⟨rfl, rfl, rfl, rfl⟩
    obtain ⟨zones, flc, points, stations⟩ := banks
    have lines : t.alarms.lines = s.alarms.lines := by
      rw [show t.alarms = _ from moved]
      rfl
    have notices (room : s.port.notices.length < 32) : s.port.notices ++ [.blowerChange b x.state x.tripCause st cause s.uptime]
        <+: t.port.notices := by
      have added : ((s.enteredBlower b st cause).offerNotice (s.entryNotice b st cause)).port.notices
          = s.port.notices ++ [s.entryNotice b st cause] := congrArg Port.notices (offerNotice_added _ room)
      have kept := tripAlarms_prefix ((s.enteredBlower b st cause).offerNotice (s.entryNotice b st cause)) b cause
      rw [added] at kept
      exact kept
    have written := enterBlower_written s b st cause hb
    rw [record]
    refine ⟨rfl, rfl, rfl, rfl, rfl, fun h => ?_, fun h => ⟨if_neg h, if_neg h⟩, fun h => if_pos h, fun h => if_neg h,
      entered_runEnd x s.uptime st cause _, fun h => entrySpeed_of_rests h s b, fun h => ?_, fun d hd => enterBlower_blower_ne hd st cause,
      fun h => list.trans (runListAfter_of_runs h _ b), fun hs hr => list.trans (runListAfter_of_rests hs hr _ b), zones, flc, points,
      stations, lines, notices, ?_⟩
    · subst h
      exact ⟨rfl, rfl, rfl⟩
    · subst h
      rfl
    · rw [← record]
      refine written.trans ?_
      cases cause with
      | none => rfl
      | some c => cases c <;> rfl
  · intro x station afresh rest running took tripped waits adopts
    have can : adopts ↔ s.adoptable b = true := (adoptable_iff s b).symm
    refine ⟨fun h => ?_, fun hw h => ?_, fun hs hf => ?_, fun hs hf => ?_, fun hs => ?_, fun hs => ?_,
      fun hs => judgeBlower_rests hc hs, fun hs => judgeBlower_local hc hs, fun hu hl => blowerLocalSet_enters hu hl,
      fun h => blowerLocalSet_stays h, fun hs => blowerLocalClear_of_local hs, fun hs => if_pos hs, fun h => blowerLost_trips h,
      fun h => blowerLost_stays h⟩
    · rw [judgeBlower_waits hc h.1, if_pos (can.mp h), adopt_eq]
      rfl
    · rw [judgeBlower_waits hc hw, if_neg (mt can.mpr h)]
    · rw [judgeBlower_starting hc hs, hf]
      rfl
    · rw [judgeBlower_starting hc hs, if_pos hf, tripFault_of_runs (.inl hs)]
    · rw [judgeBlower_running hc hs, tripFault_of_runs (.inr hs)]
    · have stands : ¬ (x.state = .starting ∨ x.state = .running) := by
        rcases hs with hs | ⟨hs, -⟩ <;> rw [hs] <;> decide
      rw [judgeBlower_stops hc hs, tripFault_of_rests stands]

end Sys2Proof.Machine
end

section
/-! The requests of one blower: BLOWER_LOCKOUT and BLOWER_RESET (R82, R83), and an accepted BLOWER_WRITE (R74). -/

namespace Sys2Proof.Machine

open Sys2Proof

variable {P : State → Prop} {s t : State} {h : Hdr} {b : Nat} {c : BlowerCfg}

/-- A request whose handling takes effect and is answered DONE with no report. -/
theorem exec_effect {i : Instr} {q : Request} (hq : i.request = some q) (hs : s.ready) {e : State} {x : Handled}
    (hh : handle q.hdr q.body (s.addressed q.hdr) = (x.state, some (x.status, x.report))) (hx : x = e.done) :
    exec i s = .next (e.answered q.hdr q.body.code .done []) := by
  subst hx
  exact exec_done hq hs hh

/-! ### BLOWER_LOCKOUT (R82) -/

/-- The lockout flag is no part of a blower's state, nor of its configuration. -/
theorem lockout_frame (s : State) (b : Nat) (flag : Bool) : let t := s.modBlower b fun x => { x with lockout := flag }
    (t.blower b).state = (s.blower b).state ∧ (t.blower b).cfg = (s.blower b).cfg := by
  intro t
  rw [State.blower_modBlower]
  split_ifs <;> exact ⟨rfl, rfl⟩

theorem lockBlower_of_stopped (hx : (s.blower b).state = .stopped) : s.lockBlower b
    = ((s.modBlower b fun x => { x with lockout := true }).enterBlower b .lockedOut).header := by
  unfold State.lockBlower
  dsimp only
  rw [(lockout_frame s b true).1, hx]
  rfl

theorem lockBlower_of_runs (hx : (s.blower b).state = .running ∨ (s.blower b).state = .starting) : s.lockBlower b
    = (((s.modBlower b fun x => { x with lockout := true }).enterBlower b .stopping).offerDrive
      (.station (s.blower b).cfg.station) (.stop 0)).header := by
  obtain ⟨state, cfg⟩ := lockout_frame s b true
  rw [← cfg, ← stopBlower_eq]
  unfold State.lockBlower
  dsimp only
  rw [state]
  rcases hx with hx | hx <;> rw [hx]

theorem lockBlower_of_rests (hx : (s.blower b).state ∈ [.stopping, .unknown, .tripped, .localMode, .lockedOut]) :
    s.lockBlower b = s.modBlower b fun x => { x with lockout := true } := by
  simp only [List.mem_cons, List.not_mem_nil, or_false] at hx
  unfold State.lockBlower
  dsimp only
  rw [(lockout_frame s b true).1]
  rcases hx with hx | hx | hx | hx | hx <;> rw [hx]

theorem unlockBlower_of_lockedOut (hx : (s.blower b).state = .lockedOut) : s.unlockBlower b
    = ((s.modBlower b fun x => { x with lockout := false }).enterBlower b .stopped).header := by
  unfold State.unlockBlower
  dsimp only
  rw [(lockout_frame s b false).1, hx]
  rfl

theorem unlockBlower_of_other (hx : (s.blower b).state ≠ .lockedOut) :
    s.unlockBlower b = s.modBlower b fun x => { x with lockout := false } := by
  unfold State.unlockBlower
  dsimp only
  rw [(lockout_frame s b false).1]
  split
  · exact absurd ‹_› hx
  · rfl

section
variable (hs : s.ready) (hb : b < 6) (hc : (s.blower b).cfg.configured = true)
include hs hb hc

theorem exec_blowerLockout {i : Instr} {on : Bool} (hq : i.request = some ⟨h, .blowerLockout b on⟩) : exec i s
    = .next ((if on then (s.addressed h).lockBlower b else (s.addressed h).unlockBlower b).answered h 19 .done []) := by
  refine exec_effect hq hs (x := handleBlowerLockout b on (s.addressed h)) rfl ?_
  have known : ((s.addressed h).blower b).cfg.configured = true := hc
  unfold handleBlowerLockout
  rw [if_neg (Nat.not_le.mpr hb), known, apply_ite State.done]
  rfl

theorem exec_blowerLockoutOn : exec (.blowerLockoutOn h b) s = .next (((s.addressed h).lockBlower b).answered h 19 .done []) :=
  exec_blowerLockout (on := true) hs hb hc rfl

theorem exec_blowerLockoutOff : exec (.blowerLockoutOff h b) s = .next (((s.addressed h).unlockBlower b).answered h 19 .done []) :=
  exec_blowerLockout (on := false) hs hb hc rfl

end

/-! ### BLOWER_RESET (R83) -/

theorem handleBlowerReset_of_configured (hb : b < 6) (hc : (s.blower b).cfg.configured = true) : handleBlowerReset b s
    = s.acceptIf ((s.blower b).state == .tripped
      && ((s.blower b).tripCause == some .fault || (s.blower b).tripCause == some .startFail) && !s.reportsFault b)
    (s.changeBlower b (s.blower b).restState) := by
  unfold handleBlowerReset
  dsimp only
  rw [if_neg (Nat.not_le.mpr hb), hc]
  rfl

/-- R83: the conditions of a reset. -/
theorem resettable_iff (s : State) (b : Nat) : ((s.blower b).state == .tripped
      && ((s.blower b).tripCause == some .fault || (s.blower b).tripCause == some .startFail) && !s.reportsFault b) = true
    ↔ (s.blower b).state = .tripped ∧ ((s.blower b).tripCause = some .fault ∨ (s.blower b).tripCause = some .startFail)
      ∧ s.reportsFault b = false := by
  simp only [Bool.and_eq_true, Bool.or_eq_true, beq_iff_eq, Bool.not_eq_true', and_assoc]

/-- Settles O28: each request by the blower's state. -/
theorem lockoutAndResetActByTheState : Obligations.LockoutAndResetActByTheState := by
  intro s h b hs hb hc x on off rest
  have locks := exec_blowerLockoutOn (h := h) hs hb hc
  have releases := exec_blowerLockoutOff (h := h) hs hb hc
  have handled := handleBlowerReset_of_configured (s := s.addressed h) hb hc
  refine ⟨fun hx => ?_, fun hx => ?_, fun hx => ?_, fun hx => ?_, fun hx => ?_, fun hx hcause hf => ?_, fun hx => ?_⟩
  · rw [locks, lockBlower_of_stopped (s := s.addressed h) hx]
  · rw [locks, lockBlower_of_runs (s := s.addressed h) hx]
    rfl
  · rw [locks, lockBlower_of_rests (s := s.addressed h) hx]
  · rw [releases, unlockBlower_of_lockedOut (s := s.addressed h) hx]
  · rw [releases, unlockBlower_of_other (s := s.addressed h) hx]
  · refine exec_effect (q := ⟨h, .blowerReset b⟩) rfl hs (x := handleBlowerReset b (s.addressed h)) rfl ?_
    rw [handled, acceptIf_true ((resettable_iff (s.addressed h) b).mpr ⟨hx, hcause, hf⟩)]
    rfl
  · refine exec_status (q := ⟨h, .blowerReset b⟩) rfl hs (handleBlowerReset b (s.addressed h)) rfl ?_ (by decide)
    rw [handled, acceptIf_false (Bool.eq_false_iff.mpr (mt (resettable_iff (s.addressed h) b).mp hx))]
    rfl

end Sys2Proof.Machine
end

section
/-! An accepted BLOWER_WRITE (R74): the ways of a write, and the state each leaves. -/

namespace Sys2Proof.Machine

open Sys2Proof

variable {P : State → Prop} {s t : State} {b : Nat} {c : BlowerCfg}

/-! ### The configuration -/

theorem config_modBlower {f : Blower → Blower} {f' : Bool × BlowerCfg → Bool × BlowerCfg}
    (h : ∀ x, ((f x).lockout, (f x).cfg) = f' (x.lockout, x.cfg)) (s : State) (b : Nat) :
    (s.modBlower b f).config = { s.config with blowers := s.config.blowers.modify b f' } :=
  congrArg (fun k => { s.config with blowers := k }) (map_modify_comm h s.blowers b)

/-- R74: the duty order after a write that makes the blower configured or not. -/
def orderAfter (order : List Nat) (b : Nat) (was is : Bool) : List Nat :=
  if is && !was then order ++ [b] else if !is && was then order.filter (· ≠ b) else order

/-- R74: the configuration after a write. -/
def State.rewrittenConfig (s : State) (b : Nat) (c : BlowerCfg) : Settings :=
  { s.config with
    blowers := s.config.blowers.modify b fun x => (x.1, c),
    dutyOrder := orderAfter s.pool.dutyOrder b (s.blower b).cfg.configured c.configured }

/-! ### The ways of a write -/

/-- R74: the record of a blower newly configured, or no longer so. -/
def State.madeFresh (s : State) (b : Nat) (c : BlowerCfg) : State :=
  s.modBlower b fun x =>
    { cfg := c, lockout := x.lockout, state := .unknown, tripCause := none, speed := 0, runStart := none, runEnd := none,
      rampDeadline := none, runDownDeadline := none, lastChange := s.uptime }

/-- R74: newly configured, at the tail of the duty order. -/
def State.addedBlower (s : State) (b : Nat) (c : BlowerCfg) : State :=
  (s.madeFresh b c).modPool fun p => { p with dutyOrder := p.dutyOrder ++ [b] }

/-- R74: no longer configured, off both lists. -/
def State.droppedBlower (s : State) (b : Nat) (c : BlowerCfg) : State :=
  (s.madeFresh b c).modPool fun p =>
    { p with dutyOrder := p.dutyOrder.filter (· ≠ b), runList := p.runList.filter (· ≠ b) }

theorem filter_bne (l : List Nat) (b : Nat) : l.filter (· != b) = l.filter (· ≠ b) :=
  congrArg (fun p => l.filter p) (funext fun d => by rw [bne, beq_eq_decide, decide_not])

theorem rewriteBlower_unconfigured (hc : c.configured = false) (ho : (s.blower b).cfg.configured = false) :
    s.rewriteBlower b c = s.modBlower b fun x => { x with cfg := c } :=
  (if_pos (by rw [hc]; rfl)).trans (if_neg (by rw [ho]; decide))

/-- R83: the alarms of a blower that is not tripped. -/
theorem tripAlarms_none (s : State) (b : Nat) : s.tripAlarms b none
    = ((s.clearAlarm .blowerFault (.blower b)).clearAlarm .blowerStartFail (.blower b)).clearAlarm .blowerLost (.blower b) := rfl

theorem rewriteBlower_dropped (hc : c.configured = false) (ho : (s.blower b).cfg.configured = true) : s.rewriteBlower b c
    = ((((s.droppedBlower b c).clearAlarm .blowerFault (.blower b)).clearAlarm .blowerStartFail (.blower b)).clearAlarm
      .blowerLost (.blower b)).header := by
  rw [← tripAlarms_none]
  refine (if_pos (by rw [hc]; rfl)).trans ((if_pos ho).trans ?_)
  unfold State.forgetBlower State.droppedBlower
  simp only [filter_bne]
  rfl

theorem rewriteBlower_added (hc : c.configured = true) (ho : (s.blower b).cfg.configured = false) :
    s.rewriteBlower b c = (s.addedBlower b c).adoptIfReady b :=
  (if_neg (by rw [hc]; decide)).trans (if_pos (by rw [ho]; rfl))

section
variable (hc : c.configured = true) (ho : (s.blower b).cfg.configured = true)
include hc ho

theorem rewriteBlower_kept (hm : ¬ (c.station ≠ (s.blower b).cfg.station ∨ c.runPoint ≠ (s.blower b).cfg.runPoint)) :
    s.rewriteBlower b c = s.modBlower b fun x => { x with cfg := c } :=
  (if_neg (by rw [hc]; decide)).trans ((if_neg (by rw [ho]; decide)).trans (if_neg hm))

variable (hm : c.station ≠ (s.blower b).cfg.station ∨ c.runPoint ≠ (s.blower b).cfg.runPoint)
include hm

theorem rewriteBlower_again (hx : (s.blower b).state = .unknown) : s.rewriteBlower b c
    = let again := s.modBlower b fun x => { x with cfg := c, lastChange := s.uptime }
      if again.adoptable b then again.adopt b else again :=
  (if_neg (by rw [hc]; decide)).trans ((if_neg (by rw [ho]; decide)).trans ((if_pos hm).trans (if_pos hx)))

theorem rewriteBlower_unknown (hx : (s.blower b).state ≠ .unknown) : s.rewriteBlower b c
    = ((s.modBlower b fun x => { x with cfg := c }).enterBlower b .unknown).adoptIfReady b :=
  (if_neg (by rw [hc]; decide)).trans ((if_neg (by rw [ho]; decide)).trans ((if_pos hm).trans (if_neg hx)))

end

/-- What a write keeps: kept where the record is written, and by what follows of the header unit. -/
theorem AirBlocks.rewriteBlower (hP : AirBlocks P)
    (written : c.configured = (s.blower b).cfg.configured → ∀ f : Blower → Blower,
      (∀ x, ((f x).lockout, (f x).cfg) = (x.lockout, c)) → P (s.modBlower b f))
    (added : c.configured = true → (s.blower b).cfg.configured = false → P (s.addedBlower b c))
    (dropped : c.configured = false → (s.blower b).cfg.configured = true → P (s.droppedBlower b c)) : P (s.rewriteBlower b c) := by
  cases hc : c.configured with
  | false =>
    cases ho : (s.blower b).cfg.configured with
    | false =>
      rw [rewriteBlower_unconfigured hc ho]
      exact written (hc.trans ho.symm) _ fun _ => rfl
    | true =>
      rw [rewriteBlower_dropped hc ho]
      rw [← tripAlarms_none]
      exact hP.header (hP.tripAlarms (dropped hc ho) b none)
  | true =>
    cases ho : (s.blower b).cfg.configured with
    | false =>
      rw [rewriteBlower_added hc ho]
      exact hP.adoptIfReady (added hc ho) b
    | true =>
      have kept := written (hc.trans ho.symm)
      by_cases hm : c.station ≠ (s.blower b).cfg.station ∨ c.runPoint ≠ (s.blower b).cfg.runPoint
      · by_cases hx : (s.blower b).state = .unknown
        · rw [rewriteBlower_again hc ho hm hx]
          have again := kept (fun x => { x with cfg := c, lastChange := s.uptime }) fun _ => rfl
          exact ite_keeps (hP.adopt again b) again
        · rw [rewriteBlower_unknown hc ho hm hx]
          exact hP.adoptIfReady (hP.enterBlower (kept _ fun _ => rfl) b .unknown none (by decide)) b
      · rw [rewriteBlower_kept hc ho hm]
        exact kept _ fun _ => rfl

theorem rewriteBlower_config (s : State) (b : Nat) (c : BlowerCfg) : (s.rewriteBlower b c).config = s.rewrittenConfig b c := by
  have order {order : List Nat} (ho : orderAfter s.pool.dutyOrder b (s.blower b).cfg.configured c.configured = order) :
      s.rewrittenConfig b c = { s.config with blowers := s.config.blowers.modify b fun x => (x.1, c), dutyOrder := order } := by
    unfold State.rewrittenConfig
    rw [ho]
  have fresh : (s.madeFresh b c).config = { s.config with blowers := s.config.blowers.modify b fun x => (x.1, c) } :=
    config_modBlower (fun _ => rfl) s b
  refine (config_plant (s.rewrittenConfig b c)).toAirBlocks.rewriteBlower (fun same f hf => ?_) (fun hc ho => ?_) (fun hc ho => ?_)
  · refine (config_modBlower hf s b).trans (order ?_).symm
    rw [same]
    unfold orderAfter
    cases (s.blower b).cfg.configured <;> rfl
  · have tail : orderAfter s.pool.dutyOrder b (s.blower b).cfg.configured c.configured = s.pool.dutyOrder ++ [b] := by
      rw [hc, ho]
      rfl
    rw [order tail]
    exact congrArg (fun k : Settings => { k with dutyOrder := s.pool.dutyOrder ++ [b] }) fresh
  · have gone : orderAfter s.pool.dutyOrder b (s.blower b).cfg.configured c.configured = s.pool.dutyOrder.filter (· ≠ b) := by
      rw [hc, ho]
      rfl
    rw [order gone]
    exact congrArg (fun k : Settings => { k with dutyOrder := s.pool.dutyOrder.filter (· ≠ b) }) fresh

/-! ### What follows of adoption -/

/-- R76: adoption of a configured blower in UNKNOWN, where it can be made now. -/
theorem adoptIfReady_of_unknown (hc : (s.blower b).cfg.configured = true) (hx : (s.blower b).state = .unknown) :
    s.adoptIfReady b = if s.adoptable b then s.judgeBlower b else s.header := by
  rw [judgeBlower_waits hc (.inl hx)]
  unfold State.adoptIfReady
  split_ifs <;> rfl

theorem rewriteBlower_adds (hc : c.configured = true) (ho : (s.blower b).cfg.configured = false) (hb : b < s.blowers.length) :
    s.rewriteBlower b c = if (s.addedBlower b c).adoptable b then (s.addedBlower b c).judgeBlower b else (s.addedBlower b c).header := by
  have record := (blower_congr (s := s.madeFresh b c) (t := s.addedBlower b c) rfl b).trans (State.blower_modBlower_same hb _)
  rw [rewriteBlower_added hc ho, adoptIfReady_of_unknown]
  · rw [record]
    exact hc
  · rw [record]

section
variable (hc : c.configured = true) (ho : (s.blower b).cfg.configured = true)
  (hm : c.station ≠ (s.blower b).cfg.station ∨ c.runPoint ≠ (s.blower b).cfg.runPoint)
include hc ho hm

theorem rewriteBlower_adopts (hx : (s.blower b).state = .unknown) :
    s.rewriteBlower b c = (s.modBlower b fun x => { x with cfg := c, lastChange := s.uptime }).judgeBlower b := by
  have record := State.blower_modBlower_same (lt_length_of_configuredBlower ho) fun x => { x with cfg := c, lastChange := s.uptime }
  rw [rewriteBlower_again hc ho hm hx, judgeBlower_waits]
  · rw [record]
    exact hc
  · rw [record]
    exact .inl hx

theorem rewriteBlower_enters (hx : (s.blower b).state ≠ .unknown) : s.rewriteBlower b c
    = let unknown := (s.modBlower b fun x => { x with cfg := c }).enterBlower b .unknown
      if unknown.adoptable b then unknown.judgeBlower b else unknown.header := by
  have record := State.blower_modBlower_same (lt_length_of_configuredBlower ho) fun x => { x with cfg := c }
  have length : b < (s.modBlower b fun x => { x with cfg := c }).blowers.length :=
    (lt_length_of_configuredBlower ho).trans_eq (List.length_modify ..).symm
  rw [rewriteBlower_unknown hc ho hm hx, adoptIfReady_of_unknown]
  · rw [(blower_of_config (enterBlower_config _ b .unknown none) b).2, record]
    exact hc
  · rw [enterBlower_blower length]
    rfl

end

/-! ### The statement -/

theorem exec_blowerWrite {h : Hdr} (hs : s.ready) (hb : b < 6) (hw : (s.blower b).writable = true) (hok : s.blowerOk b c = true) :
    exec (.blowerWrite h b c) s = .next (((s.addressed h).rewriteBlower b c).answered h 17 .done []) := by
  refine exec_effect (q := ⟨h, .blowerWrite b c⟩) rfl hs (x := handleBlowerWrite b c (s.addressed h)) rfl ?_
  have writable : ((s.addressed h).blower b).writable = true := hw
  have ok : (s.addressed h).blowerOk b c = true := hok
  unfold handleBlowerWrite
  rw [if_neg (Nat.not_le.mpr hb), writable, acceptIf_true ok]
  rfl

/-- Settles O27: what a write keeps, then its next state in each of its ways. -/
theorem blowerWriteRewritesTheBlower : Obligations.BlowerWriteRewritesTheBlower := by
  intro s h b c hs hb hw hok old
  let a := s.addressed h
  let u := a.rewriteBlower b c
  have settled := Settled.answered u h 17 .done []
  have own : u.port.own = a.port.own := (ownPort_effects _).rewriteBlower rfl b c
  obtain ⟨stations, points, channels, hand⟩ : a.StormAside u := (stormAside_blocks a).toAirBlocks.rewriteBlower
    (fun _ _ _ => ⟨rfl, rfl, rfl, rfl⟩) (fun _ _ => ⟨rfl, rfl, rfl, rfl⟩) (fun _ _ => ⟨rfl, rfl, rfl, rfl⟩)
  refine ⟨_, exec_blowerWrite hs hb hw hok, answered_replied own 17 .done [], settled.stations.trans stations,
    settled.points.trans points, settled.channels.trans channels, settled.hand.trans hand,
    settled.config.trans (rewriteBlower_config a b c), fun hconf hst hp => ?_, ?_⟩
  · have written : u = a.modBlower b fun x => { x with cfg := c } := by
      cases hc : c.configured with
      | false => exact rewriteBlower_unconfigured hc (hconf.symm.trans hc)
      | true => exact rewriteBlower_kept hc (hconf.symm.trans hc) fun hm => hm.elim (absurd hst) (absurd hp)
    exact ⟨settled.blowers.trans (congrArg State.blowers written), settled.zones.trans ((congrArg State.zones written).trans rfl)⟩
  · intro a' x answers written fresh added dropped again unknown moved
    have leaves {v : State} (hv : u = v) : answers v := congrArg (fun w : State => w.answered h 17 .done []) hv
    exact ⟨fun hc ho => leaves (rewriteBlower_unconfigured hc ho), fun hc ho => leaves (rewriteBlower_dropped hc ho),
      fun hc ho hlen => leaves (rewriteBlower_adds hc ho hlen), fun hc ho hm hx => leaves (rewriteBlower_adopts hc ho hm hx),
      fun hc ho hm hx => leaves (rewriteBlower_enters hc ho hm hx), fun hc ho hm => leaves (rewriteBlower_kept hc ho hm)⟩

end Sys2Proof.Machine
end

section
/-! The blower pool: POOL_WRITE (R87, R92), DUTY_ORDER and DUTY_ROTATE (R86), and the staging of blowers (R77, R88 to R90). -/

namespace Sys2Proof.Machine

open Sys2Proof

variable {P : State → Prop} {s t u : State} {h : Hdr} {b d demand : Nat} {c : PoolCfg}

/-! ### What the pool's judgements leave alone -/

/-- The zones, the stations and the points are those of `s`, and of the pool what no start and no pressure reading moves. -/
structure State.PoolKept (s t : State) : Prop where
  zones : t.zones = s.zones
  stations : t.stations = s.stations
  points : t.points = s.points
  stageDownSince : t.pool.stageDownSince = s.pool.stageDownSince
  allocDeadline : t.pool.allocDeadline = s.pool.allocDeadline
  figures : t.pool.figures = s.pool.figures
  supply : t.pool.supply = s.pool.supply

theorem State.PoolKept.refl (s : State) : s.PoolKept s := ⟨rfl, rfl, rfl, rfl, rfl, rfl, rfl⟩

theorem State.PoolKept.trans (hs : s.PoolKept t) (k : t.PoolKept u) : s.PoolKept u :=
  ⟨k.zones.trans hs.zones, k.stations.trans hs.stations, k.points.trans hs.points, k.stageDownSince.trans hs.stageDownSince,
    k.allocDeadline.trans hs.allocDeadline, k.figures.trans hs.figures, k.supply.trans hs.supply⟩

theorem AlarmsOnly.poolKept (hs : AlarmsOnly s t) : s.PoolKept t := by
  rw [hs.2]
  exact ⟨rfl, rfl, rfl, rfl, rfl, rfl, rfl⟩

theorem offerDrive_poolKept (s : State) (target : Target) (drive : Drive) : s.PoolKept (s.offerDrive target drive) := by
  rw [State.offerDrive, offerExpress_eq]
  exact ⟨rfl, rfl, rfl, rfl, rfl, rfl, rfl⟩

theorem enterBlower_poolKept (s : State) (b : Nat) (st : BlowerState) (cause : Option TripCause) :
    s.PoolKept (s.enterBlower b st cause) :=
  State.PoolKept.trans (t := s.enteredBlower b st cause) ⟨rfl, rfl, rfl, rfl, rfl, rfl, rfl⟩ (enterBlower_only s b st cause).poolKept

theorem stageUpSince_poolKept (s : State) (since : Option Nat) : s.PoolKept (s.modPool fun p => { p with stageUpSince := since }) :=
  ⟨rfl, rfl, rfl, rfl, rfl, rfl, rfl⟩

/-- R77: a request for a start. -/
theorem askStart_eq (s : State) : s.askStart = s.nextStart.elim s fun b => ((s.enterBlower b .starting).offerDrive
    (.station (s.blower b).cfg.station) (.run (s.blower b).cfg.turndown)).modPool fun p => { p with stageUpSince := none } := by
  unfold State.askStart
  cases s.nextStart with
  | none => rfl
  | some b =>
    dsimp only
    rw [driveBlower_enterBlower, (blower_of_config (enterBlower_config s b .starting none) b).2]
    rfl

theorem askStart_poolKept (s : State) : s.PoolKept s.askStart := by
  rw [askStart_eq]
  cases s.nextStart with
  | none => exact .refl s
  | some b =>
    have driven := (enterBlower_poolKept s b .starting none).trans
      (offerDrive_poolKept _ (.station (s.blower b).cfg.station) (.run (s.blower b).cfg.turndown))
    exact driven.trans (stageUpSince_poolKept _ none)

theorem judgeMinimum_poolKept (s : State) : s.PoolKept s.judgeMinimum :=
  ite_keeps (P := s.PoolKept) (askStart_poolKept s) (.refl s)

theorem setAlarm_only (s : State) (code : AlarmCode) (src : Source) (holds : Bool) (v : Option Nat) :
    AlarmsOnly s (s.setAlarm code src holds v) :=
  ite_keeps (P := AlarmsOnly s) (raiseAlarm_only s code src v) (clearAlarm_only s code src)

/-- An alarm told at the edges of its condition. -/
theorem edge_only (s : State) (code : AlarmCode) (is was : Bool) (v : Option Nat) :
    AlarmsOnly s (if is && was then s else s.setAlarm code .header is v) :=
  ite_keeps (P := AlarmsOnly s) (.refl s) (setAlarm_only s code .header is v)

theorem judgePressure_poolKept (s : State) : s.PoolKept s.judgePressure := by
  unfold State.judgePressure
  split
  · exact .refl s
  · rename_i p _
    let moved := s.modPool fun q => { q with
      pressureHigh := s.pointGood p .pressure && decide (s.pool.cfg.pressureHigh < s.pointValue p),
      pressureLow := s.pointGood p .pressure && decide (s.pointValue p < s.pool.cfg.pressureLow) && decide (0 < s.pool.supply) }
    have kept : s.PoolKept moved := ⟨rfl, rfl, rfl, rfl, rfl, rfl, rfl⟩
    exact kept.trans ((edge_only moved _ _ _ _).trans (edge_only _ _ _ _ _)).poolKept

theorem dropPressure_poolKept (s : State) : s.PoolKept s.dropPressure :=
  State.PoolKept.trans (t := s.modPool fun q => { q with pressureHigh := false, pressureLow := false })
    ⟨rfl, rfl, rfl, rfl, rfl, rfl, rfl⟩ ((clearAlarm_only _ _ _).trans (clearAlarm_only _ _ _)).poolKept

/-! ### POOL_WRITE (R87, R92) -/

/-- R87, R92: the header pressure after a write of the pool's configuration. -/
def State.pressedPool (s : State) (c : PoolCfg) : State :=
  let old := s.pool.cfg
  let written := s.modPool fun p => { p with cfg := c }
  let unwatched := ((written.modPool fun q => { q with pressureHigh := false, pressureLow := false }).clearAlarm
    .headerPressureHigh .header).clearAlarm .headerPressureLow .header
  if c.pressurePoint = old.pressurePoint ∧ c.pressureHigh = old.pressureHigh ∧ c.pressureLow = old.pressureLow then written
  else if c.pressurePoint = none then (if old.pressurePoint = none then written else unwatched)
  else written.judgePressure

theorem rewritePool_eq (s : State) (c : PoolCfg) : s.rewritePool c = (s.pressedPool c).judgeMinimum := by
  unfold State.rewritePool State.pressedPool
  simp only [Option.isNone_iff_eq_none]
  rfl

theorem rewritePool_keeps {P : State → Prop} (written : P (s.modPool fun p => { p with cfg := c }))
    (drop : ∀ {u : State}, P u → P u.dropPressure) (judge : ∀ {u : State}, P u → P u.judgePressure)
    (minimum : ∀ {u : State}, P u → P u.judgeMinimum) : P (s.rewritePool c) := by
  rw [rewritePool_eq]
  exact minimum (ite_keeps written (ite_keeps (ite_keeps written (drop written)) (judge written)))

theorem rewritePool_poolKept (s : State) (c : PoolCfg) : s.PoolKept (s.rewritePool c) :=
  rewritePool_keeps (P := s.PoolKept) ⟨rfl, rfl, rfl, rfl, rfl, rfl, rfl⟩ (fun k => k.trans (dropPressure_poolKept _))
    (fun k => k.trans (judgePressure_poolKept _)) (fun k => k.trans (judgeMinimum_poolKept _))

theorem rewritePool_config (s : State) (c : PoolCfg) : (s.rewritePool c).config = { s.config with pool := c } :=
  have plant := config_plant { s.config with pool := c }
  rewritePool_keeps (P := fun u => u.config = { s.config with pool := c }) rfl plant.dropPressure plant.judgePressure
    plant.judgeMinimum

theorem exec_poolWrite (hs : s.ready) (hok : s.poolOk c = true) :
    exec (.poolWrite h c) s = .next (((s.addressed h).rewritePool c).answered h 21 .done []) :=
  exec_accepted (q := ⟨h, .poolWrite c⟩) rfl hs rfl hok

/-! ### DUTY_ORDER, DUTY_ROTATE (R86) -/

/-- R86: a duty order names each configured blower once and no other. -/
theorem orderOk_iff (s : State) (order : List Nat) : s.orderOk order = true
    ↔ order.Nodup ∧ ∀ b, b ∈ order ↔ b < 6 ∧ (s.blower b).cfg.configured = true := by
  simp only [State.orderOk, Bool.and_eq_true, decide_eq_true_eq, List.all_eq_true, List.mem_range, Bool.or_eq_true, Bool.not_eq_true',
    List.contains_iff_mem, and_assoc]
  refine and_congr_right fun _ => ⟨fun ⟨named, all⟩ b => ⟨named b, fun ⟨hb, hc⟩ => ?_⟩, fun same => ⟨fun b => (same b).mp, fun b hb => ?_⟩⟩
  · exact (all b hb).resolve_left (by rw [hc]; decide)
  · cases hc : (s.blower b).cfg.configured with
    | false => exact .inl rfl
    | true => exact .inr ((same b).mpr ⟨hb, hc⟩)

/-- R86: the duty order moves by one place. -/
theorem exec_dutyRotate (hs : s.ready) : exec (.dutyRotate h) s
    = .next (((s.addressed h).modPool fun p => { p with dutyOrder := rotate s.pool.dutyOrder }).answered h 23 .done []) :=
  exec_effect (q := ⟨h, .dutyRotate⟩) rfl hs (x := handleDutyRotate (s.addressed h)) rfl rfl

/-! ### Starts (R77) -/

theorem someStarting_iff (s : State) : s.someStarting = true
    ↔ ∃ b < 6, (s.blower b).cfg.configured = true ∧ (s.blower b).state = .starting := by
  simp only [State.someStarting, List.any_eq_true, List.mem_range, starting_iff]

/-- An absent time counts as long past. -/
theorem longSince_iff (s : State) (time : Option Nat) (d : Nat) : s.longSince time d = true ↔ ∀ e ∈ time, e + d ≤ s.uptime := by
  cases time <;> simp [State.longSince]

theorem startable_iff (s : State) (b : Nat) : s.startable b = true ↔ let x := s.blower b
    x.cfg.configured = true ∧ x.state = .stopped ∧ s.readsHealth x.cfg.station = .live ∧ s.readsFault x.cfg.station = false
      ∧ s.readsLocal x.cfg.station = false ∧ s.reportsFault b = false ∧ ∀ e ∈ x.runEnd, e + x.cfg.minStop ≤ s.uptime := by
  unfold State.startable
  simp only [Bool.and_eq_true, beq_iff_eq, Bool.not_eq_true', longSince_iff, and_assoc]

/-- R77: no start while a blower is STARTING, nor where none of the duty order can start. -/
theorem askStart_stays (hs : s.someStarting = true ∨ ∀ b ∈ s.pool.dutyOrder, s.startable b = false) : s.askStart = s := by
  have none : s.nextStart = none := by
    unfold State.nextStart
    split_ifs with starting
    · rfl
    · exact List.find?_eq_none.mpr fun b hb => Bool.eq_false_iff.mp ((hs.resolve_left starting) b hb)
  rw [askStart_eq, none]
  rfl

/-- R77: the first startable blower of the duty order starts. -/
theorem askStart_starts {before after : List Nat} (ho : s.pool.dutyOrder = before ++ b :: after)
    (hn : ∀ d ∈ before, s.startable d = false) (hb : s.startable b = true) (hs : s.someStarting = false) :
    s.askStart = ((s.enterBlower b .starting).offerDrive (.station (s.blower b).cfg.station)
      (.run (s.blower b).cfg.turndown)).modPool fun p => { p with stageUpSince := none } := by
  have next : s.nextStart = some b := by
    unfold State.nextStart
    rw [hs, if_neg Bool.false_ne_true, List.find?_eq_some_iff_append]
    exact ⟨hb, before, after, ho, fun d hd => by rw [hn d hd]; rfl⟩
  rw [askStart_eq, next]
  rfl

/-! ### Minimum running and stage-up (R88, R89) -/

theorem judgeMinimum_asks (hs : s.pool.settled = true) (hm : s.runningCount < s.minimumInForce) : s.judgeMinimum = s.askStart :=
  if_pos (by rw [hs, decide_eq_true hm]; rfl)

theorem judgeMinimum_stays (hm : s.pool.settled = false ∨ s.minimumInForce ≤ s.runningCount) : s.judgeMinimum = s := by
  refine if_neg fun k => ?_
  rw [Bool.and_eq_true, decide_eq_true_eq] at k
  rcases hm with hm | hm
  · exact Bool.false_ne_true (hm.symm.trans k.1)
  · exact absurd k.2 (Nat.not_lt.mpr hm)

theorem stageUp_spares (hd : demand ≤ s.pool.supply * s.pool.cfg.upFraction / 1000) :
    s.stageUp demand = s.modPool fun p => { p with stageUpSince := none } := if_pos hd

section
variable (hd : ¬ demand ≤ s.pool.supply * s.pool.cfg.upFraction / 1000)
include hd

theorem stageUp_begins (hn : s.pool.stageUpSince = none) :
    s.stageUp demand = s.modPool fun p => { p with stageUpSince := some s.uptime } :=
  (if_neg hd).trans (if_pos (by rw [hn]; rfl))

theorem stageUp_waits (hn : s.pool.stageUpSince = some d) :
    s.stageUp demand = if d + s.pool.cfg.upDelay ≤ s.uptime then s.askStart else s := by
  have lasts : s.lasted s.pool.stageUpSince s.pool.cfg.upDelay = true ↔ d + s.pool.cfg.upDelay ≤ s.uptime := by
    rw [hn]
    exact decide_eq_true_iff
  refine (if_neg hd).trans ((if_neg (by rw [hn]; exact Bool.false_ne_true)).trans (if_congr lasts rfl rfl))

end

/-! ### Stage-down (R90) -/

theorem stageDown_none (hs : ∀ b ∈ s.pool.runList, (s.blower b).state ≠ .running) (demand : Nat) :
    s.stageDown demand = s.modPool fun p => { p with stageDownSince := none } := by
  have none : s.stopCandidate = none := List.find?_eq_none.mpr fun b hb => by simpa using hs b (List.mem_reverse.mp hb)
  unfold State.stageDown
  rw [none]

/-- R90: the candidate is the running blower nearest the tail of the run list. -/
theorem stopCandidate_eq {before after : List Nat} (hl : s.pool.runList = before ++ b :: after) (hb : (s.blower b).state = .running)
    (hn : ∀ d ∈ after, (s.blower d).state ≠ .running) : s.stopCandidate = some b := by
  refine List.find?_eq_some_iff_append.mpr ⟨beq_iff_eq.mpr hb, after.reverse, before.reverse, ?_, fun d hd => ?_⟩
  · simp [hl]
  · simpa using hn d (List.mem_reverse.mp hd)

theorem stageDown_of_candidate (hb : s.stopCandidate = some b) (demand : Nat) : s.stageDown demand =
    if (s.pool.supply - (s.blower b).cfg.rated) * s.pool.cfg.downFraction / 1000 ≤ demand then
      s.modPool fun p => { p with stageDownSince := none }
    else if s.pool.stageDownSince = none then s.modPool fun p => { p with stageDownSince := some s.uptime }
    else if (∃ d ∈ s.pool.stageDownSince, d + s.pool.cfg.downDelay ≤ s.uptime)
        ∧ (∀ r ∈ (s.blower b).runStart, r + (s.blower b).cfg.minRun ≤ s.uptime) ∧ s.minimumInForce < s.runningCount then
      ((s.enterBlower b .stopping).offerDrive (.station (s.blower b).cfg.station) (.stop 0)).modPool fun p =>
        { p with stageDownSince := none }
    else s := by
  have lasts : s.lasted s.pool.stageDownSince s.pool.cfg.downDelay = true
      ↔ ∃ d ∈ s.pool.stageDownSince, d + s.pool.cfg.downDelay ≤ s.uptime := by
    cases s.pool.stageDownSince <;> simp [State.lasted]
  unfold State.stageDown
  rw [hb]
  simp only [stopBlower_eq, Option.isNone_iff_eq_none, Bool.and_eq_true, lasts, longSince_iff, decide_eq_true_eq, and_assoc,
    Nat.add_one_le_iff]

/-! ### The statement -/

/-- Settles O29: the three requests, then a start, stage-up, minimum running and stage-down. -/
theorem poolRequestsChangeThePool : Obligations.PoolRequestsChangeThePool := by
  refine ⟨fun s h hs => ⟨fun c hok => ?_, fun c hok => ?_, fun order hn ho => ?_, fun order hf => ?_, fun b rest hl => ?_, fun hl => ?_⟩,
    fun s => ?_⟩
  · let u := (s.addressed h).rewritePool c
    have settled := Settled.answered u h 21 .done []
    have own : u.port.own = (s.addressed h).port.own := (ownPort_effects _).rewritePool rfl c
    have kept : (s.addressed h).PoolKept u := rewritePool_poolKept _ c
    exact ⟨_, exec_poolWrite hs hok, answered_replied own 21 .done [], settled.config.trans (rewritePool_config _ c),
      (congrArg Pool.stageDownSince settled.pool).trans kept.stageDownSince,
      (congrArg Pool.allocDeadline settled.pool).trans kept.allocDeadline, (congrArg Pool.figures settled.pool).trans kept.figures,
      (congrArg Pool.supply settled.pool).trans kept.supply, settled.zones.trans kept.zones, settled.stations.trans kept.stations,
      settled.points.trans kept.points⟩
  · rw [exec_poolWrite hs hok, rewritePool_eq]
    rfl
  · exact exec_accepted (q := ⟨h, .dutyOrder order⟩) rfl hs rfl ((orderOk_iff (s.addressed h) order).mpr ⟨hn, ho⟩)
  · exact exec_status (q := ⟨h, .dutyOrder order⟩) rfl hs (handleDutyOrder order (s.addressed h)) rfl
      (acceptIf_false (Bool.eq_false_iff.mpr (mt (orderOk_iff (s.addressed h) order).mp hf)) _ _) (by decide)
  · rw [exec_dutyRotate hs, hl]
    rfl
  · have still : rotate s.pool.dutyOrder = s.pool.dutyOrder := by
      rw [hl]
      rfl
    rw [exec_dutyRotate hs, still]
    rfl
  · intro starting startable inForce count
    have idle (d : Nat) (hd : ¬ startable d) : s.startable d = false := Bool.eq_false_iff.mpr (mt (startable_iff s d).mp hd)
    refine ⟨fun hn => askStart_stays (hn.imp (someStarting_iff s).mpr fun hn b hb => idle b (hn b hb)),
      fun before b after ho hn hb hs => askStart_starts ho (fun d hd => idle d (hn d hd)) ((startable_iff s b).mpr hb)
        (Bool.eq_false_iff.mpr (mt (someStarting_iff s).mp hs)),
      judgeMinimum_asks, judgeMinimum_stays, fun demand => ⟨stageUp_spares, stageUp_begins, fun d => stageUp_waits⟩, stageDown_none,
      fun before b after hl hb hn demand => ?_⟩
    intro x needed
    rw [stageDown_of_candidate (stopCandidate_eq hl hb hn) demand]
    refine ⟨fun hd => if_pos hd, fun hd hnone => (if_neg hd).trans (if_pos hnone), fun d hd hsome => ?_⟩
    rw [if_neg hd, hsome, if_neg (Option.some_ne_none d)]
    simp only [Option.mem_def, Option.some.injEq, exists_eq_left']
    exact ⟨fun may => if_pos may, fun may => if_neg may⟩

end Sys2Proof.Machine
end

section
/-! Requests that cannot be read, name nothing in range, or name an unconfigured blower or channel (R168). -/

namespace Sys2Proof.Machine

open Sys2Proof

variable {s : State} {i : Nat}

/-! ### Names outside their range -/

theorem pointOk_of_ge (hp : 128 ≤ i) (c : PointCfg) : s.pointOk i c = false := by
  simp [State.pointOk, Nat.not_lt.mpr hp]

theorem zoneOk_of_ge (hz : 24 ≤ i) (c : ZoneCfg) : s.zoneOk i c = false := by
  simp [State.zoneOk, Nat.not_lt.mpr hz]

theorem laneOk_of_ge (hl : 6 ≤ i) (c : LaneCfg) : s.laneOk i c = false := by
  simp [State.laneOk, Nat.not_lt.mpr hl]

theorem groupOk_of_ge (hg : 8 ≤ i) (members : List Nat) (answering : Option Nat) : s.groupOk i members answering = false := by
  simp [State.groupOk, Nat.not_lt.mpr hg]

/-- R107: the first checks of a request of a channel. -/
theorem channel_refused (hc : 4 ≤ i ∨ s.dormant i = true) (x : Handled) :
    (if 4 ≤ i then s.refused else if s.dormant i then s.refused else x) = s.refused := by
  rcases hc with hc | hc
  · exact if_pos hc
  · rw [hc, if_pos rfl, ite_self]

/-- R112, R113: a request of a channel that is there and not configured. -/
theorem channel_noObject (hi : i < 4) (hd : s.dormant i = false) (hc : (s.channel i).cfg.configured = false) (x : Handled) :
    (if 4 ≤ i then s.refused else if s.dormant i then s.refused
      else if !(s.channel i).cfg.configured then s.noObject else x) = s.noObject := by
  rw [if_neg (Nat.not_le.mpr hi), hd, if_neg Bool.false_ne_true, hc]
  rfl

/-- R82, R83: a request of a blower that is not configured. -/
theorem blower_noObject (hi : i < 6) (hc : (s.blower i).cfg.configured = false) (x : Handled) :
    (if 6 ≤ i then s.refused else if !(s.blower i).cfg.configured then s.noObject else x) = s.noObject := by
  rw [if_neg (Nat.not_le.mpr hi), hc]
  rfl

/-! ### The statement -/

/-- Settles O39: each request's first checks, which leave the state it was taken in. -/
theorem requestsForNothingChangeNothing : Obligations.RequestsForNothingChangeNothing := by
  intro s h hs no
  have answers {c : Instr} {q : Request} {status : Status} (hq : c.request = some q) (hd : status ≠ .done) (x : Handled)
      (hh : handle q.hdr q.body (s.addressed q.hdr) = (x.state, some (x.status, x.report)))
      (hx : x = ⟨s.addressed q.hdr, status, []⟩) := exec_status hq hs x hh hx hd
  have refuses {c : Instr} {r : Req} (hq : c.request = some ⟨h, r⟩) (x : Handled)
      (hh : handle h r (s.addressed h) = (x.state, some (x.status, x.report))) (hx : x = (s.addressed h).refused) :
      exec c s = no r.code .refused := answers (q := ⟨h, r⟩) hq (by decide) x hh hx
  have absent {c : Instr} {r : Req} (hq : c.request = some ⟨h, r⟩) (x : Handled)
      (hh : handle h r (s.addressed h) = (x.state, some (x.status, x.report))) (hx : x = (s.addressed h).noObject) :
      exec c s = no r.code .noObject := answers (q := ⟨h, r⟩) hq (by decide) x hh hx
  refine ⟨fun code => ?_, fun i hi => ⟨?_, ?_, ?_, fun f => ?_⟩, fun p hp => ⟨?_, fun c => ?_⟩, fun z hz => ⟨?_, fun c => ?_⟩,
    fun l hl => ⟨?_, ?_, fun c => ?_⟩, fun b hb => ⟨?_, ?_, ?_, ?_, fun c => ?_⟩, fun c hc => ?_, fun k hk => ⟨?_, fun j => ?_⟩,
    fun g hg m x => ?_, fun i hi => ?_, fun b hb hc => ⟨?_, ?_, ?_⟩, fun c hc hd hcfg => ⟨?_, ?_⟩⟩
  · exact answers (q := ⟨h, .malformed code⟩) rfl (by decide) (handleMalformed (s.addressed h)) rfl rfl
  · exact refuses (r := .mapRead i) rfl (handleMapRead i _) rfl (if_neg (Nat.not_lt.mpr hi))
  · exact refuses (r := .mapClear i) rfl (handleMapClear i _) rfl (if_pos hi)
  · exact refuses (r := .expressRead i) rfl (handleExpressRead i _) rfl (if_pos hi)
  · exact refuses (r := .stationCounters i f) rfl (handleStationCounters i f _) rfl (if_pos hi)
  · exact refuses (r := .pointRead p) rfl (handlePointRead p _) rfl (if_neg (Nat.not_lt.mpr hp))
  · exact refuses (r := .pointWrite p c) rfl (handlePointWrite p c _) rfl (acceptIf_false (pointOk_of_ge hp c) _ _)
  · exact refuses (r := .zoneRead z) rfl (handleZoneRead z _) rfl (if_neg (Nat.not_lt.mpr hz))
  · exact refuses (r := .zoneWrite z c) rfl (handleZoneWrite z c _) rfl (acceptIf_false (zoneOk_of_ge hz c) _ _)
  · exact refuses (r := .laneService l false) rfl (handleLaneService l false _) rfl (if_pos hl)
  · exact refuses (r := .laneService l true) rfl (handleLaneService l true _) rfl (if_pos hl)
  · exact refuses (r := .laneWrite l c) rfl (handleLaneWrite l c _) rfl (acceptIf_false (laneOk_of_ge hl c) _ _)
  · exact refuses (r := .blowerRead b) rfl (handleBlowerRead b _) rfl (if_neg (Nat.not_lt.mpr hb))
  · exact refuses (r := .blowerReset b) rfl (handleBlowerReset b _) rfl (if_pos hb)
  · exact refuses (r := .blowerLockout b true) rfl (handleBlowerLockout b true _) rfl (if_pos hb)
  · exact refuses (r := .blowerLockout b false) rfl (handleBlowerLockout b false _) rfl (if_pos hb)
  · exact refuses (r := .blowerWrite b c) rfl (handleBlowerWrite b c _) rfl (if_pos hb)
  · have away : 4 ≤ c ∨ (s.addressed h).dormant c = true := by
      refine hc.imp id fun ⟨upper, joined⟩ => ?_
      change (c % 2 == 1 && (s.pair (c / 2)).joined) = true
      rw [upper, joined]
      rfl
    exact ⟨refuses (r := .channelRead c) rfl (handleChannelRead c _) rfl (channel_refused away _),
      refuses (r := .channelStart c) rfl (handleChannelStart c _) rfl (channel_refused away _),
      refuses (r := .channelStop c) rfl (handleChannelStop c _) rfl (channel_refused away _),
      fun x => refuses (r := .channelWrite c x) rfl (handleChannelWrite c x _) rfl (channel_refused away _)⟩
  · exact refuses (r := .dutySwap k) rfl (handleDutySwap k _) rfl (if_pos hk)
  · exact refuses (r := .pairSet k j) rfl (handlePairSet k j _) rfl (if_pos hk)
  · exact refuses (r := .groupWrite g m x) rfl (handleGroupWrite g m x _) rfl (acceptIf_false (groupOk_of_ge hg m x) _ _)
  · exact refuses (r := .alarmList i) rfl (handleAlarmList i _) rfl (if_pos hi)
  · exact absent (r := .blowerLockout b true) rfl (handleBlowerLockout b true _) rfl (blower_noObject (s := s.addressed h) hb hc _)
  · exact absent (r := .blowerLockout b false) rfl (handleBlowerLockout b false _) rfl (blower_noObject (s := s.addressed h) hb hc _)
  · exact absent (r := .blowerReset b) rfl (handleBlowerReset b _) rfl (blower_noObject (s := s.addressed h) hb hc _)
  · exact absent (r := .channelStart c) rfl (handleChannelStart c _) rfl (channel_noObject (s := s.addressed h) hc hd hcfg _)
  · exact absent (r := .channelStop c) rfl (handleChannelStop c _) rfl (channel_noObject (s := s.addressed h) hc hd hcfg _)

end Sys2Proof.Machine
end

section
/-! The timers of the blowers, the allocation, a channel's pause and a record's escalation (R78, R82, R94, R118, R163). -/

namespace Sys2Proof.Machine

open Sys2Proof

variable {s : State} {b c d : Nat}

/-! ### Timers that are due -/

/-- An event that acts. -/
theorem onlyIf_acts {holds : Bool} (hh : holds = true) (s effect : State) : s.onlyIf holds effect = .next effect.finish :=
  congrArg Host.Outcome.next (if_pos hh)

theorem due_of_deadline {deadline : Option Nat} (hd : deadline = some d) (h : d ≤ s.uptime) : s.due deadline = true := by
  rw [hd]
  exact decide_eq_true h

theorem lasted_of_begun {time : Option Nat} {r : Nat} (hr : time = some r) (h : r + d ≤ s.uptime) : s.lasted time d = true := by
  rw [hr]
  exact decide_eq_true h

/-- The pause limit is told with the level (R118). -/
theorem pauseExpiry_eq (s : State) (c : Nat) : s.pauseExpiry c = (s.modChannel c fun x => { x with pauseDeadline := none }).raiseAlarm
    .channelPausedLong (.channel c) ((s.channel c).cfg.levelPoint.map fun p => (s.point p).value) := by
  unfold State.pauseExpiry
  dsimp only
  rw [channelCfg_modChannel (f := fun x => { x with pauseDeadline := none }) fun _ => rfl]
  rfl

/-! ### Escalation (R163) -/

theorem finish_alarms (s : State) : s.finish.alarms = { s.lineArbiter.alarms with lines := s.lineArbiter.linesNow } := by
  unfold State.finish
  rw [transmit_eq]
  rfl

theorem recordEscalated_of_find {r : AlarmRecord} (hf : s.alarms.records.find? (fun x => x.code = r.code ∧ x.source = r.source) = some r)
    (he : s.escalated r = true) : s.recordEscalated r.code r.source = true := by
  have key : (fun x : AlarmRecord => x.is r.code r.source) = fun x => decide (x.code = r.code ∧ x.source = r.source) :=
    funext fun x => Bool.eq_iff_iff.mpr ((is_iff x _ _).trans decide_eq_true_iff.symm)
  have found : s.record r.code r.source = some r := by
    unfold State.record
    rw [key]
    exact hf
  unfold State.recordEscalated
  rw [found]
  exact he

/-- R161, R163: an escalated record that the arbiter does not clear holds CALLOUT after start-up. -/
theorem finish_callout {r : AlarmRecord} (hr : r ∈ s.alarms.records) (he : s.escalated r = true) (hc : r.code ≠ .roundOverrun)
    (hs : s.pool.settled = true) (hl : (linesOf s.alarms.lineMap r.cls).callout = true) : s.finish.alarms.lines.callout = true := by
  let u := s.lineArbiter
  obtain ⟨-, lineMap, -, escalation⟩ := lineArbiter_alarmSettings s
  have arbitrated := Settled.lineArbiter s
  have settled : u.pool.settled = true := (congrArg Pool.settled arbitrated.pool).trans hs
  have escalated : u.escalated r = true := by
    unfold State.escalated State.lasted
    rw [escalation, arbitrated.uptime]
    exact he
  have held : (u.alarms.records.any fun x => u.escalated x && (linesOf u.alarms.lineMap x.cls).callout) = true := by
    refine List.any_eq_true.mpr ⟨r, (mem_lineArbiter_of_code hc).mpr hr, ?_⟩
    rw [escalated, lineMap, hl]
    rfl
  rw [finish_alarms]
  change u.linesNow.callout = true
  unfold State.linesNow
  rw [settled]
  exact held

/-! ### The statement -/

/-- Settles O59: each event acts, its timer being due. -/
theorem otherTimersAct : Obligations.OtherTimersAct := by
  intro s
  refine ⟨fun b r hc hx hr ht hf hrun => ?_, fun b d hx hd ht => ?_, fun b d hx hd ht => ?_, fun d hd ht => ?_,
    fun c d hx hd ht => ?_, fun r d hf hx hd ht => ?_⟩
  · have lasts : s.lasted (s.blower b).runStart (s.blower b).cfg.rampTime = true := lasted_of_begun hr ht
    have acts : ((s.blower b).state == .starting && s.ramped b) = true := Bool.and_eq_true_iff.mpr ⟨beq_iff_eq.mpr hx, lasts⟩
    have runs : s.judgeBlower b = (s.enterBlower b .running).header := by
      rw [judgeBlower_starting hc hx, hf, lasts, hrun]
      rfl
    rw [← runs]
    exact onlyIf_acts acts s _
  · have fails : s.startFails b = _ := congrArg State.header (driveBlower_enterBlower s b .tripped (some .startFail) (.stop 0))
    rw [← fails]
    exact onlyIf_acts (Bool.and_eq_true_iff.mpr ⟨beq_iff_eq.mpr hx, due_of_deadline hd ht⟩) s _
  · exact onlyIf_acts (Bool.and_eq_true_iff.mpr ⟨beq_iff_eq.mpr hx, due_of_deadline hd ht⟩) s (s.runDownEnds b)
  · exact onlyIf_acts (due_of_deadline hd ht) s s.allocationExpiry
  · rw [← pauseExpiry_eq]
    exact onlyIf_acts (Bool.and_eq_true_iff.mpr ⟨beq_iff_eq.mpr hx, due_of_deadline hd ht⟩) s _
  · have escalated : s.escalated r = true := Bool.and_eq_true_iff.mpr ⟨beq_iff_eq.mpr hx, lasted_of_begun hd ht⟩
    exact ⟨_, onlyIf_acts (recordEscalated_of_find hf escalated) s s, rfl, fun hc hs hl =>
      finish_callout (List.mem_of_find?_eq_some hf) escalated hc hs hl⟩

end Sys2Proof.Machine
end

section
/-! SUPPORT. The two laws of the grants (R94, R102) over the events of the zones: what a zone's record may do without breaking them,
and the mode changes and judgements that are made of such changes. A rewrite lets the zone it rewrites wait above its new floor until
R68 step 5 lowers the grant, so the laws are also said with some zones left free of the floor. -/

namespace Sys2Proof.Machine

open Sys2Proof

variable {P : State → Prop} {s t : State} {x y : Zone} {z : Nat} {free : Set Nat}

/-! ### A zone that eases -/

/-- A change of a zone's record that no law of the grants minds: the grant does not grow, and a zone that comes to rest, or waits with a
lower floor, holds none. -/
structure Zone.Eases (x y : Zone) : Prop where
  grant : y.grant ≤ x.grant
  off : y.mode = .off → y.grant = 0 ∨ x.mode = .off
  waiting : y.mode = .waiting → y.grant = 0 ∨ x.mode = .waiting ∧ x.cfg.mixingFloor ≤ y.cfg.mixingFloor

theorem Zone.Eases.of_same (grant : y.grant = x.grant) (mode : y.mode = x.mode) (cfg : y.cfg = x.cfg) : x.Eases y where
  grant := grant.le
  off h := .inr (mode.symm.trans h)
  waiting h := .inr ⟨mode.symm.trans h, cfg ▸ le_rfl⟩

theorem Zone.Eases.of_zero (zero : y.grant = 0) : x.Eases y :=
  ⟨zero.trans_le (Nat.zero_le _), fun _ => .inl zero, fun _ => .inl zero⟩

theorem Zone.Eases.of_grant (grant : y.grant = x.grant) (rest : y.mode = .off ∨ y.mode = .waiting → x.grant = 0) : x.Eases y where
  grant := grant.le
  off h := .inl (grant.trans (rest (.inl h)))
  waiting h := .inl (grant.trans (rest (.inr h)))

theorem grantSum_le (h : ∀ z < 24, (t.zone z).grant ≤ (s.zone z).grant) : t.grantSum ≤ s.grantSum :=
  List.sum_le_sum fun z hz => h z (List.mem_range.mp hz)

/-! ### The laws with some zones free of their floors -/

/-- The two laws of the grants, where the zones of `free` may wait with more than their floors. -/
structure State.GrantsHoldBut (free : Set Nat) (s : State) : Prop where
  within : s.grantSum ≤ s.pool.supply
  off : ∀ z < 24, (s.zone z).mode = .off → (s.zone z).grant = 0
  waiting : ∀ z < 24, z ∉ free → (s.zone z).mode = .waiting → (s.zone z).grant ≤ (s.zone z).cfg.mixingFloor
  unsettled : s.pool.settled = false → s.grantSum = 0 ∧ s.pool.allocDeadline = none

theorem grantsHold_iff : s.GrantsHold ↔ s.GrantsHoldBut ∅ where
  mp h := ⟨h.within, h.off, fun z hz _ => h.waiting z hz, h.unsettled⟩
  mpr h := ⟨h.within, h.off, fun z hz => h.waiting z hz (Set.notMem_empty z), h.unsettled⟩

theorem State.GrantsHold.but (h : s.GrantsHold) (free : Set Nat) : s.GrantsHoldBut free :=
  ⟨h.within, h.off, fun z hz _ => h.waiting z hz, h.unsettled⟩

/-- What the laws read of the pool. -/
structure Pool.Shares (p q : Pool) : Prop where
  supply : q.supply = p.supply
  settled : q.settled = p.settled
  allocDeadline : q.allocDeadline = p.allocDeadline

/-- The laws go over to a state that has the same supply and in which every zone eases, the zones of `free` but for their floors. -/
theorem State.GrantsHoldBut.eases (h : s.GrantsHoldBut free) (pool : s.pool.Shares t.pool)
    (grant : ∀ y, (t.zone y).grant ≤ (s.zone y).grant)
    (off : ∀ y, (t.zone y).mode = .off → (t.zone y).grant = 0 ∨ (s.zone y).mode = .off)
    (waiting : ∀ y, y ∉ free → (t.zone y).mode = .waiting →
      (t.zone y).grant = 0 ∨ (s.zone y).mode = .waiting ∧ (s.zone y).cfg.mixingFloor ≤ (t.zone y).cfg.mixingFloor) :
    t.GrantsHoldBut free where
  within := (grantSum_le fun y _ => grant y).trans (h.within.trans_eq pool.supply.symm)
  off y hy rests := (off y rests).elim id fun was => Nat.le_zero.mp ((grant y).trans_eq (h.off y hy was))
  waiting y hy held waits := (waiting y held waits).elim (fun zero => zero.trans_le (Nat.zero_le _))
    fun was => (grant y).trans ((h.waiting y hy held was.1).trans was.2)
  unsettled new := by
    obtain ⟨none, due⟩ := h.unsettled (pool.settled.symm.trans new)
    exact ⟨Nat.le_zero.mp ((grantSum_le fun y _ => grant y).trans_eq none), pool.allocDeadline.trans due⟩

/-! ### What the events of the zones are made of -/

/-- Kept by whatever leaves the zones and the pool alone, and by any change that eases one zone. -/
structure GrantChanges (P : State → Prop) : Prop where
  shares : ∀ {s t : State}, P s → t.zones = s.zones → s.pool.Shares t.pool → P t
  zone : ∀ {s : State} (z : Nat) (f : Zone → Zone), (s.zone z).Eases (f (s.zone z)) → P s → P (s.modZone z f)

theorem zone_of_length_le (beyond : s.zones.length ≤ z) : s.zone z = Zone.start 0 false .blank := getD_of_length_le beyond _

/-- What holds between the old and the new record of the changed zone, and of any unchanged one, holds of every zone. -/
theorem zones_modZone {r : Zone → Zone → Prop} {f : Zone → Zone} (refl : ∀ x, r x x) (hf : r (s.zone z) (f (s.zone z))) (y : Nat) :
    r (s.zone y) ((s.modZone z f).zone y) := by
  rw [State.zone_modZone]
  split_ifs with same
  · rw [← same.1]
    exact hf
  · exact refl _

theorem grantsHoldBut_changes (free : Set Nat) : GrantChanges (State.GrantsHoldBut free) where
  shares {s t} h zones pool := h.eases pool (fun y => by rw [zone_congr zones]) (fun y => by rw [zone_congr zones]; exact .inr)
    (fun y _ => by rw [zone_congr zones]; exact fun waits => .inr ⟨waits, le_rfl⟩)
  zone z f hf h :=
    have eases := zones_modZone (r := Zone.Eases) (fun _ => .of_same rfl rfl rfl) hf
    h.eases ⟨rfl, rfl, rfl⟩ (fun y => (eases y).grant) (fun y => (eases y).off) (fun y _ => (eases y).waiting)

theorem grantsHold_changes : GrantChanges State.GrantsHold where
  shares h zones pool := grantsHold_iff.mpr ((grantsHoldBut_changes ∅).shares (grantsHold_iff.mp h) zones pool)
  zone z f hf h := grantsHold_iff.mpr ((grantsHoldBut_changes ∅).zone z f hf (grantsHold_iff.mp h))

section
variable (hP : GrantChanges P)
include hP

theorem GrantChanges.beside (h : P s) (zones : t.zones = s.zones) (pool : t.pool = s.pool) : P t :=
  hP.shares h zones (pool ▸ ⟨rfl, rfl, rfl⟩)

theorem GrantChanges.onlyAlarms (h : P s) (only : AlarmsOnly s t) : P t :=
  hP.beside h (by rw [only.2]) (by rw [only.2])

theorem GrantChanges.notice (h : P s) (n : Notice) : P (s.offerNotice n) :=
  hP.onlyAlarms h ((AlarmsOnly.refl s).offerNotice n)

theorem GrantChanges.raise (h : P s) (code : AlarmCode) (src : Source) (v : Option Nat) : P (s.raiseAlarm code src v) :=
  hP.onlyAlarms h (raiseAlarm_only s code src v)

theorem GrantChanges.clear (h : P s) (code : AlarmCode) (src : Source) : P (s.clearAlarm code src) :=
  hP.onlyAlarms h (clearAlarm_only s code src)

theorem GrantChanges.express (h : P s) (e : ExpressEntry) : P (s.offerExpress e) := by
  rw [offerExpress_eq]
  exact hP.beside h rfl rfl

/-- Of the changed zone neither grant nor mode nor configuration moves. -/
theorem GrantChanges.zoneBeside (h : P s) (z : Nat) (f : Zone → Zone)
    (same : (f (s.zone z)).grant = (s.zone z).grant ∧ (f (s.zone z)).mode = (s.zone z).mode ∧ (f (s.zone z)).cfg = (s.zone z).cfg) :
    P (s.modZone z f) :=
  hP.zone z f (.of_same same.1 same.2.1 same.2.2) h

/-! ### Judgements and mode changes -/

theorem GrantChanges.setMode (h : P s) (z : Nat) (m : ZoneMode) (c : Causes) (rest : m = .off ∨ m = .waiting → (s.zone z).grant = 0) :
    P (s.setMode z m c) :=
  ite_keeps (hP.zoneBeside h z _ ⟨rfl, rfl, rfl⟩) (hP.notice (hP.zone z _ (.of_grant rfl rest) h) _)

theorem GrantChanges.causeAlarms (h : P s) (z : Nat) (old new : Causes) (entry : Bool) : P (s.causeAlarms z old new entry) :=
  hP.onlyAlarms h (causeAlarms_only s z old new entry)

theorem GrantChanges.endAir (h : P s) (z : Nat) : P (s.endAir z) := hP.clear (hP.zoneBeside h z _ ⟨rfl, rfl, rfl⟩) _ _

theorem GrantChanges.endDoLow (h : P s) (z : Nat) : P (s.endDoLow z) := hP.clear (hP.zoneBeside h z _ ⟨rfl, rfl, rfl⟩) _ _

theorem GrantChanges.judgeAir (h : P s) (z : Nat) : P (s.judgeAir z) := by
  have judged (f : Zone → Spell) : P (s.modZone z fun x => { x with air := f x }) := hP.zoneBeside h z _ ⟨rfl, rfl, rfl⟩
  exact ite_keeps h (ite_keeps (ite_keeps (judged _) (ite_keeps (hP.raise (judged _) _ _ _) h)) (hP.endAir h z))

theorem GrantChanges.judgeDoLow (h : P s) (z : Nat) : P (s.judgeDoLow z) := by
  have judged (f : Zone → Spell) : P (s.modZone z fun x => { x with doLow := f x }) := hP.zoneBeside h z _ ⟨rfl, rfl, rfl⟩
  exact ite_keeps h (ite_keeps (ite_keeps (judged _) (ite_keeps (hP.raise (judged _) _ _ _) h)) (hP.endDoLow h z))

theorem GrantChanges.judgeSetpoint (h : P s) (z : Nat) : P (s.judgeSetpoint z) := hP.judgeDoLow (hP.judgeAir h z) z

theorem GrantChanges.startTrim (h : P s) (z : Nat) : P (s.startTrim z) := hP.zoneBeside h z _ ⟨rfl, rfl, rfl⟩

theorem GrantChanges.doJoined (h : P s) (z : Nat) (old new : Causes) : P (s.doJoined z old new) := ite_keeps (hP.endDoLow h z) h

theorem GrantChanges.offerFallback (h : P s) (z : Nat) : P (s.offerFallback z) := hP.express h _

theorem GrantChanges.enterAuto (h : P s) (z desired : Nat) : P (s.enterAuto z desired) := by
  have placed : P (s.modZone z fun x => { x with desired := desired }) := hP.zoneBeside h z _ ⟨rfl, rfl, rfl⟩
  have entered := hP.causeAlarms (hP.setMode (hP.startTrim placed z) z .auto .none nofun) z (s.zone z).causes .none false
  exact ite_keeps entered (hP.judgeAir entered z)

theorem GrantChanges.enterFallback (h : P s) (z : Nat) (c : Causes) (held : Nat) : P (s.enterFallback z c held) := by
  unfold State.enterFallback
  extract_lets x early d placed timed moded aired joined told
  have hplaced : P placed := hP.zoneBeside h z _ ⟨rfl, rfl, rfl⟩
  have htimed : P timed := ite_keeps (hP.startTrim hplaced z) hplaced
  have hmoded : P moded := hP.setMode htimed z .fallback c nofun
  have haired : P aired := ite_keeps (hP.endAir hmoded z) hmoded
  have hjoined : P joined := ite_keeps haired (hP.doJoined haired z _ _)
  have htold : P told := hP.causeAlarms hjoined z _ _ _
  exact ite_keeps (hP.offerFallback htold z) htold

/-- The grant goes before the mode does. -/
theorem GrantChanges.enterOff (h : P s) (z : Nat) : P (s.enterOff z) := by
  refine ite_keeps h ?_
  have emptied : P (s.modZone z fun x => { x with desired := 0, cap := 0, grant := 0, trimDeadline := none }) :=
    hP.zone z _ (.of_zero rfl) h
  have zero : ((s.modZone z fun x => { x with desired := 0, cap := 0, grant := 0, trimDeadline := none }).zone z).grant = 0 := by
    rcases lt_or_ge z s.zones.length with within | beyond
    · rw [State.zone_modZone_same within]
    · rw [State.zone_modZone, if_neg fun k => absurd k.2 beyond.not_gt]
      exact congrArg Zone.grant (zone_of_length_le beyond)
  exact hP.endAir (hP.endDoLow (hP.causeAlarms (hP.setMode emptied z .off .none fun _ => zero) z _ _ _) z) z

theorem GrantChanges.leaveOff (h : P s) (z : Nat) : P (s.leaveOff z) := ite_keeps (hP.enterAuto h z _) (hP.enterFallback h z _ _)

theorem GrantChanges.leaveWaiting (h : P s) (z : Nat) : P (s.leaveWaiting z) :=
  ite_keeps (hP.enterAuto h z _) (hP.enterFallback h z _ _)

theorem GrantChanges.changeCauses (h : P s) (z : Nat) (c : Causes) : P (s.changeCauses z c) := by
  unfold State.changeCauses
  extract_lets x held joins d moded told
  have hmoded : P moded := hP.setMode (hP.zoneBeside h z _ ⟨rfl, rfl, rfl⟩) z .fallback c nofun
  have htold : P told := hP.causeAlarms (hP.doJoined hmoded z _ _) z _ _ _
  exact ite_keeps (hP.offerFallback htold z) htold

theorem GrantChanges.rejudgeZone (h : P s) (z : Nat) : P (s.rejudgeZone z) := by
  unfold State.rejudgeZone
  extract_lets x c
  split
  · exact h
  · exact ite_keeps (hP.enterAuto h z _) h
  · exact ite_keeps h (hP.enterFallback h z _ _)
  · exact ite_keeps h (ite_keeps (hP.enterAuto h z _) (hP.changeCauses h z _))
  · exact ite_keeps h (hP.causeAlarms (hP.doJoined (hP.setMode h z .hand c nofun) z _ _) z _ _ _)

theorem GrantChanges.rejudgeZones (h : P s) : P s.rejudgeZones := each_keeps 24 (fun z _ hu => hP.rejudgeZone hu z) h

/-! ### Hand and the trim timer -/

theorem GrantChanges.enterHand (h : P s) (z : Nat) : P (s.enterHand z) := by
  unfold State.enterHand
  extract_lets x waiting c placed timed moded aired
  have hplaced : P placed := hP.zoneBeside h z _ ⟨rfl, rfl, rfl⟩
  have htimed : P timed := ite_keeps (hP.startTrim hplaced z) hplaced
  have hmoded : P moded := hP.setMode htimed z .hand c nofun
  have haired : P aired := ite_keeps (hP.endAir hmoded z) hmoded
  exact ite_keeps (hP.causeAlarms haired z _ _ _) haired

theorem GrantChanges.leaveHand (h : P s) (z position : Nat) : P (s.leaveHand z position) :=
  ite_keeps (hP.enterAuto h z _) (hP.enterFallback h z _ _)

theorem GrantChanges.trimStep (h : P s) (z : Nat) : P (s.trimStep z) := by
  refine ite_keeps (hP.zoneBeside h z _ ⟨rfl, rfl, rfl⟩) ?_
  exact hP.zoneBeside (hP.beside (t := s.modPoint (s.zone z).cfg.doPoint fun p => { p with fresh := false }) h rfl rfl) z _
    ⟨rfl, rfl, rfl⟩

theorem GrantChanges.trimExpiry (h : P s) (z : Nat) : P (s.trimExpiry z) := by
  unfold State.trimExpiry
  have timed := hP.startTrim h z
  dsimp only
  split
  · exact hP.judgeDoLow (hP.judgeAir (hP.trimStep timed z) z) z
  · exact hP.judgeDoLow timed z
  · exact hP.judgeDoLow timed z
  · exact timed
  · exact timed

/-! ### A rewrite (R68) -/

theorem GrantChanges.rewriteTrimming (h : P s) (z : Nat) (old : Zone) : P (s.rewriteTrimming z old) := by
  have placed (d : Nat) : P (s.modZone z fun x => { x with desired := d }) := hP.zoneBeside h z _ ⟨rfl, rfl, rfl⟩
  have told (d : Nat) (c : Causes) (entry : Bool) :=
    hP.causeAlarms (hP.setMode (placed d) z .fallback c nofun) z old.causes c entry
  exact ite_keeps (ite_keeps (placed _) (hP.enterAuto h z _)) (ite_keeps (hP.offerFallback (told _ _ _) z) (told _ _ _))

end

/-- A zone free of its floor may take any configuration, and may wait. -/
theorem State.GrantsHoldBut.modFree (h : s.GrantsHoldBut free) (hz : z ∈ free) {f : Zone → Zone}
    (grant : (f (s.zone z)).grant = (s.zone z).grant) (off : (f (s.zone z)).mode = .off → (s.zone z).mode = .off) :
    (s.modZone z f).GrantsHoldBut free := by
  refine h.eases ⟨rfl, rfl, rfl⟩ (zones_modZone (r := fun x y => y.grant ≤ x.grant) (fun _ => le_rfl) grant.le)
    (zones_modZone (r := fun x y => y.mode = .off → y.grant = 0 ∨ x.mode = .off) (fun _ => .inr) fun rests => .inr (off rests))
    fun y held waits => .inr ?_
  have other : y ≠ z := fun same => held (same ▸ hz)
  rw [State.zone_modZone_ne other] at waits ⊢
  exact ⟨waits, le_rfl⟩

theorem State.GrantsHoldBut.rewriteWaiting (h : s.GrantsHoldBut free) (hz : z ∈ free) (old : Zone) :
    (s.rewriteWaiting z old).GrantsHoldBut free := by
  have hP := grantsHoldBut_changes free
  have placed : (s.modZone z fun x => { x with desired := 0, trimDeadline := none }).GrantsHoldBut free :=
    hP.zoneBeside h z _ ⟨rfl, rfl, rfl⟩
  have waits {u : State} (h : u.GrantsHoldBut free) : (u.setMode z .waiting .none).GrantsHoldBut free := by
    have moved : (u.modZone z fun x => { x with mode := .waiting, causes := .none, lastModeChange := u.uptime }).GrantsHoldBut free :=
      h.modFree hz rfl nofun
    exact ite_keeps (hP.zoneBeside h z _ ⟨rfl, rfl, rfl⟩) (hP.notice moved _)
  exact ite_keeps (hP.enterAuto h z _) (ite_keeps (hP.leaveWaiting h z) (ite_keeps (hP.causeAlarms (waits placed) z _ _ _) placed))

theorem State.GrantsHoldBut.floored (h : s.GrantsHoldBut {z})
    (floor : (s.zone z).mode = .waiting → (s.zone z).grant ≤ (s.zone z).cfg.mixingFloor) : s.GrantsHold where
  within := h.within
  off := h.off
  waiting y hy := (eq_or_ne y z).elim (fun same => same ▸ floor) fun other => h.waiting y hy other
  unsettled := h.unsettled

/-- R68 step 5 brings the zone back under its floor. -/
theorem State.GrantsHoldBut.lowerWaitingGrant (h : s.GrantsHoldBut {z}) : (s.lowerWaitingGrant z).GrantsHold := by
  unfold State.lowerWaitingGrant
  extract_lets x
  split_ifs with above
  · obtain ⟨waits, more⟩ := above
    refine State.GrantsHoldBut.floored (z := z) (h.eases ⟨rfl, rfl, rfl⟩
      (zones_modZone (r := fun x y => y.grant ≤ x.grant) (fun _ => le_rfl) more.le)
      (zones_modZone (r := fun x y => y.mode = .off → y.grant = 0 ∨ x.mode = .off) (fun _ => .inr) .inr)
      fun y held waits => .inr ?_) fun _ => ?_
    · rw [State.zone_modZone_ne held] at waits ⊢
      exact ⟨waits, le_rfl⟩
    · rcases lt_or_ge z s.zones.length with within | beyond
      · rw [State.zone_modZone_same within]
      · have rests : x.mode = .off := congrArg Zone.mode (zone_of_length_le beyond)
        rw [rests] at waits
        cases waits
  · exact h.floored fun waits => Nat.le_of_not_lt fun more => above ⟨waits, more⟩

theorem State.GrantsHold.rewriteZone (h : s.GrantsHold) (z : Nat) (cfg : ZoneCfg) : (s.rewriteZone z cfg).GrantsHold := by
  have hP := grantsHoldBut_changes {z}
  unfold State.rewriteZone
  extract_lets s0 old mode written calmed derived timed lowered
  have hdropped : (s.dropPassage ⟨.zone, z⟩).GrantsHoldBut {z} := hP.beside (h.but {z}) rfl rfl
  have hwritten : written.GrantsHoldBut {z} := hdropped.modFree rfl rfl id
  have hcalmed : calmed.GrantsHoldBut {z} := hP.endAir (hP.endDoLow hwritten z) z
  have hderived : derived.GrantsHoldBut {z} := by
    clear_value mode
    refine ite_keeps (hP.enterOff hcalmed z) ?_
    cases mode
    case waiting => exact hcalmed.rewriteWaiting rfl old
    case off => exact hP.leaveOff hcalmed z
    all_goals exact hP.rewriteTrimming hcalmed z old
  have htimed : timed.GrantsHoldBut {z} := ite_keeps (hP.startTrim hderived z) hderived
  have hlowered : lowered.GrantsHold := htimed.lowerWaitingGrant
  exact ite_keeps (ite_keeps hlowered (grantsHold_changes.judgeAir hlowered z)) (grantsHold_changes.judgeSetpoint hlowered z)

end Sys2Proof.Machine
end

section
/-! SUPPORT. The two laws of the grants over the events of the lanes, the channels, the Storm Monitor, the hand passages and the
blowers, as far as no allocation pass follows: none of them moves a grant, but where a zone goes to OFF. -/

namespace Sys2Proof.Machine

open Sys2Proof

variable {P : State → Prop} {s : State} (hP : GrantChanges P)
include hP

/-! ### The blowers and the pool -/

theorem GrantChanges.setAlarm (h : P s) (code : AlarmCode) (src : Source) (holds : Bool) (v : Option Nat) :
    P (s.setAlarm code src holds v) :=
  hP.onlyAlarms h (setAlarm_only s code src holds v)

theorem GrantChanges.tripAlarms (h : P s) (b : Nat) (cause : Option TripCause) : P (s.tripAlarms b cause) :=
  hP.onlyAlarms h (tripAlarms_only s b cause)

theorem GrantChanges.enterBlower (h : P s) (b : Nat) (st : BlowerState) (cause : Option TripCause) :
    P (s.enterBlower b st cause) :=
  hP.onlyAlarms (hP.shares (t := s.enteredBlower b st cause) h rfl ⟨rfl, rfl, rfl⟩) (enterBlower_only s b st cause)

theorem GrantChanges.driveBlower (h : P s) (b : Nat) (d : Drive) : P (s.driveBlower b d) := hP.express h _

theorem GrantChanges.stopBlower (h : P s) (b : Nat) : P (s.stopBlower b) := hP.driveBlower (hP.enterBlower h b .stopping none) b _

/-- Of the pool only what the laws of the grants do not read changes. -/
theorem GrantChanges.modPool (h : P s) (f : Pool → Pool) (shares : s.pool.Shares (f s.pool)) : P (s.modPool f) :=
  hP.shares h rfl shares

theorem GrantChanges.askStart (h : P s) : P s.askStart := by
  unfold State.askStart
  split
  · exact h
  · exact hP.modPool (hP.driveBlower (hP.enterBlower h _ .starting none) _ _) _ ⟨rfl, rfl, rfl⟩

theorem GrantChanges.judgeMinimum (h : P s) : P s.judgeMinimum := ite_keeps (hP.askStart h) h

theorem GrantChanges.stageUp (h : P s) (demand : Nat) : P (s.stageUp demand) := by
  have since (x : Option Nat) : P (s.modPool fun p => { p with stageUpSince := x }) := hP.modPool h _ ⟨rfl, rfl, rfl⟩
  exact ite_keeps (since none) (ite_keeps (since _) (ite_keeps (hP.askStart h) h))

theorem GrantChanges.stageDown (h : P s) (demand : Nat) : P (s.stageDown demand) := by
  have since {u : State} (h : P u) (x : Option Nat) : P (u.modPool fun p => { p with stageDownSince := x }) :=
    hP.modPool h _ ⟨rfl, rfl, rfl⟩
  unfold State.stageDown
  split
  · exact since h none
  · exact ite_keeps (since h none) (ite_keeps (since h _) (ite_keeps (since (hP.stopBlower h _) none) h))

theorem GrantChanges.setSpeeds (h : P s) (grants : Nat) : P (s.setSpeeds grants) := by
  obtain ⟨only, -⟩ := foldl_setSpeed_frame grants (List.range 6) s
  have same : s.OnlyBlowers (s.setSpeeds grants) := only
  exact hP.beside h (by rw [same]) (by rw [same])

theorem GrantChanges.judgePressure (h : P s) : P s.judgePressure := by
  unfold State.judgePressure
  split
  · exact h
  · have judged (high low : Bool) : P (s.modPool fun q => { q with pressureHigh := high, pressureLow := low }) :=
      hP.modPool h _ ⟨rfl, rfl, rfl⟩
    exact hP.onlyAlarms (hP.onlyAlarms (judged _ _) (edge_only _ _ _ _ _)) (edge_only _ _ _ _ _)

theorem GrantChanges.dropPressure (h : P s) : P s.dropPressure :=
  hP.clear (hP.clear (hP.modPool h _ ⟨rfl, rfl, rfl⟩) _ _) _ _

theorem GrantChanges.rewritePool (h : P s) (c : PoolCfg) : P (s.rewritePool c) := by
  have written : P (s.modPool fun p => { p with cfg := c }) := hP.modPool h _ ⟨rfl, rfl, rfl⟩
  exact hP.judgeMinimum (ite_keeps written (ite_keeps (ite_keeps written (hP.dropPressure written)) (hP.judgePressure written)))

theorem GrantChanges.firstPass (h : P s) : P s.firstPass :=
  ite_keeps h (hP.rejudgeZones (hP.modPool h _ ⟨rfl, rfl, rfl⟩))

/-! ### The lanes -/

theorem GrantChanges.judgeLane (h : P s) (before : State) (l : Nat) : P (State.judgeLane before l s) := by
  unfold State.judgeLane
  extract_lets was valid band judged is told
  have hjudged : P judged := hP.beside h rfl rfl
  have htold : P told := ite_keeps (hP.raise hjudged _ _ _) (ite_keeps (hP.clear hjudged _ _) hjudged)
  exact each_keeps 4 (fun i u hu => ite_keeps hu (hP.judgeSetpoint hu _)) htold

theorem GrantChanges.judgeLanes (h : P s) : P s.judgeLanes := each_keeps 6 (fun l _ hu => hP.judgeLane hu _ l) h

theorem GrantChanges.moveBand (h : P s) (l v : Nat) : P (s.moveBand l v) := hP.beside h rfl rfl

theorem GrantChanges.lanesPoint (h : P s) (p : Nat) (accepted : Bool) : P (s.lanesPoint p accepted) :=
  each_keeps 6 (fun l _ hu => ite_keeps (hP.judgeLane (ite_keeps (hP.moveBand hu l _) hu) _ l) hu) h

theorem GrantChanges.rewriteLane (h : P s) (l : Nat) (c : LaneCfg) : P (s.rewriteLane l c) := by
  have written : P (s.modLane l fun x => { x with cfg := c }) := hP.beside h rfl rfl
  unfold State.rewriteLane
  dsimp only
  split
  · exact hP.judgeLane written s l
  · exact hP.judgeLane (ite_keeps (hP.moveBand written l _) written) s l

theorem GrantChanges.laneOff (h : P s) (l : Nat) : P (s.laneOff l) := by
  have marked : P (s.modLane l fun x => { x with inService := false }) := hP.beside h rfl rfl
  refine hP.judgeLane (each_keeps 4 (fun i u hu => ?_) marked) s l
  have dropped : P (u.dropPassage ⟨.zone, l * 4 + i⟩) := hP.beside hu rfl rfl
  have off := hP.enterOff dropped (l * 4 + i)
  exact ite_keeps (hP.express off _) off

theorem GrantChanges.laneOn (h : P s) (l : Nat) : P (s.laneOn l) := by
  have marked : P (s.modLane l fun x => { x with inService := true }) := hP.beside h rfl rfl
  exact hP.judgeLane (each_keeps 4 (fun i _ hu => ite_keeps (hP.leaveOff hu _) hu) marked) s l

theorem GrantChanges.graceExpiry (h : P s) (l : Nat) : P (s.graceExpiry l) := by
  have elapsed : P (s.modLane l fun x => { x with graceDeadline := none, graceExpired := true }) := hP.beside h rfl rfl
  exact each_keeps 4 (fun i _ hu => ite_keeps (hP.leaveWaiting hu _) hu) elapsed

/-! ### The channels -/

theorem GrantChanges.anyChannel : AnyChannel P where
  channel _ _ _ h := hP.beside h rfl rfl
  pair _ _ _ h := hP.beside h rfl rfl
  notice n h := hP.notice h n
  raise code src v h := hP.raise h code src v
  clear code src h := hP.clear h code src

theorem GrantChanges.syncCommands (h : P s) (before : State) : P (before.syncCommands s) := by
  obtain ⟨f, same⟩ := syncCommands_eq before s
  rw [same]
  exact hP.beside h rfl rfl

theorem GrantChanges.withCommands (h : P s) {f : State → State} (hf : ∀ u, P u → P (f u)) : P (s.withCommands f) :=
  hP.syncCommands (hf s h) s

theorem GrantChanges.modChannel (h : P s) (c : Nat) (f : Channel → Channel) : P (s.modChannel c f) := hP.beside h rfl rfl

theorem GrantChanges.judgeLevel (h : P s) (c v : Nat) : P (s.judgeLevel c v) :=
  ite_keeps (hP.anyChannel.enterChannel h c _) (ite_keeps (hP.anyChannel.enterChannel h c _) h)

theorem GrantChanges.channelPoint (h : P s) (c p : Nat) (accepted : Bool) : P (s.channelPoint c p accepted) := by
  unfold State.channelPoint
  extract_lets cfg metered gathered
  have hmetered : P metered :=
    ite_keeps h (ite_keeps (hP.anyChannel.meter h c _) (ite_keeps (hP.modChannel h c _) h))
  have hgathered : P gathered :=
    ite_keeps hmetered (ite_keeps (hP.modChannel hmetered c _) (ite_keeps (hP.modChannel hmetered c _) hmetered))
  exact ite_keeps (hP.judgeLevel hgathered c _) hgathered

theorem GrantChanges.channelsPoint (h : P s) (p : Nat) (accepted : Bool) : P (s.channelsPoint p accepted) :=
  hP.withCommands h fun _ hu => each_keeps 4 (fun c _ hu => ite_keeps hu (hP.channelPoint hu c p accepted)) hu

theorem GrantChanges.losePump (h : P s) (c : Nat) : P (s.losePump c) :=
  ite_keeps (hP.clear (hP.raise (hP.anyChannel.moveDuty h c) _ _ _) _ _) (hP.anyChannel.faultChannel h c)

theorem GrantChanges.recoverChannel (h : P s) (c : Nat) : P (s.recoverChannel c) :=
  hP.anyChannel.enterFlow (hP.clear (ite_keeps h (hP.anyChannel.moveDuty h c)) _ _) c

theorem GrantChanges.judgeChannel (h : P s) (c : Nat) : P (s.judgeChannel c) := by
  unfold State.judgeChannel
  split
  · exact h
  · split
    · exact ite_keeps h (hP.losePump h c)
    · exact ite_keeps h (hP.losePump h c)
    · exact ite_keeps (hP.recoverChannel h c) h
    · exact ite_keeps (hP.anyChannel.startChannel h c) h

theorem GrantChanges.judgeChannels (h : P s) : P s.judgeChannels :=
  hP.withCommands h fun _ hu => each_keeps 4 (fun c _ hu => hP.judgeChannel hu c) hu

theorem GrantChanges.pauseExpiry (h : P s) (c : Nat) : P (s.pauseExpiry c) := hP.raise (hP.modChannel h c _) _ _ _

/-! ### The Storm Monitor -/

theorem GrantChanges.modStorm (h : P s) (f : Storm → Storm) : P (s.modStorm f) := hP.beside h rfl rfl

theorem GrantChanges.enterStorm (h : P s) (st : StormState) : P (s.enterStorm st) := by
  unfold State.enterStorm
  extract_lets old was moved is noted
  have hnoted : P noted := hP.notice (hP.modStorm h _) _
  exact ite_keeps h (ite_keeps hnoted (hP.judgeMinimum (hP.judgeLanes (hP.setAlarm hnoted _ _ _ _))))

theorem GrantChanges.stormReading (h : P s) (v : Nat) : P (s.stormReading v) := by
  have read : P (s.modStorm fun m => { m with lastInfluent := some v }) := hP.modStorm h _
  refine ite_keeps read ?_
  split
  · exact ite_keeps (hP.enterStorm (hP.modStorm read _) _) read
  · exact ite_keeps (hP.enterStorm (hP.modStorm read _) _) read
  · exact ite_keeps (hP.enterStorm (hP.modStorm read _) _) read
  · exact ite_keeps (hP.enterStorm (hP.modStorm read _) _) read

theorem GrantChanges.entryExpires (h : P s) : P s.entryExpires := hP.enterStorm (hP.modStorm h _) _

theorem GrantChanges.exitExpires (h : P s) : P s.exitExpires := hP.enterStorm (hP.modStorm h _) _

theorem GrantChanges.holdExpires (h : P s) : P s.holdExpires := by
  have elapsed : P (s.modStorm fun m => { m with holdTimer := .stopped, holdExpired := true }) := hP.modStorm h _
  unfold State.holdExpires
  dsimp only
  split
  · exact elapsed
  · exact ite_keeps (hP.enterStorm (hP.modStorm elapsed _) _) elapsed

theorem GrantChanges.thaw (h : P s) : P s.thaw := by
  unfold State.thaw
  extract_lets cleared m resumed entered held
  have hresumed : P resumed := hP.modStorm (hP.clear h _ _) _
  have hentered : P entered := ite_keeps (hP.entryExpires hresumed) hresumed
  have hheld : P held := ite_keeps (hP.holdExpires hentered) hentered
  exact ite_keeps (hP.exitExpires hheld) hheld

theorem GrantChanges.judgeInfluent (h : P s) (accepted watched : Bool) : P (s.judgeInfluent accepted watched) := by
  have invalid : P ((s.modStorm fun m => { m with influentValid := false }).suspendTimers) := hP.modStorm (hP.modStorm h _) _
  unfold State.judgeInfluent
  split
  · exact hP.clear invalid _ _
  · have thawed : P (if s.storm.influentValid then s else s.thaw) := ite_keeps h (hP.thaw h)
    exact ite_keeps (ite_keeps (hP.stormReading thawed _) thawed) (ite_keeps (hP.raise invalid _ _ _) h)

theorem GrantChanges.stormPoint (h : P s) (p : Nat) (accepted : Bool) : P (s.stormPoint p accepted) :=
  ite_keeps (hP.judgeInfluent h accepted true) h

theorem GrantChanges.takeForce (h : P s) (f : Force) : P (s.takeForce f) := by
  have forced : P (s.modStorm fun m => { m with force := f }) := hP.modStorm h _
  have fresh : P (s.modStorm fun m => { m with force := f }).freshHold := ite_keeps (hP.modStorm forced _) forced
  unfold State.takeForce
  dsimp only
  split
  · exact hP.enterStorm (hP.modStorm forced _) _
  · exact hP.enterStorm (hP.modStorm forced _) _
  · refine ite_keeps ?_ (hP.modStorm fresh _)
    split
    · exact hP.stormReading fresh _
    · exact fresh

theorem GrantChanges.rewriteStorm (h : P s) (cfg : StormCfg) : P (s.rewriteStorm cfg) := by
  have written : P (s.modStorm fun m => { m with cfg := cfg }) := hP.modStorm h _
  exact ite_keeps written (hP.judgeInfluent (hP.modStorm written _) _ _)

/-! ### The hand passages -/

theorem GrantChanges.endPassage (h : P s) (t : HandTarget) (byLoss : Bool) : P (s.endPassage t byLoss) := by
  have ended : P (s.dropPassage t) := hP.beside h rfl rfl
  unfold State.endPassage
  split
  · exact h
  · dsimp only
    split
    · exact hP.leaveHand ended _ _
    · exact hP.syncCommands (ite_keeps ended (hP.express ended _)) s

theorem GrantChanges.endLostPassages (h : P s) : P s.endLostPassages := by
  unfold State.endLostPassages
  refine foldl_keeps (fun _ t hu => ?_) _ h
  exact ite_keeps (hP.endPassage hu t true) hu

theorem GrantChanges.holdTarget (h : P s) (t : HandTarget) (demand : Drive) (timeout : TimeoutCode) :
    P (s.holdTarget t demand timeout) := by
  have put : P (s.putPassage t demand timeout) := ite_keeps (hP.beside h rfl rfl) (hP.beside h rfl rfl)
  exact hP.syncCommands (hP.express (ite_keeps (hP.enterHand put _) put) _) s

theorem GrantChanges.rewriteChannel (h : P s) (i : Nat) (c : ChannelCfg) : P (s.rewriteChannel i c) := by
  obtain ⟨f, same⟩ := rewriteChannel_eq s i c
  rw [same]
  exact hP.beside h rfl rfl

theorem GrantChanges.joinHandStop (h : P s) (first partner : Nat) : P (s.joinHandStop first partner) := by
  obtain ⟨f, same⟩ := joinHandStop_eq s first partner
  rw [same]
  exact hP.beside h rfl rfl

theorem GrantChanges.joinPair (h : P s) (k : Nat) : P (s.joinPair k) := by
  refine hP.withCommands h fun u hu => ?_
  exact hP.joinHandStop (hP.modChannel (hP.beside (t := u.modPair k fun p => { p with joined := true }) hu rfl rfl) _ _) _ _

theorem GrantChanges.partPair (h : P s) (k : Nat) : P (s.partPair k) :=
  hP.withCommands h fun _ hu => hP.beside hu rfl rfl

end Sys2Proof.Machine
end

section
/-! SUPPORT. The two laws of the grants over an allocation pass and over what the Header Unit does after a change of a blower. A pass
sets every grant afresh, so the laws hold after it whatever stood before; it needs only that the pool has settled. A change of the
supply figure after that is therefore always followed by a pass, and one before it finds no grant to be shared. -/

namespace Sys2Proof.Machine

open Sys2Proof

variable {s t : State} {z : Nat}

/-! ### The pass -/

theorem sum_passGrants_le (s : State) : ((List.range 24).map fun z => s.passGrants.getD z 0).sum ≤ s.pool.supply := by
  have length : s.passGrants.length = 24 := (length_computeGrants ..).trans (by rw [claims_eq, List.length_map, List.length_range])
  rw [map_getD_range _ length 0]
  exact sum_computeGrants_le ..

theorem Zone.Judged.frame {x y : Zone} (h : x.Judged y) : y.grant = x.grant ∧ y.mode = x.mode ∧ y.cfg = x.cfg := by
  rw [h]
  exact ⟨rfl, rfl, rfl⟩

/-- R102: a zone after the pass. One beyond the bank reads as a zone that is OFF, which is granted nothing. -/
theorem allocate_grant (s : State) (hz : z < 24) : (s.allocate.zone z).grant = s.passGrants.getD z 0
    ∧ (s.allocate.zone z).mode = (s.zone z).mode ∧ (s.allocate.zone z).cfg = (s.zone z).cfg := by
  rcases lt_or_ge z s.zones.length with within | beyond
  · have judged := allocate_zone hz within
    generalize s.passGrants.getD z 0 = grant at judged ⊢
    exact judged.frame
  · have length : s.allocate.zones.length = s.zones.length :=
      (allocate_onlyZones s).length.trans (congrArg List.length (counting_frame s s.passFigures).1)
    have mode : (s.zone z).mode = .off := congrArg Zone.mode (zone_of_length_le beyond)
    have none : s.passGrants.getD z 0 = 0 := getD_computeGrants_of_off (getElem?_claims s hz) mode _ _
    rw [none, zone_of_length_le beyond, zone_of_length_le (length.trans_le beyond)]
    exact ⟨rfl, rfl, rfl⟩

theorem allocate_pool (s : State) : s.allocate.pool.supply = s.pool.supply ∧ s.allocate.pool.settled = s.pool.settled := by
  have pool := (allocate_onlyZones s).pool.trans (counting_pool s s.passFigures)
  rw [pool]
  exact ⟨rfl, rfl⟩

/-- R94, R102: after the pass of a settled pool the laws hold, whatever held before it. -/
theorem allocate_grantsHold (settled : s.pool.settled = true) : s.allocate.GrantsHold := by
  obtain ⟨supply, same⟩ := allocate_pool s
  refine ⟨?_, fun z hz rests => ?_, fun z hz waits => ?_, fun new => absurd (same.symm.trans new) (by rw [settled]; nofun)⟩
  · rw [supply]
    refine le_trans (List.sum_le_sum fun z hz => ?_) (sum_passGrants_le s)
    exact (allocate_grant s (List.mem_range.mp hz)).1.le
  · obtain ⟨grant, mode, -⟩ := allocate_grant s hz
    rw [grant]
    exact getD_computeGrants_of_off (getElem?_claims s hz) (mode.symm.trans rests) _ _
  · obtain ⟨grant, mode, cfg⟩ := allocate_grant s hz
    rw [grant, cfg]
    exact getD_computeGrants_of_waiting (getElem?_claims s hz) (mode.symm.trans waits) _ _

theorem runPass_grantsHold (settled : s.pool.settled = true) : s.runPass.GrantsHold := by
  have hP := grantsHold_changes
  rw [runPass_eq]
  exact hP.firstPass (hP.stageDown (hP.judgeMinimum (hP.stageUp (hP.setSpeeds (allocate_grantsHold settled) _) _)) _)

/-! ### The supply figure -/

/-- Whether the pool has settled is left as it is by whatever the laws of the grants do not read. -/
theorem settled_changes (b : Bool) : GrantChanges fun s => s.pool.settled = b where
  shares h _ pool := pool.settled.trans h
  zone _ _ _ h := h

theorem noteSupply_settled (s : State) : s.noteSupply.pool.settled = s.pool.settled := by
  rw [noteSupply_eq]
  exact ite_keeps (P := fun t => t.pool.settled = s.pool.settled) rfl ((settled_changes _).judgePressure rfl)

/-- R85: before the pool settles no grant stands, so that any supply figure will do. -/
theorem State.GrantsHold.noteSupply (h : s.GrantsHold) (new : s.pool.settled = false) : s.noteSupply.GrantsHold := by
  obtain ⟨none, due⟩ := h.unsettled new
  have noted : (s.modPool fun p => { p with supply := s.supplyNow }).GrantsHold :=
    ⟨none.trans_le (Nat.zero_le _), h.off, h.waiting, fun _ => ⟨none, due⟩⟩
  rw [noteSupply_eq]
  exact ite_keeps noted (grantsHold_changes.judgePressure noted)

theorem settle_grantsHold (s : State) : s.settle.GrantsHold :=
  runPass_grantsHold ((settled_changes true).notice rfl _)

/-! ### After a change of a blower -/

/-- R85, R89, R93: at each turn the pool settles, a changed figure is followed by a pass, or no grant stands. -/
theorem State.GrantsHold.afterBlower (h : s.GrantsHold) (n : Nat) : (State.afterBlower n s).GrantsHold := by
  induction n generalizing s with
  | zero => exact grantsHold_changes.judgeMinimum h
  | succ n ih =>
    unfold State.afterBlower
    split_ifs with settles same settled
    · exact ih (settle_grantsHold s)
    · exact grantsHold_changes.judgeMinimum h
    · exact ih (runPass_grantsHold ((noteSupply_settled s).trans settled))
    · exact h.noteSupply (Bool.eq_false_of_not_eq_true settled)

theorem State.GrantsHold.header (h : s.GrantsHold) : s.header.GrantsHold := h.afterBlower 9

theorem State.GrantsHold.changeBlower (h : s.GrantsHold) (b : Nat) (st : BlowerState) (cause : Option TripCause) :
    (s.changeBlower b st cause).GrantsHold :=
  (grantsHold_changes.enterBlower h b st cause).header

theorem State.GrantsHold.modBlower (h : s.GrantsHold) (b : Nat) (f : Blower → Blower) : (s.modBlower b f).GrantsHold :=
  grantsHold_changes.beside h rfl rfl

theorem State.GrantsHold.takeRunning (h : s.GrantsHold) (b : Nat) : (s.takeRunning b).GrantsHold := by
  have runs := h.changeBlower b .running none
  exact ite_keeps (grantsHold_changes.stopBlower runs b).header runs

theorem State.GrantsHold.adopt (h : s.GrantsHold) (b : Nat) : (s.adopt b).GrantsHold := by
  have forgot : (s.forgetRuns b).GrantsHold := h.modBlower b _
  exact ite_keeps (forgot.changeBlower b _ _)
    (ite_keeps (forgot.changeBlower b _ _) (ite_keeps (forgot.takeRunning b) (forgot.changeBlower b _ _)))

theorem State.GrantsHold.tripFault (h : s.GrantsHold) (b : Nat) : (s.tripFault b).GrantsHold := by
  have tripped := grantsHold_changes.enterBlower h b .tripped (some .fault)
  exact State.GrantsHold.header (ite_keeps (grantsHold_changes.driveBlower tripped b _) tripped)

theorem State.GrantsHold.localReading (h : s.GrantsHold) (b : Nat) : (s.localReading b).GrantsHold := by
  have read : (s.modBlower b fun y =>
      { y with speed := if s.readsRunning b then (if y.speed = 0 then 1000 else y.speed) else 0 }).GrantsHold := h.modBlower b _
  exact ite_keeps read read.header

theorem State.GrantsHold.judgeBlower (h : s.GrantsHold) (b : Nat) : (s.judgeBlower b).GrantsHold := by
  unfold State.judgeBlower
  extract_lets x
  split
  · exact h
  · split
    · exact ite_keeps (h.adopt b) h
    · exact ite_keeps (h.tripFault b) (ite_keeps (h.changeBlower b _ _) h)
    · exact ite_keeps (h.tripFault b) h
    · exact ite_keeps (h.tripFault b) h
    · exact ite_keeps (ite_keeps (h.tripFault b) h) (ite_keeps (h.adopt b) h)
    · exact h.localReading b
    · exact h
    · exact h

theorem State.GrantsHold.blowerLocalSet (h : s.GrantsHold) (b : Nat) : (s.blowerLocalSet b).GrantsHold := by
  unfold State.blowerLocalSet
  split
  · exact h
  · exact h
  · exact h.changeBlower b _ _

theorem State.GrantsHold.blowerLocalClear (h : s.GrantsHold) (b : Nat) : (s.blowerLocalClear b).GrantsHold := by
  have forgot : (s.forgetRuns b).GrantsHold := h.modBlower b _
  exact ite_keeps h (ite_keeps (forgot.changeBlower b _ _) (ite_keeps (forgot.takeRunning b) (forgot.changeBlower b _ _)))

theorem State.GrantsHold.blowerLost (h : s.GrantsHold) (b : Nat) : (s.blowerLost b).GrantsHold := by
  have lost := h.changeBlower b .tripped (some .lost)
  unfold State.blowerLost
  split
  · exact lost
  · exact lost
  · exact lost
  · exact lost
  · exact h

theorem State.GrantsHold.eachBlowerOn (h : s.GrantsHold) (st : Nat) {f : Nat → State → State}
    (hf : ∀ (b : Nat) (u : State), u.GrantsHold → (f b u).GrantsHold) : (s.eachBlowerOn st f).GrantsHold :=
  each_keeps 6 (fun b u hu => ite_keeps (hf b u hu) hu) h

theorem State.GrantsHold.headerPoint (h : s.GrantsHold) (p : Nat) : (s.headerPoint p).GrantsHold := by
  have judged := each_keeps (f := fun b u => if (u.blower b).cfg.configured && (u.blower b).cfg.runPoint == p then u.judgeBlower b else u)
    6 (fun b _ hu => ite_keeps (hu.judgeBlower b) hu) h
  exact ite_keeps (grantsHold_changes.judgePressure judged) judged

theorem State.GrantsHold.startFails (h : s.GrantsHold) (b : Nat) : (s.startFails b).GrantsHold :=
  (grantsHold_changes.driveBlower (grantsHold_changes.enterBlower h b .tripped (some .startFail)) b _).header

/-- R94: a pass is due only once the pool has settled. -/
theorem State.GrantsHold.allocationExpiry (h : s.GrantsHold) (due : s.due s.pool.allocDeadline = true) :
    s.allocationExpiry.GrantsHold := by
  refine (runPass_grantsHold (Bool.eq_true_of_not_eq_false fun new => ?_)).header
  rw [(h.unsettled new).2] at due
  cases due

/-! ### The writes of a blower -/

theorem State.GrantsHold.adoptIfReady (h : s.GrantsHold) (b : Nat) : (s.adoptIfReady b).GrantsHold := ite_keeps (h.adopt b) h.header

theorem State.GrantsHold.forgetBlower (h : s.GrantsHold) (b : Nat) (c : BlowerCfg) : (s.forgetBlower b c).GrantsHold := by
  have fresh : (s.freshBlower b c).GrantsHold := h.modBlower b _
  exact (grantsHold_changes.tripAlarms (grantsHold_changes.modPool fresh _ ⟨rfl, rfl, rfl⟩) b none).header

theorem State.GrantsHold.rewriteBlower (h : s.GrantsHold) (b : Nat) (c : BlowerCfg) : (s.rewriteBlower b c).GrantsHold := by
  have hP := grantsHold_changes
  have written : (s.modBlower b fun x => { x with cfg := c }).GrantsHold := h.modBlower b _
  have fresh : (s.freshBlower b c).GrantsHold := h.modBlower b _
  have listed : ((s.freshBlower b c).modPool fun p => { p with dutyOrder := p.dutyOrder ++ [b] }).GrantsHold :=
    hP.modPool fresh _ ⟨rfl, rfl, rfl⟩
  have stamped : (s.modBlower b fun x => { x with cfg := c, lastChange := s.uptime }).GrantsHold := h.modBlower b _
  exact ite_keeps (ite_keeps (h.forgetBlower b c) written) (ite_keeps (listed.adoptIfReady b) (ite_keeps
    (ite_keeps (ite_keeps (stamped.adopt b) stamped) ((hP.enterBlower written b .unknown none).adoptIfReady b)) written))

theorem State.GrantsHold.lockBlower (h : s.GrantsHold) (b : Nat) : (s.lockBlower b).GrantsHold := by
  have marked : (s.modBlower b fun x => { x with lockout := true }).GrantsHold := h.modBlower b _
  unfold State.lockBlower
  dsimp only
  split
  · exact marked.changeBlower b _ _
  · exact (grantsHold_changes.stopBlower marked b).header
  · exact (grantsHold_changes.stopBlower marked b).header
  · exact marked

theorem State.GrantsHold.unlockBlower (h : s.GrantsHold) (b : Nat) : (s.unlockBlower b).GrantsHold := by
  have marked : (s.modBlower b fun x => { x with lockout := false }).GrantsHold := h.modBlower b _
  unfold State.unlockBlower
  dsimp only
  split
  · exact marked.changeBlower b _ _
  · exact marked

end Sys2Proof.Machine
end

section
/-! SUPPORT. The two laws of the grants over the events of the points, the stations and the field line. -/

namespace Sys2Proof.Machine

open Sys2Proof

variable {s t : State}

theorem State.GrantsHold.beside (h : s.GrantsHold) (zones : t.zones = s.zones) (pool : t.pool = s.pool) : t.GrantsHold :=
  grantsHold_changes.beside h zones pool

theorem State.GrantsHold.raise (h : s.GrantsHold) (code : AlarmCode) (src : Source) (v : Option Nat) :
    (s.raiseAlarm code src v).GrantsHold :=
  grantsHold_changes.raise h code src v

theorem State.GrantsHold.clear (h : s.GrantsHold) (code : AlarmCode) (src : Source) : (s.clearAlarm code src).GrantsHold :=
  grantsHold_changes.clear h code src

theorem State.GrantsHold.modPoint (h : s.GrantsHold) (p : Nat) (f : Point → Point) : (s.modPoint p f).GrantsHold := h.beside rfl rfl

theorem State.GrantsHold.modStation (h : s.GrantsHold) (i : Nat) (f : Station → Station) : (s.modStation i f).GrantsHold :=
  h.beside rfl rfl

theorem State.GrantsHold.modFlc (h : s.GrantsHold) (f : Flc → Flc) : (s.modFlc f).GrantsHold := h.beside rfl rfl

/-! ### The points -/

theorem State.GrantsHold.notifyPoint (h : s.GrantsHold) (p : Nat) (accepted : Bool) : (s.notifyPoint p accepted).GrantsHold := by
  have hP := grantsHold_changes
  exact (hP.channelsPoint (hP.stormPoint (hP.rejudgeZones (hP.lanesPoint h p accepted)) p accepted) p accepted).headerPoint p

theorem State.GrantsHold.notifyPoints (h : s.GrantsHold) (points : List Nat) :
    (points.foldl (fun (u : State) p => u.notifyPoint p false) s).GrantsHold :=
  foldl_keeps (P := State.GrantsHold) (fun _ p hu => hu.notifyPoint p false) points h

theorem State.GrantsHold.pointNone (h : s.GrantsHold) (p : Nat) : (s.pointNone p).GrantsHold :=
  (((h.modPoint p _).clear _ _).clear _ _).clear _ _

theorem State.GrantsHold.pointStale (h : s.GrantsHold) (p : Nat) : (s.pointStale p).GrantsHold := by
  have cleared : ((s.modPoint p fun x => { x with
      validity := .stale, suspectCause := none, fresh := false, staleDeadline := none }).clearAlarm .pointSuspect (.point p)).GrantsHold :=
    (h.modPoint p _).clear _ _
  exact ite_keeps (cleared.raise _ _ _) cleared

theorem State.GrantsHold.staleExpiry (h : s.GrantsHold) (p : Nat) : (s.staleExpiry p).GrantsHold :=
  ite_keeps ((h.pointStale p).notifyPoint p false) (h.modPoint p _)

theorem State.GrantsHold.forwardReading (h : s.GrantsHold) (p : Nat) : (s.forwardReading p).GrantsHold := by
  have offered (e : PendingPoint) : (s.offerForward e).GrantsHold := by
    rw [offerForward_eq]
    exact h.beside rfl rfl
  exact ite_keeps h (ite_keeps ((offered _).modPoint p _) (offered _))

theorem State.GrantsHold.pointGoodNow (h : s.GrantsHold) (p : Nat) : (s.pointGoodNow p).GrantsHold :=
  ((h.modPoint p _).clear _ _).clear _ _

theorem State.GrantsHold.pointOutOfRange (h : s.GrantsHold) (p : Nat) : (s.pointOutOfRange p).GrantsHold := by
  have cleared : ((s.modPoint p fun x => { x with validity := .suspect, suspectCause := some .range, fresh := false }).clearAlarm
      .pointStale (.point p)).GrantsHold := (h.modPoint p _).clear _ _
  exact ite_keeps (cleared.raise _ _ _) cleared

theorem State.GrantsHold.acceptValue (h : s.GrantsHold) (p v : Nat) : (s.acceptValue p v).GrantsHold := by
  have taken : (s.modPoint p fun x =>
      { x with value := v, lastTime := some s.uptime, staleDeadline := some (s.uptime + x.cfg.staleLimit) }).GrantsHold := h.modPoint p _
  have judged := ite_keeps (c := plausible ((s.modPoint p fun x =>
      { x with value := v, lastTime := some s.uptime, staleDeadline := some (s.uptime + x.cfg.staleLimit) }).point p).cfg v = true)
    (taken.pointGoodNow p) (taken.pointOutOfRange p)
  exact (State.GrantsHold.notifyPoint judged p true).forwardReading p

theorem State.GrantsHold.kindMismatch (h : s.GrantsHold) (p : Nat) : (s.kindMismatch p).GrantsHold := by
  unfold State.kindMismatch
  extract_lets was marked raised cleared told
  have hcleared : cleared.GrantsHold := ((h.modPoint p _).raise _ _ _).clear _ _
  have htold : told.GrantsHold := ite_keeps (hcleared.clear _ _) hcleared
  exact ite_keeps htold (htold.notifyPoint p false)

theorem State.GrantsHold.takeReading (h : s.GrantsHold) (p : Nat) (legacy : Bool) (r : Reading) :
    (s.takeReading p legacy r).GrantsHold :=
  ite_keeps ((h.clear _ _).acceptValue p _) (h.kindMismatch p)

theorem State.GrantsHold.deliverReadings (h : s.GrantsHold) (st : Nat) (rs : List Reading) : (s.deliverReadings st rs).GrantsHold := by
  refine foldl_keeps (P := State.GrantsHold) (fun u r hu => ?_) _ h
  split
  · exact hu
  · exact hu.takeReading _ _ _

theorem State.GrantsHold.pointFlagChange (h : s.GrantsHold) (p : Nat) (old new : Bool) : (s.pointFlagChange p old new).GrantsHold := by
  have stale : (if (s.point p).validity = .stale then s.raiseAlarm .pointStale (.point p) (some (s.point p).value) else s).GrantsHold :=
    ite_keeps (h.raise _ _ _) h
  exact ite_keeps h (ite_keeps (ite_keeps (stale.raise _ _ _) stale) ((h.clear _ _).clear _ _))

theorem State.GrantsHold.rejudgePoint (h : s.GrantsHold) (p : Nat) : (s.rejudgePoint p).GrantsHold := by
  have timed : (s.modPoint p fun y => { y with
      staleDeadline := if y.staleDeadline.isSome then y.lastTime.map (· + y.cfg.staleLimit) else none }).GrantsHold := h.modPoint p _
  exact ite_keeps ((h.pointStale p).notifyPoint p false) (ite_keeps ((timed.pointOutOfRange p).notifyPoint p false) timed)

theorem State.GrantsHold.rewritePoint (h : s.GrantsHold) (p : Nat) (cfg : PointCfg) : (s.rewritePoint p cfg).GrantsHold := by
  unfold State.rewritePoint
  extract_lets old moved written emptied
  have hwritten : written.GrantsHold := h.modPoint p _
  have hemptied : emptied.GrantsHold := hwritten.pointNone p
  exact ite_keeps (ite_keeps hemptied (hemptied.notifyPoint p false)) ((hwritten.pointFlagChange p _ _).rejudgePoint p)

/-! ### The stations -/

theorem State.GrantsHold.flagEvents (h : s.GrantsHold) (st : Nat) (fault localMode : Bool × Bool) :
    (s.flagEvents st fault localMode).GrantsHold := by
  have faults : (if fault.1 = fault.2 then s else s.eachBlowerOn st State.blowerFaultEvent).GrantsHold :=
    ite_keeps h (h.eachBlowerOn st fun b u hu => ite_keeps hu (hu.judgeBlower b))
  refine ite_keeps faults (faults.eachBlowerOn st fun b u hu => ?_)
  split
  · exact hu.blowerLocalSet b
  · exact hu.blowerLocalClear b

theorem State.GrantsHold.stationEvents (h : s.GrantsHold) (st : Nat) (old : Station) : (s.stationEvents st old).GrantsHold :=
  grantsHold_changes.judgeChannels ((grantsHold_changes.rejudgeZones h).flagEvents st _ _)

theorem State.GrantsHold.adoptAll (h : s.GrantsHold) (st : Nat) : (s.adoptAll st).GrantsHold :=
  h.eachBlowerOn st fun b _ hu => ite_keeps (hu.adopt b) hu

theorem State.GrantsHold.localAlarm (h : s.GrantsHold) (st : Nat) (was is : Bool) : (s.localAlarm st was is).GrantsHold :=
  ite_keeps (ite_keeps (h.raise _ _ _) h) (h.clear _ _)

theorem State.GrantsHold.turnGood (h : s.GrantsHold) (st : Nat) (a : Answer) : (s.turnGood st a).GrantsHold := by
  unfold State.turnGood
  extract_lets old answered told judged delivered
  have hjudged : judged.GrantsHold := (((h.modStation st _).clear _ _).localAlarm st _ _).stationEvents st old
  have hdelivered : delivered.GrantsHold := ite_keeps hjudged (hjudged.deliverReadings st _)
  exact hdelivered.adoptAll st

theorem State.GrantsHold.lossEvents (h : s.GrantsHold) (st : Nat) (points : List Nat) : (s.lossEvents st points).GrantsHold := by
  have hP := grantsHold_changes
  exact hP.judgeChannels ((hP.rejudgeZones ((hP.endLostPassages h).notifyPoints points)).eachBlowerOn st fun b _ hu => hu.blowerLost b)

theorem State.GrantsHold.enterLost (h : s.GrantsHold) (st : Nat) : (s.enterLost st).GrantsHold := by
  unfold State.enterLost
  extract_lets points reset stale told
  have hstale : stale.GrantsHold := foldl_keeps (P := State.GrantsHold) (fun _ p hu => hu.pointStale p) points (h.modStation st _)
  have htold : told.GrantsHold := ite_keeps (hstale.raise _ _ _) hstale
  exact htold.lossEvents st points

theorem State.GrantsHold.turnFailed (h : s.GrantsHold) (st : Nat) : (s.turnFailed st).GrantsHold := by
  unfold State.turnFailed
  extract_lets old counted
  have hcounted : counted.GrantsHold := h.modStation st _
  exact ite_keeps (hcounted.enterLost st) hcounted

theorem State.GrantsHold.voidTurn (h : s.GrantsHold) (st : Nat) : (s.voidTurn st).GrantsHold := by
  unfold State.voidTurn
  split
  · exact h
  · exact ite_keeps (h.modFlc _) h

theorem State.GrantsHold.stationFlagChange (h : s.GrantsHold) (st : Nat) (old new : Bool) :
    (s.stationFlagChange st old new).GrantsHold := by
  have lost : (if (s.station st).health = .lost then
      s.raiseAlarm .stationLost (.station st) (some (s.station st).consec) else s).GrantsHold :=
    ite_keeps (h.raise _ _ _) h
  exact ite_keeps h (ite_keeps (ite_keeps (lost.raise _ _ _) lost) ((h.clear _ _).clear _ _))

theorem State.GrantsHold.clearStation (h : s.GrantsHold) (st : Nat) : (s.clearStation st).GrantsHold := (h.clear _ _).clear _ _

theorem State.GrantsHold.stationAfresh (h : s.GrantsHold) (st : Nat) (cfg : StationCfg) : (s.stationAfresh st cfg).GrantsHold := by
  unfold State.stationAfresh
  extract_lets old points changed fresh emptied voided judged
  have hemptied : emptied.GrantsHold := foldl_keeps (P := State.GrantsHold) (fun _ p hu => hu.pointNone p) points (h.modStation st _)
  exact (((hemptied.clearStation st).voidTurn st).stationEvents st old).notifyPoints changed

theorem State.GrantsHold.rewriteStation (h : s.GrantsHold) (st : Nat) (cfg : StationCfg) : (s.rewriteStation st cfg).GrantsHold :=
  ite_keeps ((h.modStation st _).stationEvents st _)
    (ite_keeps (h.stationAfresh st cfg) ((h.modStation st _).stationFlagChange st _ _))

theorem State.GrantsHold.clearMap (h : s.GrantsHold) (st : Nat) : (s.clearMap st).GrantsHold := by
  unfold State.clearMap
  extract_lets points changed fresh emptied ungrouped voided
  have hemptied : emptied.GrantsHold :=
    foldl_keeps (P := State.GrantsHold) (fun _ p hu => (hu.modPoint p _).pointNone p) points (h.modStation st _)
  have hungrouped : ungrouped.GrantsHold := hemptied.beside rfl rfl
  exact ((hungrouped.clearStation st).voidTurn st).lossEvents st changed

theorem State.GrantsHold.rewriteGroup (h : s.GrantsHold) (g : Nat) (members : List Nat) (answering : Option Nat) :
    (s.rewriteGroup g members answering).GrantsHold := by
  have written : (s.modGroup g fun _ => ⟨members, answering⟩).GrantsHold := h.beside rfl rfl
  exact grantsHold_changes.rejudgeZones (grantsHold_changes.endLostPassages written)

/-! ### The field line -/

theorem State.GrantsHold.roundExpiry (h : s.GrantsHold) : s.roundExpiry.GrantsHold := by
  unfold State.roundExpiry
  extract_lets ended stopped counted
  have hstopped : stopped.GrantsHold := h.modFlc _
  have hcounted : counted.GrantsHold := hstopped.modFlc _
  exact ite_keeps hstopped (ite_keeps (hcounted.raise _ _ _) hcounted)

theorem State.GrantsHold.windowExpiry (h : s.GrantsHold) : s.windowExpiry.GrantsHold := by
  unfold State.windowExpiry
  split
  · exact h
  · exact ite_keeps (h.modFlc _) (State.GrantsHold.turnFailed (h.modFlc _) _)

theorem State.GrantsHold.badFieldFrame (h : s.GrantsHold) : s.badFieldFrame.GrantsHold := by
  unfold State.badFieldFrame
  split
  · exact h.modStation _ _
  · exact h.modFlc _

theorem State.GrantsHold.fieldFrame (h : s.GrantsHold) (chars : List Byte) : (s.fieldFrame chars).GrantsHold := by
  unfold State.fieldFrame
  split
  · exact h
  · exact h.badFieldFrame
  · split
    · exact h.badFieldFrame
    · split
      · exact h.badFieldFrame
      · exact State.GrantsHold.turnGood (h.modFlc _) _ _

end Sys2Proof.Machine
end

section
/-! SUPPORT. The two laws of the grants over the requests, the plant port, the starts and every command, and the statement. -/

namespace Sys2Proof.Machine

open Sys2Proof

variable {s t u : State}

/-! ### The requests -/

theorem handled_ite {c : Prop} [Decidable c] {x y : Handled} (hx : x.state.GrantsHold) (hy : y.state.GrantsHold) :
    (if c then x else y).state.GrantsHold := by
  split <;> assumption

theorem State.GrantsHold.accepts (h : s.GrantsHold) {ok : Bool} {effect : State} (he : effect.GrantsHold) :
    (s.acceptIf ok effect).state.GrantsHold :=
  acceptIf_keeps h he

theorem State.GrantsHold.done (h : s.GrantsHold) : s.done.state.GrantsHold := h

theorem State.GrantsHold.withCommands (h : s.GrantsHold) {f : State → State} (hf : ∀ u : State, u.GrantsHold → (f u).GrantsHold) :
    (s.withCommands f).GrantsHold :=
  grantsHold_changes.withCommands h hf

theorem State.GrantsHold.handleBlowerReset (h : s.GrantsHold) (b : Nat) : (handleBlowerReset b s).state.GrantsHold :=
  handled_ite h (handled_ite h (h.accepts (h.changeBlower b _ none)))

theorem State.GrantsHold.handlePairSet (h : s.GrantsHold) (k : Nat) (join : Bool) : (handlePairSet k join s).state.GrantsHold := by
  have joined := grantsHold_changes.judgeChannels (grantsHold_changes.joinPair h k)
  have parted := grantsHold_changes.judgeChannels (grantsHold_changes.partPair h k)
  exact handled_ite h (handled_ite h (handled_ite h.done (handled_ite (h.accepts joined) parted.done)))

theorem State.GrantsHold.handleDutySwap (h : s.GrantsHold) (k : Nat) : (handleDutySwap k s).state.GrantsHold := by
  have moved : (s.withCommands fun u => u.moveDuty (2 * k)).GrantsHold :=
    h.withCommands fun u hu => grantsHold_changes.anyChannel.moveDuty hu _
  have judged := grantsHold_changes.judgeChannels moved
  exact handled_ite h (handled_ite h (handled_ite h judged.done))

theorem State.GrantsHold.handleHandDrive (h : s.GrantsHold) (kind : Coded HandKind) (index : Nat) (command : Coded Command)
    (value : Nat) (timeout : Coded TimeoutCode) : (handleHandDrive kind index command value timeout s).state.GrantsHold := by
  unfold Machine.handleHandDrive
  split
  · split
    · exact handled_ite h (handled_ite h (handled_ite h (handled_ite h (grantsHold_changes.holdTarget h _ _ _))))
    · exact h
  · exact h

theorem State.GrantsHold.handleHandRelease (h : s.GrantsHold) (kind : Coded HandKind) (index : Nat) :
    (handleHandRelease kind index s).state.GrantsHold := by
  unfold Machine.handleHandRelease
  split
  · exact h
  · exact handled_ite (grantsHold_changes.endPassage h _ false) h

theorem State.GrantsHold.ackAlarm (h : s.GrantsHold) (code : AlarmCode) (src : Source) : (s.ackAlarm code src).GrantsHold :=
  grantsHold_changes.onlyAlarms h (ackAlarm_only s code src)

theorem State.GrantsHold.handleAlarmAck (h : s.GrantsHold) (code : Coded AlarmCode) (kind index : Nat) :
    (handleAlarmAck code kind index s).state.GrantsHold := by
  unfold Machine.handleAlarmAck
  split
  · exact handled_ite h (handled_ite h (h.ackAlarm _ _))
  · exact h

theorem State.GrantsHold.handleAlarmAckClass (h : s.GrantsHold) (cls : Coded AlarmClass) :
    (handleAlarmAckClass cls s).state.GrantsHold := by
  unfold Machine.handleAlarmAckClass
  split
  · exact h
  · exact handled_ite h (foldl_keeps (P := State.GrantsHold) (fun _ _ hu => hu.ackAlarm _ _) _ h)

theorem State.GrantsHold.handleClassMapWrite (h : s.GrantsHold) (lines : LineMap) (classes : List (Coded AlarmClass)) :
    (handleClassMapWrite lines classes s).state.GrantsHold := by
  unfold Machine.handleClassMapWrite
  split
  · exact h
  · exact h.beside rfl rfl

theorem State.GrantsHold.reordered (h : s.GrantsHold) (f : List Nat → List Nat) :
    (s.modPool fun p => { p with dutyOrder := f p.dutyOrder }).GrantsHold :=
  grantsHold_changes.modPool h _ ⟨rfl, rfl, rfl⟩

theorem State.GrantsHold.handle (h : s.GrantsHold) (hdr : Hdr) (r : Req) : (handle hdr r s).1.GrantsHold := by
  have hP := grantsHold_changes
  cases r with
  | malformed | unreadableValue | identify | rosterRead | grantsRead | stormRead | handRead => exact h
  | mapRead | pointRead | zoneRead | blowerRead | alarmList => exact handled_ite h h
  | mapWrite st addr role legacy alarm =>
    cases role with
    | unlisted => exact h
    | val => exact h.accepts (h.rewriteStation _ _)
  | mapClear st => exact handled_ite h (handled_ite (h.clearMap st).done h)
  | groupWrite g members answering => exact h.accepts (h.rewriteGroup g members answering)
  | pointWrite p cfg => exact h.accepts (h.rewritePoint p cfg)
  | rosterLoad | lineWrite => exact h.accepts (h.modFlc _)
  | expressRead st => exact handled_ite h (handled_ite (hP.express h _) (hP.express h _))
  | stationCounters st reset => exact handled_ite h (ite_keeps (P := State.GrantsHold) (h.modStation st _) h)
  | laneWrite l cfg => exact h.accepts (hP.rewriteLane h l cfg)
  | laneService l on => exact handled_ite h (handled_ite h (handled_ite (hP.laneOn h l) (hP.laneOff h l)))
  | zoneWrite z cfg => exact h.accepts (h.rewriteZone z cfg)
  | blowerWrite b cfg => exact handled_ite h (handled_ite h (h.accepts (h.rewriteBlower b cfg)))
  | blowerLockout b on => exact handled_ite h (handled_ite h (handled_ite (h.lockBlower b).done (h.unlockBlower b).done))
  | blowerReset b => exact h.handleBlowerReset b
  | poolWrite cfg => exact h.accepts (hP.rewritePool h cfg)
  | dutyOrder order => exact h.accepts (h.reordered fun _ => order)
  | dutyRotate => exact h.reordered rotate
  | channelWrite c cfg => exact handled_ite h (handled_ite h (handled_ite h (h.accepts (hP.rewriteChannel h c cfg))))
  | channelStart c =>
    exact handled_ite h (handled_ite h (handled_ite h (handled_ite h
      (h.withCommands fun _ hu => hP.anyChannel.startChannel hu c))))
  | channelStop c =>
    exact handled_ite h (handled_ite h (handled_ite h (handled_ite (hP.modChannel h c _)
      (h.withCommands fun _ hu => hP.anyChannel.disableChannel hu c))))
  | channelRead => exact handled_ite h (handled_ite h h)
  | pairSet k join => exact h.handlePairSet k join
  | dutySwap k => exact h.handleDutySwap k
  | stormWrite cfg => exact h.accepts (hP.rewriteStorm h cfg)
  | stormForce force =>
    cases force with
    | unlisted => exact h
    | val f => exact handled_ite h (hP.takeForce h f)
  | handDrive kind index command value timeout => exact h.handleHandDrive kind index command value timeout
  | handRelease kind index => exact h.handleHandRelease kind index
  | alarmAck code kind index => exact h.handleAlarmAck code kind index
  | alarmAckClass cls => exact h.handleAlarmAckClass cls
  | silence => exact h.beside rfl rfl
  | classMapWrite lines classes => exact h.handleClassMapWrite lines classes
  | escalationWrite => exact h.accepts (h.beside rfl rfl)
  | save =>
    unfold Machine.handle handleSave
    dsimp only
    split
    · exact h
    · exact h.beside rfl rfl
  | restart => exact handled_ite h (h.beside rfl rfl)

/-! ### The plant port -/

theorem State.GrantsHold.settled (h : s.GrantsHold) (same : Settled s t) : t.GrantsHold := h.beside same.zones same.pool

theorem State.GrantsHold.transmit (h : s.GrantsHold) : s.transmit.GrantsHold := h.settled (.transmit s)

theorem State.GrantsHold.finish (h : s.GrantsHold) : s.finish.GrantsHold := h.settled (.finish s)

theorem State.GrantsHold.modPort (h : s.GrantsHold) (f : Port → Port) : (s.modPort f).GrantsHold := h.beside rfl rfl

/-- A reply at the end of a handling. -/
theorem State.GrantsHold.replies (h : s.GrantsHold) (r : Reply) : (s.lineArbiter.updateLines.addReply r).transmit.GrantsHold :=
  h.settled (((Settled.lineArbiter s).trans (.updateLines _)).trans ((Settled.addReply _ r).trans (.transmit _)))

theorem State.GrantsHold.take (h : s.GrantsHold) (r : Request) : (s.take r).GrantsHold := by
  have handled := (h.modPort fun p => { p with address := r.hdr.src }).handle r.hdr r.body
  unfold State.take
  dsimp only
  split
  next u later =>
    rw [later] at handled
    exact handled.finish
  next u status report now =>
    rw [now] at handled
    exact handled.replies _

theorem State.GrantsHold.serve (h : s.GrantsHold) (n : Nat) : (s.serve n).GrantsHold := by
  induction n generalizing s with
  | zero => exact h
  | succ n ih =>
    unfold State.serve
    split
    · exact h
    · exact ite_keeps (ih ((h.modPort _).take _)) h

theorem State.GrantsHold.receiveRequest (h : s.GrantsHold) (r : Request) : (s.receiveRequest r).GrantsHold := by
  have offered : (s.offerRequest r).GrantsHold := ite_keeps (h.modPort _) (ite_keeps (h.modPort _) (h.modPort _))
  exact (offered.serve _).transmit

theorem State.GrantsHold.plantFrameIn (h : s.GrantsHold) (chars : List Byte) : (s.plantFrameIn chars).GrantsHold := by
  unfold State.plantFrameIn
  split
  · exact h
  · exact h.modPort _
  · exact ite_keeps h (h.receiveRequest _)

theorem State.GrantsHold.saveCompletes (h : s.GrantsHold) (ok : Bool) : (s.saveCompletes ok).GrantsHold := by
  unfold State.saveCompletes
  split
  · exact h
  · exact State.GrantsHold.replies (grantsHold_changes.setAlarm (h.modPort _) _ _ _ _) _

/-! ### Starts -/

/-- R93, R94, R176: a start leaves nothing granted, nothing to share and no pass due. -/
theorem load_grantsHold (s : State) (kind : StartKind) : (s.load kind).GrantsHold := by
  have zero (z : Nat) : ((s.load kind).zone z).grant = 0 := by
    obtain ⟨-, grant, -⟩ := load_zone_rests s kind z
    exact grant
  have none : (s.load kind).grantSum = 0 := by
    refine List.sum_eq_zero fun g hg => ?_
    obtain ⟨z, -, grant⟩ := List.mem_map.mp hg
    exact grant.symm.trans (zero z)
  exact ⟨none.trans_le (Nat.zero_le _), fun z _ _ => zero z, fun z _ _ => (zero z).trans_le (Nat.zero_le _), fun _ => ⟨none, rfl⟩⟩

theorem State.GrantsHold.startLane (h : s.GrantsHold) (l : Nat) : (s.startLane l).GrantsHold := by
  have active : (s.modLane l fun x => { x with activeBand := s.activeBandNow l }).GrantsHold := h.beside rfl rfl
  exact grantsHold_changes.setAlarm active _ _ _ _

theorem startUp_grantsHold (s : State) (kind : StartKind) : (s.startUp kind).GrantsHold := by
  have hP := grantsHold_changes
  unfold State.startUp
  extract_lets loaded judged points lanes zones storm channels blowers
  have hjudged : judged.GrantsHold := hP.setAlarm (load_grantsHold s kind) _ _ _ _
  have hpoints : points.GrantsHold :=
    each_keeps 128 (fun p _ hu => ite_keeps hu (((hu.clear _ _).clear _ _).clear _ _)) hjudged
  have hlanes : lanes.GrantsHold := each_keeps 6 (fun l _ hu => hu.startLane l) hpoints
  have hzones : zones.GrantsHold :=
    each_keeps 24 (fun z _ hu => ite_keeps hu ((((hu.clear _ _).clear _ _).clear _ _).clear _ _)) hlanes
  have hstorm : storm.GrantsHold := hP.setAlarm (hP.setAlarm hzones _ _ _ _) _ _ _ _
  have hchannels : channels.GrantsHold := each_keeps 4 (fun c _ hu => (hu.clear _ _).clear _ _) hstorm
  have hblowers : blowers.GrantsHold :=
    each_keeps 6 (fun b _ hu => ite_keeps (hP.tripAlarms (hu.modBlower b _) b _) hu) hchannels
  exact hblowers.header.finish

theorem State.GrantsHold.frameSent (h : s.GrantsHold) : s.frameSent.GrantsHold := by
  unfold State.frameSent
  split
  · exact h
  · exact ite_keeps (startUp_grantsHold _ _) ((h.modPort _).transmit.serve _)

/-! ### Every command -/

theorem State.GrantsHold.onlyIf (h : s.GrantsHold) (holds : Bool) {effect : State} (he : holds = true → effect.GrantsHold) :
    ∃ t, s.onlyIf holds effect = .next t ∧ t.GrantsHold := by
  refine ⟨_, rfl, ?_⟩
  split_ifs with acts
  · exact (he acts).finish
  · exact h

theorem State.GrantsHold.exec (h : s.GrantsHold) (c : Instr) : ∃ t, exec c s = .next t ∧ t.GrantsHold := by
  have hP := grantsHold_changes
  cases c with
  | powerOn | resetPin => exact ⟨_, rfl, startUp_grantsHold _ _⟩
  | saveWriteComplete ok => exact ⟨_, rfl, h.saveCompletes ok⟩
  | plantFrameReceived chars => exact ⟨_, rfl, h.plantFrameIn chars⟩
  | plantFrameSent => exact ⟨_, rfl, h.frameSent⟩
  | framingIdleTimeout link =>
    cases link with
    | field => exact ⟨_, rfl, h.badFieldFrame⟩
    | plant => exact ⟨_, rfl, h.modPort _⟩
  | pollSent => exact ⟨_, rfl, h.modFlc _⟩
  | fieldFrameReceived chars => exact ⟨_, rfl, (h.fieldFrame chars).finish⟩
  | answerWindowExpiry => exact h.onlyIf _ fun _ => h.windowExpiry
  | roundTimerExpiry => exact h.onlyIf _ fun _ => h.roundExpiry
  | staleTimerExpiry p => exact h.onlyIf _ fun _ => h.staleExpiry p
  | trimTimerExpiry z => exact h.onlyIf _ fun _ => hP.trimExpiry h z
  | startGraceExpiry l => exact h.onlyIf _ fun _ => hP.graceExpiry h l
  | rampTimeElapsed b => exact h.onlyIf _ fun _ => h.judgeBlower b
  | rampTimerExpiry b => exact h.onlyIf _ fun _ => h.startFails b
  | runDownEnd b => exact h.onlyIf _ fun _ => h.changeBlower b _ none
  | allocationTimerExpiry => exact h.onlyIf _ h.allocationExpiry
  | pauseLimitExpiry c => exact h.onlyIf _ fun _ => hP.pauseExpiry h c
  | entryConfirmExpiry => exact h.onlyIf _ fun _ => hP.entryExpires h
  | holdTimerExpiry => exact h.onlyIf _ fun _ => hP.holdExpires h
  | exitConfirmExpiry => exact h.onlyIf _ fun _ => hP.exitExpires h
  | deadlineExpiry t => exact h.onlyIf _ fun _ => hP.endPassage h t false
  | escalationExpiry code src => exact h.onlyIf _ fun _ => h
  | _ => exact ⟨_, rfl, h.receiveRequest _⟩

/-- The laws read neither the uptime nor the waiting commands. -/
theorem State.GrantsHold.with_time_and_queue (h : s.GrantsHold) (now : Nat) (queue : List Instr) :
    ({ s with uptime := now, pending := queue } : State).GrantsHold :=
  h.beside rfl rfl

/-- Settles O3: a change of the supply figure is followed by a pass, which sets every grant afresh; beside a pass no grant grows, and
a second that passes changes only the time and the queue. -/
theorem stepKeepsTheGrantsWithinTheSupply : Obligations.StepKeepsTheGrantsWithinTheSupply := by
  intro s t h hs
  unfold step at hs
  split at hs
  · cases hs
    exact h.with_time_and_queue _ _
  · exact of_answers ((h.with_time_and_queue s.uptime _).exec _) hs

end Sys2Proof.Machine
end

section
/-! A second of the uptime clock (3.2): the expiries that have come due, row by row. -/

namespace Sys2Proof.Machine

open Sys2Proof

variable {s : State} {n now : Nat}

/-! ### Timers that have come due -/

/-- A running timer whose expiry has come. -/
def hasCome (now : Nat) (deadline : Option Nat) : Bool := deadline.any fun at' => decide (at' ≤ now)

/-- A running timer of the Storm Monitor whose expiry has come. -/
def StormTimer.hasEnded (now : Nat) : StormTimer → Bool
  | .running e => decide (e ≤ now)
  | _ => false

theorem hasCome_iff (now : Nat) (deadline : Option Nat) : hasCome now deadline = true ↔ ∃ d ∈ deadline, d ≤ now := by
  simp [hasCome, Option.any_eq_true]

/-- A time that lies exactly `k` seconds back. -/
def fallsOn (now k : Nat) (time : Option Nat) : Bool := time.any fun r => decide (r + k = now)

theorem fallsOn_iff (now k : Nat) (time : Option Nat) : fallsOn now k time = true ↔ ∃ r ∈ time, r + k = now := by
  simp [fallsOn, Option.any_eq_true]

theorem StormTimer.hasEnded_iff (now : Nat) (x : StormTimer) : x.hasEnded now = true ↔ ∃ e ≤ now, x = .running e := by
  cases x <;> simp [StormTimer.hasEnded, eq_comm]

theorem due_eq_hasCome (s : State) (deadline : Option Nat) : s.due deadline = hasCome s.uptime deadline := by
  cases deadline <;> rfl

theorem stormTimer_due_eq (now : Nat) (x : StormTimer) : x.due now = x.hasEnded now := by
  cases x <;> rfl

theorem map_add_beq_eq_fallsOn (time : Option Nat) (k now : Nat) : (time.map (· + k) == some now) = fallsOn now k time := by
  cases time <;> rfl

/-! ### One row of the command table -/

theorem mem_dueOf {p : Nat → Bool} {f : Nat → Instr} {i : Instr} : i ∈ dueOf n p f ↔ ∃ k, (k < n ∧ p k = true) ∧ f k = i := by
  simp [dueOf]

theorem mem_dueIf {p : Bool} {c i : Instr} : i ∈ dueIf p c ↔ p = true ∧ i = c := by
  cases p <;> simp [dueIf]

/-! ### The whole list -/

/-- The expiries that come due at `now`, in the order of the command table. -/
def State.dueAt (s : State) (now : Nat) : List Instr :=
  dueOf 128 (fun p => hasCome now (s.point p).staleDeadline) .staleTimerExpiry
    ++ dueOf 24 (fun z => hasCome now (s.zone z).trimDeadline) .trimTimerExpiry
    ++ dueOf 6 (fun l => hasCome now (s.lane l).graceDeadline) .startGraceExpiry
    ++ dueOf 6 (fun b => decide ((s.blower b).state = .starting)
      && fallsOn now (s.blower b).cfg.rampTime (s.blower b).runStart) .rampTimeElapsed
    ++ dueOf 6 (fun b => hasCome now (s.blower b).rampDeadline) .rampTimerExpiry
    ++ dueOf 6 (fun b => hasCome now (s.blower b).runDownDeadline) .runDownEnd
    ++ dueIf (hasCome now s.pool.allocDeadline) .allocationTimerExpiry
    ++ dueOf 4 (fun c => hasCome now (s.channel c).pauseDeadline) .pauseLimitExpiry
    ++ dueIf (s.storm.entryTimer.hasEnded now) .entryConfirmExpiry
    ++ dueIf (s.storm.holdTimer.hasEnded now) .holdTimerExpiry
    ++ dueIf (s.storm.exitTimer.hasEnded now) .exitConfirmExpiry
    ++ (s.hand.filter fun (x : Passage) => hasCome now x.deadline).map (fun (x : Passage) => Instr.deadlineExpiry x.target)
    ++ (s.alarms.records.filter fun (r : AlarmRecord) => decide (r.state = .raisedUnack)
      && fallsOn now (s.alarms.escalation * 60) r.unack).map
        fun (r : AlarmRecord) => Instr.escalationExpiry r.code r.source

theorem dueExpiries_eq (s : State) : s.dueExpiries = s.dueAt s.uptime := by
  unfold State.dueExpiries State.dueAt
  have escalates : s.escalates = fun r => decide (r.state = .raisedUnack)
      && fallsOn s.uptime (s.alarms.escalation * 60) r.unack := by
    funext r
    unfold State.escalates
    rw [map_add_beq_eq_fallsOn]
    rfl
  simp only [due_eq_hasCome, stormTimer_due_eq, map_add_beq_eq_fallsOn, escalates]
  rfl

/-- A second passes: the clock, and the expiries in the queue. -/
theorem step_of_empty (hp : s.pending = []) (hu : s.uptime + 1 < 4294967296) :
    step s = .next { s with uptime := s.uptime + 1, pending := s.dueAt (s.uptime + 1) } := by
  have next : nextUptime s.uptime = s.uptime + 1 := if_pos hu
  unfold step
  rw [hp]
  dsimp only
  unfold State.tick
  rw [next]
  dsimp only
  rw [dueExpiries_eq]
  rfl

/-! ### Two rows in the order of their tables -/

theorem mem_dueAt_deadline (s : State) (now : Nat) (x : HandTarget) : .deadlineExpiry x ∈ s.dueAt now ↔
    ∃ p ∈ s.hand, p.target = x ∧ ∃ d ∈ p.deadline, d ≤ now := by
  simp [State.dueAt, mem_dueOf, mem_dueIf, hasCome_iff, and_left_comm, and_comm]

theorem mem_dueAt_escalation (s : State) (now : Nat) (code : AlarmCode) (src : Source) : .escalationExpiry code src ∈ s.dueAt now ↔
    ∃ r ∈ s.alarms.records, r.code = code ∧ r.source = src ∧ r.state = .raisedUnack
      ∧ ∃ d ∈ r.unack, d + s.alarms.escalation * 60 = now := by
  simp [State.dueAt, mem_dueOf, mem_dueIf, fallsOn_iff, and_assoc, and_left_comm, and_comm]

/-- Settles O35: a command is in the list where it is in its own row, since the commands of the other rows are of other constructors,
and each row says which of its timers have come due. -/
theorem secondPassesOnAnEmptyQueue : Obligations.SecondPassesOnAnEmptyQueue := by
  intro s hp hu
  refine ⟨s.dueAt (s.uptime + 1), step_of_empty hp hu, fun p => ?_, fun z => ?_, fun l => ?_, fun b => ?_, fun b => ?_, fun b => ?_, ?_,
    fun c => ?_, ?_, ?_, ?_, mem_dueAt_deadline s _, mem_dueAt_escalation s _, rfl⟩
  all_goals simp [State.dueAt, mem_dueOf, mem_dueIf, hasCome_iff, fallsOn_iff, StormTimer.hasEnded_iff]

end Sys2Proof.Machine
end

section
/-! SUPPORT. One channel at a time: what its events leave alone (`ChannelChanges`, `State.OnlyChannels`), and what the operands of
chapter 6 read. -/

namespace Sys2Proof.Machine

open Sys2Proof

variable {P : State → Prop} {s t u : State} {c d : Nat}

/-! ### What a channel's events are made of -/

/-- Kept by any change of one channel's running state and of its pair's duty selection, and by the notices and alarms that go with
it. -/
structure ChannelChanges (c : Nat) (P : State → Prop) : Prop where
  channel : ∀ {s : State} (f : Channel → Channel), (∀ x, (f x).cfg = x.cfg) → P s → P (s.modChannel c f)
  pair : ∀ {s : State} (f : Pair → Pair), (∀ x, (f x).joined = x.joined) → P s → P (s.modPair (c / 2) f)
  notice : ∀ {s : State} (n : Notice), P s → P (s.offerNotice n)
  raise : ∀ {s : State} (code : AlarmCode) (src : Source) (v : Option Nat), P s → P (s.raiseAlarm code src v)
  clear : ∀ {s : State} (code : AlarmCode) (src : Source), P s → P (s.clearAlarm code src)

section
variable (hP : ChannelChanges c P)
include hP

theorem ChannelChanges.enterChannel (h : P s) (st : ChannelState) : P (s.enterChannel c st) := by
  have entered := hP.channel (fun x => { x with
    state := st, pauseStart := if st = .paused then some s.uptime else none,
    pauseDeadline := if st = .paused then some (s.uptime + x.cfg.pauseLimit * 60) else none }) (fun _ => rfl) h
  exact ite_keeps (hP.clear _ _ entered) entered

theorem ChannelChanges.disableChannel (h : P s) : P (s.disableChannel c) :=
  hP.clear _ _ (hP.clear _ _ (hP.channel _ (fun _ => rfl) (hP.enterChannel h _)))

theorem ChannelChanges.faultChannel (h : P s) : P (s.faultChannel c) := hP.raise _ _ _ (hP.enterChannel h _)

theorem ChannelChanges.enterFlow (h : P s) : P (s.enterFlow c) := hP.enterChannel h _

theorem ChannelChanges.moveDuty (h : P s) : P (s.moveDuty c) := hP.pair _ (fun _ => rfl) h

theorem ChannelChanges.loadTarget (h : P s) : P (s.loadTarget c) := hP.channel _ (fun _ => rfl) h

theorem ChannelChanges.startChannel (h : P s) : P (s.startChannel c) := by
  have begun := hP.channel (fun x => { x with
    remaining := x.target, counted := 0, cycles := 0, overshoot := 0, lastMeter := none, autoPending := false }) (fun _ => rfl)
    (hP.loadTarget h)
  exact ite_keeps (hP.enterFlow begun) (ite_keeps (hP.enterFlow (hP.moveDuty begun)) (hP.faultChannel begun))

theorem ChannelChanges.countCycle (h : P s) : P (s.countCycle c) := by
  have counted := hP.channel (fun x => { x with cycles := holdAdd 65535 x.cycles 1 }) (fun _ => rfl) h
  exact ite_keeps (hP.notice _ counted) counted

theorem ChannelChanges.completeCycles (n excess : Nat) (h : P s) : P (State.completeCycles n c excess s) := by
  induction n generalizing excess s with
  | zero => exact h
  | succ n ih =>
    have counted := hP.countCycle h
    have loaded := hP.loadTarget counted
    exact ite_keeps (hP.disableChannel (hP.channel _ (fun _ => rfl) counted))
      (ite_keeps (ih _ loaded) (hP.channel _ (fun _ => rfl) loaded))

theorem ChannelChanges.meter (h : P s) (v : Nat) : P (s.meter c v) := by
  unfold State.meter
  dsimp only
  have noted := hP.channel (fun x => { x with lastMeter := some v }) (fun _ => rfl) h
  refine ite_keeps h ?_
  split
  · exact noted
  · rename_i last _
    have summed := hP.channel (fun x => { x with counted := (x.counted + (v + 65536 - last) % 65536) % 4294967296 }) (fun _ => rfl)
      noted
    exact ite_keeps (hP.channel _ (fun _ => rfl) summed) (hP.completeCycles _ _ summed)

theorem ChannelChanges.accumulate (h : P s) (v : Nat) : P (s.accumulate c v) := hP.channel _ (fun _ => rfl) h

theorem ChannelChanges.judgeLevel (h : P s) (v : Nat) : P (s.judgeLevel c v) :=
  ite_keeps (hP.enterChannel h _) (ite_keeps (hP.enterChannel h _) h)

theorem ChannelChanges.channelPoint (h : P s) (p : Nat) (accepted : Bool) : P (s.channelPoint c p accepted) := by
  have metered := ite_keeps (c := (s.channel c).cfg.volumePoint ≠ p) h
    (ite_keeps (c := (accepted && s.pointGood p .volume) = true) (hP.meter h (s.pointValue p))
      (ite_keeps (c := (s.point p).validity = .none) (hP.channel (fun x => { x with lastMeter := none }) (fun _ => rfl) h) h))
  have summed {u : State} (hu : P u) := ite_keeps (c := (s.channel c).cfg.influentPoint ≠ some p) hu
    (ite_keeps (c := (!u.pointGood p .inflow) = true) (hP.channel (fun x => { x with lastInfluent := none }) (fun _ => rfl) hu)
      (ite_keeps (c := accepted = true) (hP.accumulate hu (u.pointValue p)) hu))
  exact ite_keeps (hP.judgeLevel (summed metered) _) (summed metered)

theorem ChannelChanges.losePump (h : P s) : P (s.losePump c) :=
  ite_keeps (hP.clear _ _ (hP.raise _ _ _ (hP.moveDuty h))) (hP.faultChannel h)

theorem ChannelChanges.recoverChannel (h : P s) : P (s.recoverChannel c) :=
  hP.enterFlow (hP.clear _ _ (ite_keeps h (hP.moveDuty h)))

theorem ChannelChanges.judgeChannel (h : P s) : P (s.judgeChannel c) := by
  unfold State.judgeChannel
  refine ite_keeps h ?_
  split
  · exact ite_keeps h (hP.losePump h)
  · exact ite_keeps h (hP.losePump h)
  · exact ite_keeps (hP.recoverChannel h) h
  · exact ite_keeps (hP.startChannel h) h

end

/-- The notices only grow, at the tail. -/
theorem notices_changes (c : Nat) (l : List Notice) : ChannelChanges c (fun s => l <+: s.port.notices) where
  channel _ _ h := h
  pair _ _ h := h
  notice n h := h.trans (offerNotice_prefix _ n)
  raise code src v h := h.trans (raiseAlarm_prefix _ code src v)
  clear code src h := h.trans (clearAlarm_prefix _ code src)

/-! ### Some channels alone -/

/-- Beside the running state of the channels in `C`, the duty selections of their pairs, the alarm list, the notices and the express
queue, nothing has moved from `s`. -/
structure State.OnlyChannels (C : Set Nat) (s t : State) : Prop where
  others : ∀ d, d ∉ C → t.channel d = s.channel d
  pairs : ∀ k, (∀ d ∈ C, d / 2 ≠ k) → t.pair k = s.pair k
  cfg : ∀ d, (t.channel d).cfg = (s.channel d).cfg
  joined : ∀ k, (t.pair k).joined = (s.pair k).joined
  length : t.channels.length = s.channels.length
  uptime : t.uptime = s.uptime
  stations : t.stations = s.stations
  points : t.points = s.points
  zones : t.zones = s.zones
  blowers : t.blowers = s.blowers
  pool : t.pool = s.pool
  storm : t.storm = s.storm
  hand : t.hand = s.hand
  config : t.config = s.config
  port : t.port.own = s.port.own

/-- One channel alone. -/
abbrev State.OnlyChannel (c : Nat) (s t : State) : Prop := s.OnlyChannels {c} t

variable {C D : Set Nat}

theorem State.OnlyChannels.refl (C : Set Nat) (s : State) : s.OnlyChannels C s := by constructor <;> intros <;> rfl

theorem State.OnlyChannels.trans (h : s.OnlyChannels C t) (k : t.OnlyChannels C u) : s.OnlyChannels C u where
  others d hd := (k.others d hd).trans (h.others d hd)
  pairs i hi := (k.pairs i hi).trans (h.pairs i hi)
  cfg d := (k.cfg d).trans (h.cfg d)
  joined i := (k.joined i).trans (h.joined i)
  length := k.length.trans h.length
  uptime := k.uptime.trans h.uptime
  stations := k.stations.trans h.stations
  points := k.points.trans h.points
  zones := k.zones.trans h.zones
  blowers := k.blowers.trans h.blowers
  pool := k.pool.trans h.pool
  storm := k.storm.trans h.storm
  hand := k.hand.trans h.hand
  config := k.config.trans h.config
  port := k.port.trans h.port

theorem State.OnlyChannels.mono (h : s.OnlyChannels C t) (sub : C ⊆ D) : s.OnlyChannels D t :=
  { h with others := fun d hd => h.others d fun k => hd (sub k), pairs := fun k hk => h.pairs k fun d hd => hk d (sub hd) }

theorem channel_congr (h : t.channels = s.channels) (d : Nat) : t.channel d = s.channel d := by
  unfold State.channel
  rw [h]

theorem pair_congr (h : t.pairs = s.pairs) (k : Nat) : t.pair k = s.pair k := by
  unfold State.pair
  rw [h]

theorem AlarmsOnly.onlyChannels (h : AlarmsOnly s t) (C : Set Nat) : s.OnlyChannels C t := by
  have conf := h.config
  rw [h.2] at conf ⊢
  exact ⟨fun _ _ => rfl, fun _ _ => rfl, fun _ => rfl, fun _ => rfl, rfl, rfl, rfl, rfl, rfl, rfl, rfl, rfl, rfl, conf, rfl⟩

theorem offerNotice_onlyChannels (s : State) (n : Notice) (C : Set Nat) : s.OnlyChannels C (s.offerNotice n) := by
  rw [offerNotice_eq]
  exact ⟨fun _ _ => rfl, fun _ _ => rfl, fun _ => rfl, fun _ => rfl, rfl, rfl, rfl, rfl, rfl, rfl, rfl, rfl, rfl, rfl, rfl⟩

theorem offerExpress_onlyChannels (s : State) (e : ExpressEntry) (C : Set Nat) : s.OnlyChannels C (s.offerExpress e) := by
  rw [offerExpress_eq]
  exact ⟨fun _ _ => rfl, fun _ _ => rfl, fun _ => rfl, fun _ => rfl, rfl, rfl, rfl, rfl, rfl, rfl, rfl, rfl, rfl, rfl, rfl⟩

theorem State.channel_modChannel_same (h : c < s.channels.length) (f : Channel → Channel) :
    (s.modChannel c f).channel c = f (s.channel c) := by
  rw [State.channel_modChannel, if_pos ⟨rfl, h⟩]

theorem State.channel_modChannel_ne (h : d ≠ c) (f : Channel → Channel) : (s.modChannel c f).channel d = s.channel d := by
  rw [State.channel_modChannel, if_neg fun k => h k.1.symm]

theorem State.pair_modPair_same {k : Nat} (h : k < s.pairs.length) (f : Pair → Pair) : (s.modPair k f).pair k = f (s.pair k) := by
  rw [State.pair_modPair, if_pos ⟨rfl, h⟩]

theorem State.pair_modPair_ne {k i : Nat} (h : k ≠ i) (f : Pair → Pair) : (s.modPair i f).pair k = s.pair k := by
  rw [State.pair_modPair, if_neg fun e => h e.1.symm]

theorem modChannel_onlyChannel (s : State) {f : Channel → Channel} (hf : ∀ x, (f x).cfg = x.cfg) :
    s.OnlyChannel c (s.modChannel c f) :=
  ⟨fun _ hd => State.channel_modChannel_ne hd f, fun _ _ => rfl, channelCfg_modChannel hf, fun _ => rfl, List.length_modify .., rfl, rfl,
    rfl, rfl, rfl, rfl, rfl, rfl, (config_anyChannel s.config).channel c f hf rfl, rfl⟩

theorem modPair_onlyChannel (s : State) {f : Pair → Pair} (hf : ∀ x, (f x).joined = x.joined) :
    s.OnlyChannel c (s.modPair (c / 2) f) := by
  refine ⟨fun _ _ => rfl, fun k hk => State.pair_modPair_ne (Ne.symm (hk c rfl)) f, fun _ => rfl, fun k => ?_, rfl, rfl, rfl, rfl, rfl,
    rfl, rfl, rfl, rfl, (config_anyChannel s.config).pair _ f hf rfl, rfl⟩
  rw [State.pair_modPair]
  split_ifs
  · exact hf _
  · rfl

theorem onlyChannel_changes (c : Nat) (s : State) : ChannelChanges c (s.OnlyChannel c) where
  channel _ hf h := h.trans (modChannel_onlyChannel _ hf)
  pair _ hf h := h.trans (modPair_onlyChannel _ hf)
  notice n h := h.trans (offerNotice_onlyChannels _ n _)
  raise _ _ _ h := h.trans ((raiseAlarm_only _ _ _ _).onlyChannels _)
  clear _ _ h := h.trans ((clearAlarm_only _ _ _).onlyChannels _)

/-! ### The offers that follow -/

theorem offerDrive_onlyChannels (s : State) (x : Target) (v : Drive) (C : Set Nat) : s.OnlyChannels C (s.offerDrive x v) :=
  offerExpress_onlyChannels s ⟨x, some v⟩ C

theorem syncCommands_onlyChannels (before s : State) (C : Set Nat) : s.OnlyChannels C (before.syncCommands s) :=
  have offers (run : Bool) {u : State} (sts : List Nat) (h : s.OnlyChannels C u) :
      s.OnlyChannels C (sts.foldl (fun u st => u.offerDrive (.station st) (pumpDrive run)) u) :=
    foldl_keeps (fun _ _ h => h.trans (offerDrive_onlyChannels ..)) sts h
  offers true _ (offers false _ (.refl C s))

/-- The offers move no record of a channel or of a pair. -/
theorem syncCommands_channels (before s : State) : (before.syncCommands s).channels = s.channels := by
  obtain ⟨f, hf⟩ := syncCommands_eq before s
  rw [hf]

theorem syncCommands_pairs (before s : State) : (before.syncCommands s).pairs = s.pairs := by
  obtain ⟨f, hf⟩ := syncCommands_eq before s
  rw [hf]

theorem judgeChannel_onlyChannel (s : State) (c : Nat) : s.OnlyChannel c (s.judgeChannel c) :=
  (onlyChannel_changes c s).judgeChannel (.refl _ s)

theorem judgeChannels_onlyChannels (s : State) : s.OnlyChannels Set.univ s.judgeChannels :=
  (each_keeps (P := s.OnlyChannels Set.univ) 4
    (fun c u h => h.trans ((judgeChannel_onlyChannel u c).mono (Set.subset_univ _))) (.refl _ s)).trans (syncCommands_onlyChannels _ _ _)

/-! ### What the operands read -/

theorem pumpAvailable_congr (h : t.stations = s.stations) (st : Nat) : t.pumpAvailable st = s.pumpAvailable st := by
  unfold State.pumpAvailable State.readsHealth State.readsFault State.readsLocal State.station
  rw [h]

theorem pointGood_congr (h : t.points = s.points) (p : Nat) (k : Kind) : t.pointGood p k = s.pointGood p k := by
  unfold State.pointGood State.point
  rw [h]

section
variable (hcfg : ∀ d, (t.channel d).cfg = (s.channel d).cfg)
include hcfg

theorem levelLow_congr (hp : t.points = s.points) : t.levelLow c = s.levelLow c := by
  unfold State.levelLow State.pointValue
  simp only [hcfg, pointGood_congr hp, point_congr hp]

theorem liveChannel_congr (hj : ∀ k, (t.pair k).joined = (s.pair k).joined) : t.liveChannel c = s.liveChannel c := by
  unfold State.liveChannel State.dormant
  rw [hcfg, hj]

theorem dutyPump_congr (hk : t.pair (c / 2) = s.pair (c / 2)) : t.dutyPump c = s.dutyPump c := by
  unfold State.dutyPump State.paired
  simp only [hcfg, hk]

theorem otherPump_congr (hk : t.pair (c / 2) = s.pair (c / 2)) : t.otherPump c = s.otherPump c := by
  unfold State.otherPump State.paired
  simp only [hcfg, hk]

theorem otherAvailable_congr (hk : t.pair (c / 2) = s.pair (c / 2)) (hs : t.stations = s.stations) :
    t.otherAvailable c = s.otherAvailable c := by
  unfold State.otherAvailable
  simp only [otherPump_congr hcfg hk, pumpAvailable_congr hs]

end

theorem dormant_congr (hj : ∀ k, (t.pair k).joined = (s.pair k).joined) (c : Nat) : t.dormant c = s.dormant c := by
  unfold State.dormant
  rw [hj]

theorem levelLow_iff (s : State) (c : Nat) : s.levelLow c = true
    ↔ ∃ p ∈ (s.channel c).cfg.levelPoint, s.pointGood p .level = true ∧ (s.point p).value < (s.channel c).cfg.minLevel := by
  unfold State.levelLow State.pointValue
  cases (s.channel c).cfg.levelPoint <;> simp

theorem otherAvailable_iff (s : State) (c : Nat) : s.otherAvailable c = true
    ↔ ∃ st ∈ s.otherPump c, s.pumpAvailable st = true := by
  unfold State.otherAvailable
  cases s.otherPump c <;> simp

/-! ### Entering a state -/

theorem enterChannel_channel (hc : c < s.channels.length) (st : ChannelState) :
    (s.enterChannel c st).channel c = (s.channel c).inState s.uptime st := by
  have entered : (s.modChannel c (·.inState s.uptime st)).channel c = (s.channel c).inState s.uptime st :=
    State.channel_modChannel_same hc _
  exact ite_keeps (P := fun u => u.channel c = (s.channel c).inState s.uptime st) ((channel_clearAlarm _ _ _ _).trans entered) entered

theorem State.modChannel_modChannel (s : State) (c : Nat) (f g : Channel → Channel) :
    (s.modChannel c f).modChannel c g = s.modChannel c (g ∘ f) :=
  congrArg (fun l => { s with channels := l }) (List.modify_modify_eq f g c s.channels)

theorem channel_of_getElem? {x : Channel} (h : s.channels[c]? = some x) : s.channel c = x := by
  unfold State.channel
  rw [List.getD_eq_getElem?_getD, h]
  rfl

theorem modChannel_congr {f g : Channel → Channel} (h : f (s.channel c) = g (s.channel c)) : s.modChannel c f = s.modChannel c g :=
  congrArg (fun l => { s with channels := l }) (modify_congr fun x hx => by rwa [channel_of_getElem? hx] at h)

end Sys2Proof.Machine
end

section
/-! What a channel does when it judges its pumps (R119, R120, R123), and DUTY_SWAP (R122). -/

namespace Sys2Proof.Machine

open Sys2Proof

variable {s t u : State} {h : Hdr} {c k : Nat}

/-! ### A channel that rests -/

/-- A channel that finds nothing to do when it judges its pumps. -/
def State.channelRests (s : State) (c : Nat) : Bool :=
  !s.liveChannel c || match (s.channel c).state with
    | .running | .paused => s.pumpAvailable (s.dutyPump c)
    | .faulted => !(s.pumpAvailable (s.dutyPump c) || s.otherAvailable c)
    | .disabled => !((s.channel c).autoPending && s.readsHealth (s.dutyPump c) == .live)

theorem judgeChannel_of_dead (hc : s.liveChannel c = false) : s.judgeChannel c = s := by
  unfold State.judgeChannel
  rw [hc]
  rfl

/-- R119, R120, R123: what a live channel does when it judges its pumps. -/
theorem judgeChannel_of_live (hc : s.liveChannel c = true) : s.judgeChannel c = match (s.channel c).state with
    | .running | .paused => if s.pumpAvailable (s.dutyPump c) then s else s.losePump c
    | .faulted => if s.pumpAvailable (s.dutyPump c) || s.otherAvailable c then s.recoverChannel c else s
    | .disabled => if (s.channel c).autoPending && s.readsHealth (s.dutyPump c) == .live then s.startChannel c else s := by
  unfold State.judgeChannel
  rw [hc]
  rfl

theorem judgeChannel_of_rests (hr : s.channelRests c = true) : s.judgeChannel c = s := by
  cases hl : s.liveChannel c with
  | false => exact judgeChannel_of_dead hl
  | true =>
    rw [judgeChannel_of_live hl]
    unfold State.channelRests at hr
    rw [hl] at hr
    cases hx : (s.channel c).state <;> rw [hx] at hr
    case disabled => exact if_neg (Bool.eq_false_iff.mp ((Bool.not_eq_true' _).mp hr))
    case running => exact if_pos hr
    case paused => exact if_pos hr
    case faulted => exact if_neg (by simpa using hr)

theorem channelRests_of_disabled (hx : (s.channel c).state = .disabled) (ha : (s.channel c).autoPending = false) :
    s.channelRests c = true := by
  simp [State.channelRests, hx, ha]

theorem channelRests_of_flow (hx : (s.channel c).state = .running ∨ (s.channel c).state = .paused)
    (hd : s.pumpAvailable (s.dutyPump c) = true) : s.channelRests c = true := by
  rcases hx with hx | hx <;> simp [State.channelRests, hx, hd]

theorem channelRests_of_faulted (hx : (s.channel c).state = .faulted) (hd : s.pumpAvailable (s.dutyPump c) = false)
    (ho : s.otherAvailable c = false) : s.channelRests c = true := by
  simp [State.channelRests, hx, hd, ho]

theorem channelRests_of_dead (hc : s.liveChannel c = false) : s.channelRests c = true := by
  simp [State.channelRests, hc]

/-! ### The judgement of a pair's channels -/

/-- What a channel judges by is its own record, its pair, the configuration and the stations. -/
theorem channelRests_congr (hc : t.channel c = s.channel c) (hk : t.pair (c / 2) = s.pair (c / 2))
    (hcfg : ∀ d, (t.channel d).cfg = (s.channel d).cfg) (hj : ∀ k, (t.pair k).joined = (s.pair k).joined)
    (hs : t.stations = s.stations) : t.channelRests c = s.channelRests c := by
  have health (st : Nat) : t.readsHealth st = s.readsHealth st := by
    unfold State.readsHealth State.station
    rw [hs]
  unfold State.channelRests
  simp only [liveChannel_congr hcfg hj, hc, pumpAvailable_congr hs, dutyPump_congr hcfg hk, otherAvailable_congr hcfg hk hs, health]

/-- The pair and its two channels stand as they stood. -/
structure State.PairStands (k : Nat) (s t : State) : Prop where
  pair : t.pair k = s.pair k
  channels : ∀ c, c / 2 = k → t.channel c = s.channel c
  cfg : ∀ d, (t.channel d).cfg = (s.channel d).cfg
  joined : ∀ i, (t.pair i).joined = (s.pair i).joined
  stations : t.stations = s.stations

/-- A pair whose channels both rest stands, whatever the other pair's channels do. -/
theorem judgeChannels_pairStands (hr : ∀ c, c / 2 = k → s.channelRests c = true) : s.PairStands k s.judgeChannels := by
  have judged : s.PairStands k (s.each 4 State.judgeChannel) := by
    refine each_keeps (P := s.PairStands k) 4 (fun c u hu => ?_) ⟨rfl, fun _ _ => rfl, fun _ => rfl, fun _ => rfl, rfl⟩
    by_cases hc : c / 2 = k
    · have rests : u.channelRests c = true :=
        (channelRests_congr (hu.channels c hc) (hc ▸ hu.pair) hu.cfg hu.joined hu.stations).trans (hr c hc)
      rw [show State.judgeChannel c u = u from judgeChannel_of_rests rests]
      exact hu
    · have only := judgeChannel_onlyChannel u c
      exact ⟨(only.pairs k (by rintro _ rfl; exact hc)).trans hu.pair,
        fun d hd => (only.others d (by rintro rfl; exact hc hd)).trans (hu.channels d hd),
        fun d => (only.cfg d).trans (hu.cfg d), fun i => (only.joined i).trans (hu.joined i), only.stations.trans hu.stations⟩
  obtain ⟨f, hf⟩ := syncCommands_eq s (s.each 4 State.judgeChannel)
  have synced : s.judgeChannels = { s.each 4 State.judgeChannel with flc := f } := hf
  rw [synced]
  exact ⟨judged.pair, judged.channels, judged.cfg, judged.joined, judged.stations⟩

/-! ### Changeover, fault, recovery -/

/-- R119. -/
theorem losePump_eq (s : State) (c : Nat) (st : ChannelState) (hx : (s.channel c).state = st) : s.losePump c =
    let moved := s.modPair (c / 2) fun p => { p with duty := if p.duty = .first then .partner else .first }
    let faulted := s.modChannel c fun x => { x with state := .faulted, pauseStart := none, pauseDeadline := none }
    if s.otherAvailable c then (moved.raiseAlarm .channelChangeover (.channel c) none).clearAlarm .channelChangeover (.channel c)
    else (if st = .paused then faulted.clearAlarm .channelPausedLong (.channel c) else faulted).raiseAlarm
      .channelNoPump (.channel c) none := by
  subst hx
  rfl

/-- R112, R120: the entry of a channel that is not PAUSED, by its level. -/
theorem enterFlow_eq (hx : (s.channel c).state ≠ .paused) : s.enterFlow c =
    if s.levelLow c then s.modChannel c fun x =>
      { x with state := .paused, pauseStart := some s.uptime, pauseDeadline := some (s.uptime + x.cfg.pauseLimit * 60) }
    else s.modChannel c fun x => { x with state := .running, pauseStart := none, pauseDeadline := none } := by
  unfold State.enterFlow
  split_ifs
  · exact if_neg hx
  · exact if_neg hx

/-- R120: what a channel recovers from stays FAULTED until it enters a state. -/
theorem recovered_onlyChannel (s : State) (c : Nat) : s.OnlyChannel c
    ((if s.pumpAvailable (s.dutyPump c) then s else s.moveDuty c).clearAlarm .channelNoPump (.channel c)) := by
  have changes := onlyChannel_changes c s
  exact changes.clear _ _ (ite_keeps (.refl _ s) (changes.moveDuty (.refl _ s)))

theorem recoverChannel_eq (hx : (s.channel c).state = .faulted) : s.recoverChannel c =
    let moved := s.modPair (c / 2) fun p => { p with duty := if p.duty = .first then .partner else .first }
    let recovered := (if s.pumpAvailable (s.dutyPump c) then s else moved).clearAlarm .channelNoPump (.channel c)
    if s.levelLow c then recovered.modChannel c fun x =>
      { x with state := .paused, pauseStart := some s.uptime, pauseDeadline := some (s.uptime + x.cfg.pauseLimit * 60) }
    else recovered.modChannel c fun x => { x with state := .running, pauseStart := none, pauseDeadline := none } := by
  have only := recovered_onlyChannel s c
  have same := (channel_clearAlarm (if s.pumpAvailable (s.dutyPump c) then s else s.moveDuty c) .channelNoPump (.channel c) c).trans
    (ite_keeps (P := fun u => u.channel c = s.channel c) rfl rfl)
  rw [← levelLow_congr only.cfg only.points, ← only.uptime]
  exact enterFlow_eq (by rw [same, hx]; decide)

/-! ### DUTY_SWAP -/

/-- R122: the duty selection moves to the other pump. -/
def State.dutyMoved (s : State) (k : Nat) : State :=
  s.modPair k fun p => { p with duty := if p.duty = .first then .partner else .first }

theorem moveDuty_eq (s : State) (k : Nat) : s.moveDuty (2 * k) = s.dutyMoved k := by
  unfold State.moveDuty
  rw [Nat.mul_div_cancel_left k (by decide)]
  rfl

theorem dutyMoved_pair (hk : k < s.pairs.length) : (s.dutyMoved k).pair k
    = { s.pair k with duty := if (s.pair k).duty = .first then .partner else .first } := State.pair_modPair_same hk _

theorem dutyMoved_joined (s : State) (k i : Nat) : ((s.dutyMoved k).pair i).joined = (s.pair i).joined := by
  unfold State.dutyMoved
  rw [State.pair_modPair]
  split_ifs <;> rfl

/-- The two pumps of a joined pair change their parts. -/
theorem pumps_after_move (hk : k < s.pairs.length) (hj : (s.pair k).joined = true) :
    s.otherPump (2 * k) = some ((s.dutyMoved k).dutyPump (2 * k)) ∧ (s.dutyMoved k).otherPump (2 * k) = some (s.dutyPump (2 * k)) := by
  have hdiv : 2 * k / 2 = k := by omega
  have before : s.paired (2 * k) = true := by simp [State.paired, hj]
  have after : (s.dutyMoved k).paired (2 * k) = true := by simp [State.paired, dutyMoved_joined, hj]
  unfold State.otherPump State.dutyPump
  simp only [before, after, if_true, hdiv, dutyMoved_pair hk]
  cases (s.pair k).duty <;> exact ⟨rfl, rfl⟩

/-- The upper channel of a joined pair is dormant. -/
theorem upper_dead (hj : (s.pair k).joined = true) : s.liveChannel (2 * k + 1) = false := by
  have odd : (2 * k + 1) % 2 = 1 := by omega
  have half : (2 * k + 1) / 2 = k := by omega
  simp [State.liveChannel, State.dormant, odd, half, hj]

/-- R122: the states in which the duty selection stands after a swap. -/
theorem dutyMoved_rests (hk : k < s.pairs.length) (hj : (s.pair k).joined = true)
    (hr : (((s.channel (2 * k)).state = .running ∨ (s.channel (2 * k)).state = .paused) ∧ s.otherAvailable (2 * k) = true)
      ∨ ((s.channel (2 * k)).state = .disabled ∧ (s.channel (2 * k)).autoPending = false)
      ∨ ((s.channel (2 * k)).state = .faulted ∧ s.otherAvailable (2 * k) = false ∧ s.pumpAvailable (s.dutyPump (2 * k)) = false))
    (hc : c / 2 = k) : (s.dutyMoved k).channelRests c = true := by
  obtain ⟨duty, other⟩ := pumps_after_move hk hj
  have otherBefore : s.otherAvailable (2 * k) = (s.dutyMoved k).pumpAvailable ((s.dutyMoved k).dutyPump (2 * k)) := by
    unfold State.otherAvailable
    rw [duty]
    rfl
  have otherAfter : (s.dutyMoved k).otherAvailable (2 * k) = s.pumpAvailable (s.dutyPump (2 * k)) := by
    unfold State.otherAvailable
    rw [other]
    rfl
  obtain rfl | rfl : c = 2 * k ∨ c = 2 * k + 1 := by omega
  · rcases hr with ⟨hx, ho⟩ | ⟨hx, ha⟩ | ⟨hx, ho, hd⟩
    · exact channelRests_of_flow hx (otherBefore ▸ ho)
    · exact channelRests_of_disabled hx ha
    · exact channelRests_of_faulted hx (otherBefore ▸ ho) (otherAfter ▸ hd)
  · exact channelRests_of_dead (upper_dead (by rw [dutyMoved_joined, hj]))

/-- The handling of an accepted DUTY_SWAP. -/
def State.swapDuty (s : State) (k : Nat) : State := (s.syncCommands (s.dutyMoved k)).judgeChannels

theorem swapDuty_onlyChannels (s : State) (k : Nat) : s.OnlyChannels Set.univ (s.swapDuty k) := by
  have moved : s.OnlyChannel (2 * k) (s.dutyMoved k) := by
    rw [← moveDuty_eq]
    exact (onlyChannel_changes (2 * k) s).moveDuty (.refl _ s)
  exact ((moved.mono (Set.subset_univ _)).trans (syncCommands_onlyChannels _ _ _)).trans (judgeChannels_onlyChannels _)

/-- A pair that rests with its duty selection moved keeps it so. -/
theorem swapDuty_pairStands (hr : ∀ c, c / 2 = k → (s.dutyMoved k).channelRests c = true) :
    (s.dutyMoved k).PairStands k (s.swapDuty k) := by
  obtain ⟨f, hf⟩ := syncCommands_eq s (s.dutyMoved k)
  unfold State.swapDuty
  rw [hf]
  have stands := judgeChannels_pairStands (s := { s.dutyMoved k with flc := f }) hr
  exact ⟨stands.pair, stands.channels, stands.cfg, stands.joined, stands.stations⟩

theorem handleDutySwap_refused (hk : k < 2) (hj : (s.pair k).joined = false ∨
    (((s.channel (2 * k)).state = .running ∨ (s.channel (2 * k)).state = .paused) ∧ s.otherAvailable (2 * k) = false)) :
    handleDutySwap k s = s.refused := by
  unfold handleDutySwap
  dsimp only
  rw [if_neg (Nat.not_le.mpr hk)]
  cases joined : (s.pair k).joined with
  | false => rfl
  | true =>
    obtain ⟨hx, ho⟩ := hj.resolve_left (by simp [joined])
    rw [if_neg (by decide), if_pos ⟨hx, by simp [ho]⟩]

theorem handleDutySwap_done (hk : k < 2) (hj : (s.pair k).joined = true)
    (ho : (s.channel (2 * k)).state = .running ∨ (s.channel (2 * k)).state = .paused → s.otherAvailable (2 * k) = true) :
    handleDutySwap k s = (s.swapDuty k).done := by
  unfold handleDutySwap
  dsimp only
  rw [if_neg (Nat.not_le.mpr hk), hj, if_neg (by decide), if_neg fun hx => hx.2 (ho hx.1)]
  unfold State.withCommands State.swapDuty
  dsimp only
  rw [moveDuty_eq]

theorem judgeChannel_of_flow (hc : s.liveChannel c = true) (hx : (s.channel c).state = .running ∨ (s.channel c).state = .paused)
    (hd : ¬ s.pumpAvailable (s.dutyPump c) = true) : s.judgeChannel c = s.losePump c := by
  rw [judgeChannel_of_live hc]
  rcases hx with hx | hx <;> rw [hx] <;> exact if_neg hd

theorem judgeChannel_of_faulted (hc : s.liveChannel c = true) (hx : (s.channel c).state = .faulted)
    (ha : s.pumpAvailable (s.dutyPump c) = true ∨ s.otherAvailable c = true) : s.judgeChannel c = s.recoverChannel c := by
  rw [judgeChannel_of_live hc, hx]
  exact if_pos (by simpa using ha)

/-- Settles O33: a swap leaves the pair where its channels rest with the duty moved, and a live channel judges its pumps by its state. -/
theorem dutySwapMovesTheDuty : Obligations.DutySwapMovesTheDuty := by
  refine ⟨fun s h k hs hk hlen => ?_, fun s c hc => judgeChannel_of_dead hc, fun s c hc => ?_⟩
  · intro st other a
    have refuses (hx : handleDutySwap k a = a.refused) : exec (.dutySwap h k) s = .next (a.answered h 30 .refused []) :=
      exec_status (q := ⟨h, .dutySwap k⟩) rfl hs (handleDutySwap k a) rfl hx (by decide)
    have available : s.otherAvailable (2 * k) = true ↔ other := otherAvailable_iff s (2 * k)
    refine ⟨fun hj => refuses (handleDutySwap_refused (s := a) hk (.inl hj)), fun _ hx ho =>
      refuses (handleDutySwap_refused (s := a) hk (.inr ⟨hx, Bool.eq_false_iff.mpr fun hn => ho (available.mp hn)⟩)), fun hj ho => ?_⟩
    have done : exec (.dutySwap h k) s = .next ((a.swapDuty k).answered h 30 .done []) :=
      exec_effect (q := ⟨h, .dutySwap k⟩) rfl hs (x := handleDutySwap k a) rfl
        (handleDutySwap_done (s := a) hk hj fun hx => available.mpr (ho hx))
    have settled := Settled.answered (a.swapDuty k) h 30 .done []
    have only := swapDuty_onlyChannels a k
    have duty (stands : (a.dutyMoved k).PairStands k (a.swapDuty k)) : (((a.swapDuty k).answered h 30 .done []).pair k).duty
        = if (s.pair k).duty = .first then .partner else .first := by
      rw [pair_congr settled.pairs, stands.pair, dutyMoved_pair (s := a) hlen]
      rfl
    have stands := fun hr => swapDuty_pairStands (s := a) fun c => dutyMoved_rests (s := a) (c := c) hlen hj hr
    refine ⟨_, done, answered_replied only.port 30 .done [], settled.config.trans only.config, fun hx => ?_,
      fun hx hl hno hd => ?_, rfl, settled.hand.trans only.hand, settled.zones.trans only.zones,
      settled.points.trans only.points, settled.blowers.trans only.blowers, settled.stations.trans only.stations⟩
    · rcases hx with hx | hx | hx
      · exact duty (stands (.inl ⟨.inl hx, available.mpr (ho (.inl hx))⟩))
      · exact duty (stands (.inl ⟨.inr hx, available.mpr (ho (.inr hx))⟩))
      · exact duty (stands (.inr (.inl hx)))
    · have faulted := stands (.inr (.inr ⟨hx, Bool.eq_false_iff.mpr fun hn => hno (available.mp hn), hd⟩))
      refine ⟨duty faulted, ?_⟩
      rw [channel_congr settled.channels, faulted.channels _ (by omega)]
      exact hx
  · intro x duty other low moved faulted recovered
    have available : s.otherAvailable c = true ↔ other := otherAvailable_iff s c
    have lowLevel : s.levelLow c = true ↔ low := levelLow_iff s c
    have recovers (hx : x.state = .faulted) (ha : duty ∨ other) : s.judgeChannel c = s.recoverChannel c :=
      judgeChannel_of_faulted hc hx (ha.imp_right available.mpr)
    refine ⟨fun hx => ⟨fun hd => judgeChannel_of_rests (channelRests_of_flow hx hd), fun hd ho => ?_, fun hd ho => ?_⟩,
      fun hx => ⟨fun hd ho => ?_, fun ha hl => ?_, fun ha hl => ?_⟩, fun hx => ?_⟩
    · rw [judgeChannel_of_flow hc hx hd, losePump_eq s c _ rfl]
      exact if_pos (available.mpr ho)
    · rw [judgeChannel_of_flow hc hx hd, losePump_eq s c _ rfl]
      exact if_neg (mt available.mp ho)
    · exact judgeChannel_of_rests (channelRests_of_faulted hx (Bool.eq_false_iff.mpr hd) (Bool.eq_false_iff.mpr (mt available.mp ho)))
    · rw [recovers hx ha, recoverChannel_eq hx]
      exact if_pos (lowLevel.mpr hl)
    · rw [recovers hx ha, recoverChannel_eq hx]
      exact if_neg (mt lowLevel.mp hl)
    · rw [judgeChannel_of_live hc, show (s.channel c).state = .disabled from hx]

end Sys2Proof.Machine
end

section
/-! An accepted CHANNEL_WRITE (R108, R142). -/

namespace Sys2Proof.Machine

open Sys2Proof

variable {s : State} {h : Hdr} {i : Nat} {c : ChannelCfg}

theorem config_modChannel {f : Channel → Channel} (hf : ∀ x, (f x).cfg = c) (s : State) (i : Nat) :
    (s.modChannel i f).config = { s.config with channels := s.config.channels.modify i fun _ => c } :=
  congrArg (fun l => { s.config with channels := l }) (map_modify_const Channel.cfg hf s.channels i)

/-- The ends of the passages change no configuration. -/
theorem rewriteChannel_config (s : State) (i : Nat) (c : ChannelCfg) :
    (s.rewriteChannel i c).config = { s.config with channels := s.config.channels.modify i fun _ => c } :=
  foldl_keeps (P := fun u => u.config = _) (fun _ st hu => (config_plant _).endPassage hu ⟨.pump, st⟩ false) (s.formerPumps i)
    (config_modChannel (f := (·.rewritten c)) (fun _ => rfl) s i)

/-- R108: the record after the write. -/
theorem rewritten_eq (x : Channel) (c : ChannelCfg) : x.rewritten c = { x with
    cfg := c, autoPending := false, lastMeter := if c.volumePoint = x.cfg.volumePoint then x.lastMeter else none,
    accumulator := if c.influentPoint = x.cfg.influentPoint then x.accumulator else 0,
    lastInfluent := if c.influentPoint = x.cfg.influentPoint then x.lastInfluent else none } := by
  unfold Channel.rewritten
  simp only [ne_eq, ite_not]

/-- R142: the pumps whose passages end are the channel's own, where it was configured, and a joined pair's partner. -/
theorem mem_formerPumps (s : State) (i st : Nat) : st ∈ s.formerPumps i ↔
    ((s.channel i).cfg.configured = true ∧ st = (s.channel i).cfg.pump)
      ∨ (i % 2 = 0 ∧ (s.pair (i / 2)).joined = true ∧ st = (s.channel (i + 1)).cfg.pump) := by
  unfold State.formerPumps State.paired
  rw [List.mem_append]
  split_ifs with own partner partner <;> simp_all

/-- A passage stays unless it is on a former pump. -/
theorem rewriteChannel_hand (s : State) (i : Nat) (c : ChannelCfg) : (s.rewriteChannel i c).hand = s.hand.filter fun p =>
    ¬ ((s.channel i).cfg.configured = true ∧ p.target = ⟨.pump, (s.channel i).cfg.pump⟩)
      ∧ ¬ (i % 2 = 0 ∧ (s.pair (i / 2)).joined = true ∧ p.target = ⟨.pump, (s.channel (i + 1)).cfg.pump⟩) := by
  obtain ⟨f, hf⟩ := rewriteChannel_eq s i c
  rw [hf]
  refine List.filter_congr fun p _ => ?_
  obtain ⟨⟨kind, st⟩, _⟩ := p
  rw [Bool.eq_iff_iff]
  cases kind with
  | zone => simp
  | pump => simp [mem_formerPumps]

theorem handleChannelWrite_done (hi : i < 4) (hd : s.dormant i = false) (hst : (s.channel i).state = .disabled)
    (ok : s.channelOk i c = true) : handleChannelWrite i c s = (s.rewriteChannel i c).done := by
  unfold handleChannelWrite
  rw [if_neg (Nat.not_le.mpr hi), hd, if_neg Bool.false_ne_true, if_neg (not_not.mpr hst), acceptIf_true ok]

/-- Settles O30: the rewrite, and the passages it ends. -/
theorem channelWriteRewritesTheChannel : Obligations.ChannelWriteRewritesTheChannel := by
  intro s h i c hs hi hd hst ok x
  let a := s.addressed h
  obtain ⟨f, hf⟩ := rewriteChannel_eq a i c
  have settled := Settled.answered (a.rewriteChannel i c) h 25 .done []
  have kept : (a.rewriteChannel i c).pairs = s.pairs ∧ (a.rewriteChannel i c).zones = s.zones
      ∧ (a.rewriteChannel i c).points = s.points ∧ (a.rewriteChannel i c).blowers = s.blowers
      ∧ (a.rewriteChannel i c).port = a.port := by
    rw [hf]
    exact ⟨rfl, rfl, rfl, rfl, rfl⟩
  obtain ⟨pairs, zones, points, blowers, port⟩ := kept
  refine ⟨(a.rewriteChannel i c).answered h 25 .done [], exec_effect (q := ⟨h, .channelWrite i c⟩) rfl hs (x := handleChannelWrite i c a) rfl
    (handleChannelWrite_done (s := a) hi hd hst ok), answered_replied (congrArg Port.own port) 25 .done [], ?_,
    settled.pairs.trans pairs, settled.config.trans (rewriteChannel_config a i c), settled.hand.trans (rewriteChannel_hand a i c),
    settled.zones.trans zones, settled.points.trans points, settled.blowers.trans blowers⟩
  have written : (a.rewriteChannel i c).channels = s.channels.modify i (·.rewritten c) := by
    rw [hf]
    rfl
  exact (settled.channels.trans written).trans (congrArg (s.channels.modify i) (funext fun y => rewritten_eq y c))

end Sys2Proof.Machine
end

section
/-! PAIR_SET (R121, R138). -/

namespace Sys2Proof.Machine

open Sys2Proof

variable {s : State} {h : Hdr} {k : Nat} {join : Bool}

/-! ### A join and a parting -/

/-- R121: a parting. -/
def State.pairParted (s : State) (k : Nat) : State :=
  (s.modPair k fun p => { p with joined := false }).modChannel (2 * k + 1) fun x => Channel.start x.cfg

/-- R121, R138: a join. -/
def State.pairJoined (s : State) (k : Nat) : State :=
  ((s.modPair k fun p => { p with joined := true }).modChannel (2 * k + 1) fun x => { x with autoPending := false }).joinHandStop
    (s.channel (2 * k)).cfg.pump (s.channel (2 * k + 1)).cfg.pump

/-- The handling of a PAIR_SET that moves the flag, before the channels judge their pumps. -/
def State.setPair (s : State) (k : Nat) (join : Bool) : State := if join then s.joinPair k else s.partPair k

theorem setPair_eq (s : State) (k : Nat) (join : Bool) :
    s.setPair k join = s.syncCommands (if join then s.pairJoined k else s.pairParted k) := by
  cases join with
  | false => rfl
  | true =>
    have cfg : ∀ d, (((s.modPair k fun p => { p with joined := true }).modChannel (2 * k + 1) fun x =>
        { x with autoPending := false }).channel d).cfg = (s.channel d).cfg := channelCfg_modChannel fun _ => rfl
    have joined : s.joinPair k = s.syncCommands (((s.modPair k fun p => { p with joined := true }).modChannel (2 * k + 1) fun x =>
        { x with autoPending := false }).joinHandStop _ _) := rfl
    rw [cfg, cfg] at joined
    exact joined

/-- What a PAIR_SET that moves the flag does, offers apart. -/
theorem setPair_moves (s : State) (k : Nat) (join : Bool) : ∃ f, s.setPair k join =
    { (s.modPair k fun p => { p with joined := join }).modChannel (2 * k + 1) fun x =>
        if join then { x with autoPending := false } else Channel.start x.cfg with
      hand := if join && s.pumpHeldRun (s.channel (2 * k)).cfg.pump && s.pumpHeldRun (s.channel (2 * k + 1)).cfg.pump then
          s.hand.map fun p => if p.target = ⟨.pump, (s.channel (2 * k + 1)).cfg.pump⟩ then { p with demand := .stop 0 } else p
        else s.hand,
      flc := f } := by
  cases join with
  | false => exact partPair_eq s k
  | true =>
    obtain ⟨f, hf⟩ := joinPair_eq s k
    simp only [beq_iff_eq] at hf
    exact ⟨f, hf⟩

/-- The end of a handling in which the pairs' flags move. -/
theorem config_modPair {f : Pair → Pair} {p : Pair} (hf : ∀ x, (⟨(f x).joined, .first⟩ : Pair) = p) (s : State) (k : Nat) :
    (s.modPair k f).config = { s.config with pairs := s.config.pairs.modify k fun _ => p } :=
  congrArg (fun l => { s.config with pairs := l }) (map_modify_const (fun x : Pair => (⟨x.joined, .first⟩ : Pair)) hf s.pairs k)

theorem joinHandStop_config (s : State) (first partner : Nat) : (s.joinHandStop first partner).config = s.config :=
  ite_keeps (P := fun u => u.config = s.config) ((config_plant s.config).offerDrive rfl _ _) rfl

theorem setPair_config (s : State) (k : Nat) (join : Bool) :
    (s.setPair k join).config = { s.config with pairs := s.config.pairs.modify k fun _ => ⟨join, .first⟩ } := by
  have paired := config_modPair (f := fun p => { p with joined := join }) (p := ⟨join, .first⟩) (fun _ => rfl) s k
  have plant := config_plant { s.config with pairs := s.config.pairs.modify k fun _ => ⟨join, .first⟩ }
  have any := config_anyChannel { s.config with pairs := s.config.pairs.modify k fun _ => ⟨join, .first⟩ }
  cases join with
  | false => exact plant.syncCommands (any.channel (2 * k + 1) (fun x => Channel.start x.cfg) (fun _ => rfl) paired) s
  | true =>
    have joined := any.channel (2 * k + 1) (fun x => { x with autoPending := false }) (fun _ => rfl) paired
    exact plant.syncCommands ((joinHandStop_config _ _ _).trans joined) s

/-! ### The channels after it -/

theorem setPair_channel (s : State) (k : Nat) (join : Bool) (d : Nat) : (s.setPair k join).channel d
    = (s.modChannel (2 * k + 1) fun x => if join then { x with autoPending := false } else Channel.start x.cfg).channel d := by
  obtain ⟨f, hf⟩ := setPair_moves s k join
  rw [hf]
  rfl

theorem setPair_lower (s : State) (k : Nat) (join : Bool) : (s.setPair k join).channel (2 * k) = s.channel (2 * k) :=
  (setPair_channel s k join _).trans (State.channel_modChannel_ne (by omega) _)

theorem setPair_parted (hc : 2 * k + 1 < s.channels.length) :
    (s.setPair k false).channel (2 * k + 1) = Channel.start (s.channel (2 * k + 1)).cfg :=
  (setPair_channel s k false _).trans (State.channel_modChannel_same hc _)

/-- R123: the upper channel waits for no start, after a join as after a parting. -/
theorem setPair_upper (hx : (s.channel (2 * k + 1)).state = .disabled) (join : Bool) :
    ((s.setPair k join).channel (2 * k + 1)).state = .disabled
      ∧ ((s.setPair k join).channel (2 * k + 1)).autoPending = false := by
  rw [setPair_channel]
  by_cases hc : 2 * k + 1 < s.channels.length
  · rw [State.channel_modChannel_same hc]
    cases join with
    | false => exact ⟨rfl, rfl⟩
    | true => exact ⟨hx, rfl⟩
  · rw [channel_beyond (by simpa using hc)]
    exact ⟨rfl, rfl⟩

theorem setPair_duty (s : State) (k : Nat) (join : Bool) : ((s.setPair k join).pair k).duty = (s.pair k).duty := by
  obtain ⟨f, hf⟩ := setPair_moves s k join
  rw [hf]
  change (State.pair (State.modPair _ _ _) _).duty = _
  rw [State.pair_modPair]
  split_ifs <;> rfl

/-- A DISABLED channel that waits for no start stands, whatever the others do. -/
theorem judgeChannels_channel_of_disabled {d : Nat} (hx : (s.channel d).state = .disabled)
    (ha : (s.channel d).autoPending = false) : s.judgeChannels.channel d = s.channel d := by
  have judged : (s.each 4 State.judgeChannel).channel d = s.channel d := by
    refine each_keeps (P := fun u => u.channel d = s.channel d) 4 (fun c u hu => ?_) rfl
    by_cases hc : c = d
    · subst hc
      rw [show State.judgeChannel c u = u from judgeChannel_of_rests (channelRests_of_disabled (by rw [hu, hx]) (by rw [hu, ha]))]
      exact hu
    · exact ((judgeChannel_onlyChannel u c).others d fun e => hc e.symm).trans hu
  exact (channel_congr (syncCommands_channels _ _) d).trans judged

/-! ### The request -/

theorem handlePairSet_busy (hk : k < 2) (hx : (s.channel (2 * k)).state ≠ .disabled ∨ (s.channel (2 * k + 1)).state ≠ .disabled) :
    handlePairSet k join s = s.busy := (if_neg (Nat.not_le.mpr hk)).trans (if_pos hx)

section
variable (hk : k < 2) (lower : (s.channel (2 * k)).state = .disabled) (upper : (s.channel (2 * k + 1)).state = .disabled)
include hk lower upper

theorem handlePairSet_of_disabled : handlePairSet k join s = if (s.pair k).joined = join then s.done else if join then
      s.acceptIf ((s.channel (2 * k)).cfg.configured && (s.channel (2 * k + 1)).cfg.configured) (s.joinPair k).judgeChannels
    else (s.partPair k).judgeChannels.done :=
  (if_neg (Nat.not_le.mpr hk)).trans (if_neg (by simp [lower, upper]))

theorem handlePairSet_done (hj : (s.pair k).joined ≠ join)
    (hc : join = true → (s.channel (2 * k)).cfg.configured = true ∧ (s.channel (2 * k + 1)).cfg.configured = true) :
    handlePairSet k join s = (s.setPair k join).judgeChannels.done := by
  rw [handlePairSet_of_disabled hk lower upper, if_neg hj]
  cases join with
  | false => rfl
  | true => exact acceptIf_true (by simp [hc rfl]) _ _

end

/-- Settles O32: the flag and the upper channel, then the channels judge their pumps. -/
theorem pairSetJoinsAndParts : Obligations.PairSetJoinsAndParts := by
  intro s h k join hs hk lower upper a
  refine ⟨fun hx => exec_status (q := ⟨h, .pairSet k join⟩) rfl hs (handlePairSet k join a) rfl (handlePairSet_busy hk hx) (by decide),
    fun hl hu => ⟨fun hj => ?_, fun hj hc => ?_, fun hj hc => ?_⟩, fun first partner hf hp => ?_⟩
  · refine exec_effect (q := ⟨h, .pairSet k join⟩) rfl hs (x := handlePairSet k join a) rfl ?_
    exact (handlePairSet_of_disabled (s := a) hk hl hu).trans (if_pos hj)
  · refine exec_status (q := ⟨h, .pairSet k true⟩) rfl hs (handlePairSet k true a) rfl ?_ (by decide)
    have flag : (a.pair k).joined ≠ true := Bool.eq_false_iff.mp hj
    rw [handlePairSet_of_disabled (s := a) hk hl hu, if_neg flag]
    exact acceptIf_false (Bool.eq_false_iff.mpr fun both => hc ((Bool.and_eq_true _ _).mp both)) _ _
  · let u := a.setPair k join
    have settled := Settled.answered u.judgeChannels h 29 .done []
    have only := judgeChannels_onlyChannels u
    obtain ⟨f, hf⟩ := setPair_moves a k join
    have moved : u.zones = s.zones ∧ u.points = s.points ∧ u.blowers = s.blowers ∧ u.stations = s.stations ∧ u.port = a.port := by
      rw [show u = _ from hf]
      exact ⟨rfl, rfl, rfl, rfl, rfl⟩
    obtain ⟨zones, points, blowers, stations, port⟩ := moved
    have hand : u.hand = _ := congrArg State.hand hf
    obtain ⟨upperState, upperAuto⟩ := setPair_upper (s := a) hu join
    refine ⟨u.judgeChannels.answered h 29 .done [], exec_effect (q := ⟨h, .pairSet k join⟩) rfl hs (x := handlePairSet k join a) rfl
      (handlePairSet_done (s := a) hk hl hu hj hc), answered_replied (only.port.trans (congrArg Port.own port)) 29 .done [],
      settled.config.trans (only.config.trans (setPair_config a k join)), ?_, settled.hand.trans (only.hand.trans hand), fun ha => ?_, ?_,
      settled.zones.trans (only.zones.trans zones), settled.points.trans (only.points.trans points),
      settled.blowers.trans (only.blowers.trans blowers), settled.stations.trans (only.stations.trans stations)⟩
    · rintro rfl hlen
      exact ((channel_congr settled.channels _).trans (judgeChannels_channel_of_disabled upperState upperAuto)).trans
        (setPair_parted (s := a) hlen)
    · have stands : u.PairStands k u.judgeChannels := judgeChannels_pairStands fun c hc => by
        obtain rfl | rfl : c = 2 * k ∨ c = 2 * k + 1 := by omega
        · have same : u.channel (2 * k) = s.channel (2 * k) := setPair_lower a k join
          exact channelRests_of_disabled (by rw [same]; exact hl) (by rw [same]; exact ha)
        · exact channelRests_of_disabled upperState upperAuto
      rw [pair_congr settled.pairs, stands.pair]
      exact setPair_duty a k join
    · exact congrArg (fun v : State => v.judgeChannels.answered h 29 .done []) (setPair_eq a k join)
  · unfold State.joinHandStop
    rw [hf, hp]
    simp only [beq_iff_eq]
    rfl

end Sys2Proof.Machine
end

section
/-! The offers at a change of a pump's command (R110), and HAND_DRIVE of a pump (R137 to R139, R144). -/

namespace Sys2Proof.Machine

open Sys2Proof

variable {s t : State} {h : Hdr} {i st : Nat} {run : Bool} {k : TimeoutCode}

/-! ### The pumps whose command has changed (R110) -/

theorem nodup_eraseDups {α : Type} [DecidableEq α] : ∀ l : List α, l.eraseDups.Nodup
  | [] => List.nodup_nil
  | x :: l => by
    rw [List.eraseDups_cons, List.nodup_cons]
    exact ⟨by simp, nodup_eraseDups _⟩
termination_by l => l.length
decreasing_by exact Nat.lt_succ_of_le (List.length_filter_le _ _)

theorem mem_pumpStations (s : State) (st : Nat) : st ∈ s.pumpStations ↔ ∃ c < 4, (s.channel c).cfg.pump = st := by
  unfold State.pumpStations
  rw [List.mem_eraseDups]
  simp

theorem mem_changedPumps (before s : State) (run : Bool) (st : Nat) : st ∈ before.changedPumps s run ↔
    (∃ c < 4, (s.channel c).cfg.pump = st) ∧ s.pumpRun st = run ∧ before.pumpRun st ≠ run ∧ s.pumpHeld st = false := by
  unfold State.changedPumps
  rw [List.mem_filter, mem_pumpStations]
  simp [and_assoc]

theorem nodup_changedPumps (before s : State) (run : Bool) : (before.changedPumps s run).Nodup :=
  (nodup_eraseDups _).filter _

/-! ### The end of a pump's passage (R143, R144) -/

theorem endPassage_of_held (hp : (s.passage ⟨.pump, st⟩).isSome) (byLoss : Bool) :
    let ended : State := { s with hand := s.hand.filter fun p => p.target ≠ ⟨.pump, st⟩ }
    s.endPassage ⟨.pump, st⟩ byLoss = s.syncCommands
      (if byLoss then ended else ended.offerDrive (.station st) (pumpDrive (ended.pumpRun st))) := by
  obtain ⟨p, hp⟩ := Option.isSome_iff_exists.mp hp
  unfold State.endPassage
  rw [hp, dropPassage_eq]

/-! ### The checks of Table 53 -/

/-- Tables 7 and 53: the pumps a passage may hold. -/
theorem ownedPump_iff (s : State) (st : Nat) : s.ownedPump st = true ↔ s.channelOfPump st ≠ none
    ∨ ∃ k < 2, (s.pair k).joined = true ∧ (s.channel (2 * k + 1)).cfg.pump = st := by
  unfold State.ownedPump State.partnerPump
  simp [Option.isSome_iff_ne_none]

/-- R138: the interlock stands in the way of RUN alone. -/
theorem interlocked_iff (s : State) (st : Nat) (run : Bool) : s.interlocked ⟨.pump, st⟩ (pumpDrive run) = false ↔
    (run = true → ∀ mate ∈ s.mateOfPump st, s.pumpCommandedRun mate = false) := by
  cases run with
  | false => simp [State.interlocked, pumpDrive]
  | true =>
    unfold State.interlocked pumpDrive
    dsimp only [if_true]
    cases s.mateOfPump st <;> simp

/-- R137: a passage may hold the pump at the demand. -/
def State.mayHold (s : State) (st : Nat) (run : Bool) : Prop :=
  s.ownedPump st = true ∧ s.readsHealth st ≠ .lost ∧ s.interlocked ⟨.pump, st⟩ (pumpDrive run) = false

/-- R136: the passage table has room for the target. -/
def State.hasRoom (s : State) (x : HandTarget) : Prop := s.passage x ≠ none ∨ s.hand.length < 8

theorem handDrive_refused (hc : ¬ s.mayHold st run) : s.handDrive ⟨.pump, st⟩ (pumpDrive run) k = s.refused := by
  unfold State.handDrive
  by_cases owned : s.ownedPump st = true
  · by_cases lost : s.readsHealth st = .lost
    · exact (if_neg (by simp [State.holdable, owned])).trans (if_pos lost)
    · have locked : s.interlocked ⟨.pump, st⟩ (pumpDrive run) = true :=
        Bool.of_not_eq_false fun free => hc ⟨owned, lost, free⟩
      exact (if_neg (by simp [State.holdable, owned])).trans ((if_neg lost).trans (if_pos locked))
  · exact if_pos (by simp [State.holdable, owned])

theorem handDrive_of_mayHold (hc : s.mayHold st run) : s.handDrive ⟨.pump, st⟩ (pumpDrive run) k =
    if (s.passage ⟨.pump, st⟩).isNone ∧ 8 ≤ s.hand.length then s.busy else (s.holdTarget ⟨.pump, st⟩ (pumpDrive run) k).done := by
  obtain ⟨owned, reachable, free⟩ := hc
  unfold State.handDrive
  exact (if_neg (by simp [State.holdable, owned])).trans ((if_neg reachable).trans (if_neg (by simp [free])))

theorem hasRoom_iff (s : State) (x : HandTarget) : s.hasRoom x ↔ ¬ ((s.passage x).isNone ∧ 8 ≤ s.hand.length) := by
  unfold State.hasRoom
  rw [not_and_or, Option.isNone_iff_eq_none, Nat.not_le]

/-- Table 53, Form: RUN or STOP of a station. -/
theorem handleHandDrive_pump (hst : st < 48) (v : Nat) : handleHandDrive (.val .pump) st (.val (if run then .run else .stop)) v (.val k) s
    = s.handDrive ⟨.pump, st⟩ (pumpDrive run) k := by
  have target : handTargetOf (.val .pump) st = some ⟨.pump, st⟩ := if_pos (decide_eq_true hst)
  unfold handleHandDrive
  rw [target]
  cases run <;> rfl

theorem handleHandDrive_pump_outside (hi : 48 ≤ i) (command : Coded Command) (v : Nat) (timeout : Coded TimeoutCode) :
    handleHandDrive (.val .pump) i command v timeout s = s.refused := by
  have target : handTargetOf (.val .pump) i = none := if_neg (by simpa [HandTarget.wf] using hi)
  unfold handleHandDrive
  rw [target]

theorem handleHandDrive_pump_form (hst : st < 48) {command : Coded Command} (hr : command ≠ .val .run) (hs : command ≠ .val .stop)
    (v : Nat) (timeout : Coded TimeoutCode) : handleHandDrive (.val .pump) st command v timeout s = s.refused := by
  have target : handTargetOf (.val .pump) st = some ⟨.pump, st⟩ := if_pos (decide_eq_true hst)
  have form : handDemand ⟨.pump, st⟩ command v = none := by
    unfold handDemand
    split <;> simp_all
  unfold handleHandDrive
  rw [target]
  cases timeout with
  | unlisted n => rfl
  | val k => simp only [form]

/-! ### The passage (R139) -/

/-- R139: the hand table after a HAND_DRIVE. -/
def State.handAfter (s : State) (x : HandTarget) (demand : Drive) (k : TimeoutCode) : List Passage :=
  if s.passage x = none then s.hand ++ [⟨x, demand, k, (timeoutSeconds k).map (s.uptime + ·), s.uptime, 0⟩]
  else s.hand.map fun p => if p.target = x then
    { p with demand := demand, timeout := k, deadline := (timeoutSeconds k).map (s.uptime + ·), refreshes := min 65535 (p.refreshes + 1) }
    else p

theorem putPassage_eq (s : State) (x : HandTarget) (demand : Drive) (k : TimeoutCode) :
    s.putPassage x demand k = { s with hand := s.handAfter x demand k } := by
  unfold State.putPassage State.handAfter
  cases hx : s.passage x with
  | none => rfl
  | some p =>
    simp only [beq_iff_eq]
    rfl

/-- R137 to R139: a HAND_DRIVE of a pump that takes effect. -/
theorem holdTarget_pump (s : State) (st : Nat) (demand : Drive) (k : TimeoutCode) : s.holdTarget ⟨.pump, st⟩ demand k
    = s.syncCommands (({ s with hand := s.handAfter ⟨.pump, st⟩ demand k } : State).offerDrive (.station st) demand) := by
  rw [← putPassage_eq]
  rfl

/-- A held pump is commanded what its passage demands. -/
theorem pumpCommandedRun_of_passage {p : Passage} (hp : s.passage ⟨.pump, st⟩ = some p) (hd : p.demand = pumpDrive run) :
    s.pumpCommandedRun st = run := by
  unfold State.pumpCommandedRun State.pumpHeld State.pumpHeldRun
  rw [hp]
  dsimp only
  rw [hd]
  cases run <;> rfl

theorem passage_congr (ht : t.hand = s.hand) (x : HandTarget) : t.passage x = s.passage x := by
  unfold State.passage
  rw [ht]

/-- The passage put holds the pump at its demand. -/
theorem pumpCommandedRun_of_hand (ht : t.hand = s.handAfter ⟨.pump, st⟩ (pumpDrive run) k) : t.pumpCommandedRun st = run := by
  have put := passage_putPassage (s := s) ⟨.pump, st⟩ ⟨.pump, st⟩ (pumpDrive run) k
  rw [if_pos rfl] at put
  obtain ⟨p, hp, hd⟩ := put
  rw [putPassage_eq] at hp
  exact pumpCommandedRun_of_passage ((passage_congr ht _).trans hp) hd

/-- What a HAND_DRIVE of a pump leaves alone. -/
theorem holdTarget_pump_onlyChannels (s : State) (st : Nat) (demand : Drive) (k : TimeoutCode) :
    ({ s with hand := s.handAfter ⟨.pump, st⟩ demand k } : State).OnlyChannels ∅ (s.holdTarget ⟨.pump, st⟩ demand k) := by
  rw [holdTarget_pump]
  exact (offerDrive_onlyChannels _ _ _ _).trans (syncCommands_onlyChannels _ _ _)

theorem holdTarget_pump_channels (s : State) (st : Nat) (demand : Drive) (k : TimeoutCode) :
    (s.holdTarget ⟨.pump, st⟩ demand k).channels = s.channels := by
  rw [holdTarget_pump]
  refine (syncCommands_channels _ _).trans ?_
  obtain ⟨f, hf⟩ := offerDrive_eq ({ s with hand := s.handAfter ⟨.pump, st⟩ demand k } : State) (.station st) demand
  rw [hf]

/-! ### Starts and stops -/

theorem handleChannelStart_of_disabled (hi : i < 4) (hd : s.dormant i = false) (hc : (s.channel i).cfg.configured = true)
    (hx : (s.channel i).state = .disabled) : handleChannelStart i s = (s.syncCommands (s.startChannel i)).done := by
  unfold handleChannelStart
  rw [if_neg (Nat.not_le.mpr hi), hd, if_neg Bool.false_ne_true, hc, if_neg (by decide), if_neg (not_not.mpr hx)]
  rfl

theorem handleChannelStart_busy (hi : i < 4) (hd : s.dormant i = false) (hc : (s.channel i).cfg.configured = true)
    (hx : (s.channel i).state ≠ .disabled) : handleChannelStart i s = s.busy := by
  unfold handleChannelStart
  rw [if_neg (Nat.not_le.mpr hi), hd, if_neg Bool.false_ne_true, hc, if_neg (by decide), if_pos hx]

theorem handleChannelStop_of_configured (hi : i < 4) (hd : s.dormant i = false) (hc : (s.channel i).cfg.configured = true) :
    handleChannelStop i s = (if (s.channel i).state = .disabled then s.modChannel i fun x => { x with autoPending := false }
      else s.syncCommands (s.disableChannel i)).done := by
  unfold handleChannelStop
  rw [if_neg (Nat.not_le.mpr hi), hd, if_neg Bool.false_ne_true, hc, if_neg (by decide), apply_ite State.done]
  rfl

/-- R112: a CHANNEL_START that takes effect. -/
theorem exec_channelStart (hs : s.ready) (hi : i < 4) (hd : s.dormant i = false) (hc : (s.channel i).cfg.configured = true)
    (hx : (s.channel i).state = .disabled) : exec (.channelStart h i) s
      = .next (((s.addressed h).syncCommands ((s.addressed h).startChannel i)).answered h 26 .done []) :=
  exec_effect (q := ⟨h, .channelStart i⟩) rfl hs (x := handleChannelStart i (s.addressed h)) rfl
    (handleChannelStart_of_disabled (s := s.addressed h) hi hd hc hx)

/-- R113: a CHANNEL_STOP that takes effect. -/
theorem exec_channelStop (hs : s.ready) (hi : i < 4) (hd : s.dormant i = false) (hc : (s.channel i).cfg.configured = true) :
    exec (.channelStop h i) s = .next ((if (s.channel i).state = .disabled
      then (s.addressed h).modChannel i fun x => { x with autoPending := false }
      else (s.addressed h).syncCommands ((s.addressed h).disableChannel i)).answered h 27 .done []) :=
  exec_effect (q := ⟨h, .channelStop i⟩) rfl hs (x := handleChannelStop i (s.addressed h)) rfl
    (handleChannelStop_of_configured (s := s.addressed h) hi hd hc)

/-! ### The statement -/

/-- Settles O46: the checks in their order, the passage put, and the offers. -/
theorem handDriveHoldsAPump : Obligations.HandDriveHoldsAPump := by
  refine ⟨fun s h st v run k hs hst => ?_, fun before s => ?_, fun s st hp => ?_, fun s h i => ⟨rfl, fun hs hi hd hc => ?_⟩⟩
  · intro target owned can room c demand deadline refused
    let a := s.addressed h
    have refuses {i command w timeout} (hx : handleHandDrive (.val .pump) i command w timeout a = a.refused) :
        exec (.handDrive h (.val .pump) i command w timeout) s = refused :=
      exec_status (q := ⟨h, .handDrive (.val .pump) i command w timeout⟩) rfl hs (handleHandDrive (.val .pump) i command w timeout a)
        rfl hx (by decide)
    have mayHold : a.mayHold st run ↔ can := and_congr (ownedPump_iff a st) (and_congr_right' (interlocked_iff a st run))
    have handled : handleHandDrive (.val .pump) st (.val (if run then .run else .stop)) v (.val k) a
        = a.handDrive target (pumpDrive run) k := handleHandDrive_pump hst v
    have hasRoom : room ↔ ¬ ((a.passage target).isNone ∧ 8 ≤ a.hand.length) := hasRoom_iff a target
    have holds (hc : can) (hr : room) : exec c s = .next ((a.holdTarget target (pumpDrive run) k).answered h 34 .done []) :=
      exec_effect (q := ⟨h, .handDrive (.val .pump) st (.val (if run then .run else .stop)) v (.val k)⟩) rfl hs
        (x := handleHandDrive (.val .pump) st (.val (if run then .run else .stop)) v (.val k) a) rfl
        (handled.trans ((handDrive_of_mayHold (mayHold.mpr hc)).trans (if_neg (hasRoom.mp hr))))
    refine ⟨fun i hi command w timeout => refuses (handleHandDrive_pump_outside hi command w timeout),
      fun command hrun hstop w timeout => refuses (handleHandDrive_pump_form hst hrun hstop w timeout),
      fun hc => refuses (handled.trans (handDrive_refused (mt mayHold.mp hc))), fun hc hr => ?_, fun hc hr => ?_, fun hc hr => ?_⟩
    · exact exec_status (q := ⟨h, .handDrive (.val .pump) st (.val (if run then .run else .stop)) v (.val k)⟩) rfl hs
        (handleHandDrive (.val .pump) st (.val (if run then .run else .stop)) v (.val k) a) rfl
        (handled.trans ((handDrive_of_mayHold (mayHold.mpr hc)).trans (if_pos (not_not.mp (mt hasRoom.mpr hr))))) (by decide)
    · have settled := Settled.answered (a.holdTarget target (pumpDrive run) k) h 34 .done []
      have only := holdTarget_pump_onlyChannels a st (pumpDrive run) k
      have hand : ((a.holdTarget target (pumpDrive run) k).answered h 34 .done []).hand = a.handAfter target (pumpDrive run) k :=
        settled.hand.trans only.hand
      exact ⟨_, holds hc hr, answered_replied only.port 34 .done [], settled.config.trans only.config,
        settled.stations.trans only.stations, settled.points.trans only.points, settled.zones.trans only.zones,
        settled.blowers.trans only.blowers, settled.pool.trans only.pool,
        settled.channels.trans (holdTarget_pump_channels a st (pumpDrive run) k), pumpCommandedRun_of_hand hand,
        fun hp => hand.trans (if_pos hp), fun hp => hand.trans (if_neg hp)⟩
    · intro a refreshed hand held
      rw [holds hc hr, holdTarget_pump]
      rfl
  · exact ⟨before.changedPumps s false, before.changedPumps s true, nodup_changedPumps _ _ _, nodup_changedPumps _ _ _,
      ⟨mem_changedPumps before s false, mem_changedPumps before s true⟩, rfl⟩
  · exact ⟨endPassage_of_held hp true, endPassage_of_held hp false⟩
  · exact ⟨fun hx => exec_channelStart hs hi hd hc hx, fun hx => (exec_channelStop hs hi hd hc).trans (by rw [if_neg hx])⟩

end Sys2Proof.Machine
end

section
/-! SUPPORT. The record of a channel after a start and after a stop (R111 to R113), as a function of the record before it. -/

namespace Sys2Proof.Machine

open Sys2Proof

variable {s t u : State} {c : Nat} {x : Channel} {storm : Bool}

/-! ### Targets (R111) -/

/-- R111: the target a channel loads, by its record and whether storm is in force. -/
def Channel.nextTarget (storm : Bool) (x : Channel) : Nat :=
  match x.cfg.mode with
  | .val .ratio => clampNat 1 65535 (x.accumulator * (if storm then x.cfg.stormRatio else x.cfg.ratio) / 1000 / 10)
  | _ => x.cfg.target

/-- R111: a target is loaded. -/
def Channel.loaded (storm : Bool) (x : Channel) : Channel :=
  { x with
    target := x.nextTarget storm,
    accumulator := match x.cfg.mode with
      | .val .ratio => 0
      | _ => x.accumulator }

theorem Channel.loaded_of_ratio (hm : x.cfg.mode = .val .ratio) : x.loaded storm = { x with
    target := max 1 (min 65535 (x.accumulator * (if storm then x.cfg.stormRatio else x.cfg.ratio) / 1000 / 10)), accumulator := 0 } := by
  unfold Channel.loaded Channel.nextTarget
  rw [hm]
  rfl

theorem Channel.loaded_of_other (hm : x.cfg.mode ≠ .val .ratio) : x.loaded storm = { x with target := x.cfg.target } := by
  unfold Channel.loaded Channel.nextTarget
  split
  · exact absurd ‹_› hm
  · rfl

theorem Channel.loaded_target_pos (hc : 1 ≤ x.cfg.target) : 1 ≤ (x.loaded storm).target := by
  by_cases hm : x.cfg.mode = .val .ratio
  · rw [Channel.loaded_of_ratio hm]
    exact le_max_left _ _
  · rw [Channel.loaded_of_other hm]
    exact hc

theorem loadTarget_channel (hc : c < s.channels.length) : (s.loadTarget c).channel c = (s.channel c).loaded s.stormInForce :=
  State.channel_modChannel_same hc _

theorem stormInForce_congr (h : t.storm = s.storm) : t.stormInForce = s.stormInForce := by
  unfold State.stormInForce
  rw [h]

/-! ### Starts (R112) -/

/-- R112: the record of a channel that is started, before it enters a state. -/
def Channel.begun (storm : Bool) (x : Channel) : Channel :=
  { x.loaded storm with
    remaining := (x.loaded storm).target, counted := 0, cycles := 0, overshoot := 0, lastMeter := none, autoPending := false }

/-- R112: a start, before the channel enters a state. -/
def State.beginChannel (s : State) (c : Nat) : State :=
  (s.loadTarget c).modChannel c fun x =>
    { x with remaining := x.target, counted := 0, cycles := 0, overshoot := 0, lastMeter := none, autoPending := false }

theorem beginChannel_onlyChannel (s : State) (c : Nat) : s.OnlyChannel c (s.beginChannel c) :=
  ((onlyChannel_changes c s).loadTarget (.refl _ s)).trans (modChannel_onlyChannel _ fun _ => rfl)

theorem beginChannel_channel (hc : c < s.channels.length) :
    (s.beginChannel c).channel c = (s.channel c).begun s.stormInForce := by
  have length : c < (s.loadTarget c).channels.length := by simpa [State.loadTarget] using hc
  unfold State.beginChannel
  rw [State.channel_modChannel_same length, loadTarget_channel hc]
  rfl

/-- R112: the state a start enters where a pump is available. -/
def State.flowState (s : State) (c : Nat) : ChannelState := if s.levelLow c then .paused else .running

theorem State.OnlyChannels.flowState {C : Set Nat} (h : s.OnlyChannels C t) (c : Nat) : t.flowState c = s.flowState c := by
  unfold State.flowState
  rw [levelLow_congr h.cfg h.points]

/-- R112: a start, by the pumps that are available. -/
theorem startChannel_eq (s : State) (c : Nat) : s.startChannel c =
    if s.pumpAvailable (s.dutyPump c) then (s.beginChannel c).enterChannel c (s.flowState c)
    else if s.otherAvailable c then ((s.beginChannel c).moveDuty c).enterChannel c (s.flowState c)
    else (s.beginChannel c).faultChannel c := by
  have only := beginChannel_onlyChannel s c
  have stands : (s.beginChannel c).pair (c / 2) = s.pair (c / 2) := rfl
  have moved := only.trans ((onlyChannel_changes c (s.beginChannel c)).moveDuty (.refl _ _))
  rw [← dutyPump_congr only.cfg stands, ← pumpAvailable_congr only.stations, ← otherAvailable_congr only.cfg stands only.stations]
  nth_rw 1 [← only.flowState c]
  rw [← moved.flowState c]
  rfl

theorem enterChannel_channels (s : State) (c : Nat) (st : ChannelState) :
    (s.enterChannel c st).channels = s.channels.modify c (·.inState s.uptime st) := by
  refine ite_keeps (P := fun u => u.channels = s.channels.modify c (·.inState s.uptime st)) ?_ rfl
  rw [(clearAlarm_only _ _ _).2]
  rfl

theorem enterChannel_pairs (s : State) (c : Nat) (st : ChannelState) : (s.enterChannel c st).pairs = s.pairs := by
  refine ite_keeps (P := fun u => u.pairs = s.pairs) ?_ rfl
  rw [(clearAlarm_only _ _ _).2]
  rfl

theorem channel_raiseAlarm (s : State) (code : AlarmCode) (src : Source) (value : Option Nat) (d : Nat) :
    (s.raiseAlarm code src value).channel d = s.channel d :=
  ((raiseAlarm_only s code src value).onlyChannels ∅).others d (Set.notMem_empty d)

/-- The duty selection stands where the duty pump is available. -/
theorem startChannel_pairs (hd : s.pumpAvailable (s.dutyPump c) = true) : (s.startChannel c).pairs = s.pairs := by
  rw [startChannel_eq, if_pos hd]
  exact enterChannel_pairs _ _ _

section
variable (hc : c < s.channels.length)
include hc

theorem startChannel_of_available (ha : s.pumpAvailable (s.dutyPump c) = true ∨ s.otherAvailable c = true) :
    (s.startChannel c).channel c = ((s.channel c).begun s.stormInForce).inState s.uptime (s.flowState c) := by
  have only := beginChannel_onlyChannel s c
  have entered {u : State} (hu : u.channel c = (s.channel c).begun s.stormInForce) (hl : u.channels.length = s.channels.length)
      (ht : u.uptime = s.uptime) : (u.enterChannel c (s.flowState c)).channel c
        = ((s.channel c).begun s.stormInForce).inState s.uptime (s.flowState c) := by
    rw [enterChannel_channel (hl ▸ hc), hu, ht]
  have begun := beginChannel_channel hc
  rw [startChannel_eq]
  split_ifs with duty other
  · exact entered begun only.length only.uptime
  · exact entered begun only.length only.uptime
  · exact absurd ha (by simp [duty, other])

theorem startChannel_of_none (hd : s.pumpAvailable (s.dutyPump c) = false) (ho : s.otherAvailable c = false) :
    (s.startChannel c).channel c = ((s.channel c).begun s.stormInForce).inState s.uptime .faulted := by
  have only := beginChannel_onlyChannel s c
  rw [startChannel_eq, hd, ho, if_neg Bool.false_ne_true, if_neg Bool.false_ne_true, State.faultChannel, channel_raiseAlarm,
    enterChannel_channel (only.length ▸ hc), beginChannel_channel hc, only.uptime]

/-- The figures of a channel just started, whatever state it enters. -/
theorem startChannel_channel : ∃ st, (s.startChannel c).channel c = ((s.channel c).begun s.stormInForce).inState s.uptime st := by
  by_cases ha : s.pumpAvailable (s.dutyPump c) = true ∨ s.otherAvailable c = true
  · exact ⟨_, startChannel_of_available hc ha⟩
  · simp only [not_or, Bool.not_eq_true] at ha
    exact ⟨_, startChannel_of_none hc ha.1 ha.2⟩

end

/-! ### Stops (R113) -/

/-- R113: the record of a channel that enters DISABLED. -/
def Channel.stopped (x : Channel) : Channel :=
  { x with state := .disabled, pauseStart := none, pauseDeadline := none, autoPending := false }

theorem disableChannel_channels (s : State) (c : Nat) : (s.disableChannel c).channels = s.channels.modify c Channel.stopped := by
  unfold State.disableChannel
  dsimp only
  rw [(clearAlarm_only _ _ _).2, (clearAlarm_only _ _ _).2]
  dsimp only
  rw [State.modChannel_channels, enterChannel_channels]
  exact List.modify_modify_eq _ _ _ _

theorem disableChannel_channel (hc : c < s.channels.length) : (s.disableChannel c).channel c = (s.channel c).stopped :=
  (channel_congr (s := s.modChannel c Channel.stopped) (disableChannel_channels s c) c).trans (State.channel_modChannel_same hc _)

end Sys2Proof.Machine
end

section
/-! SUPPORT. The record of a channel after a metered reading (R114, R115), as a function of the record before it, and the law of its
figures. -/

namespace Sys2Proof.Machine

open Sys2Proof

variable {s t u : State} {c v n e : Nat} {x : Channel} {storm : Bool}

/-! ### The record -/

/-- R115: one more cycle completed. -/
def Channel.cycled (x : Channel) : Channel := { x with cycles := min 65535 (x.cycles + 1) }

/-- R115: the end of a BATCH. -/
def Channel.batchEnded (excess : Nat) (x : Channel) : Channel :=
  Channel.stopped { x with overshoot := excess, target := 0, remaining := 0 }

/-- R115: cycles complete while the excess covers the target last loaded. -/
def Channel.completing (storm : Bool) : Nat → Nat → Channel → Channel
  | 0, _, x => x
  | n + 1, excess, x =>
    if x.cycled.cfg.mode = .val .batch then x.cycled.batchEnded excess
    else if (x.cycled.loaded storm).target ≤ excess then
      Channel.completing storm n (excess - (x.cycled.loaded storm).target) (x.cycled.loaded storm)
    else { x.cycled.loaded storm with remaining := (x.cycled.loaded storm).target - excess }

/-- R114: a metered delta is counted and set against remaining. -/
def Channel.deltaMetered (storm : Bool) (x : Channel) (delta : Nat) : Channel :=
  if delta < x.remaining then { x with counted := (x.counted + delta) % 4294967296, remaining := x.remaining - delta }
  else Channel.completing storm (delta - x.remaining + 1) (delta - x.remaining)
    { x with counted := (x.counted + delta) % 4294967296 }

/-- R114: a GOOD reading of the volume point. -/
def Channel.metered (storm : Bool) (x : Channel) (v : Nat) : Channel :=
  if x.state = .disabled then x else
  match x.lastMeter with
  | none => { x with lastMeter := some v }
  | some last => Channel.deltaMetered storm { x with lastMeter := some v } ((v + 65536 - last) % 65536)

/-! ### The record is what the state's operation makes of it -/

theorem countCycle_channel (hc : c < s.channels.length) : (s.countCycle c).channel c = (s.channel c).cycled := by
  have counted : (s.modChannel c Channel.cycled).channel c = (s.channel c).cycled := State.channel_modChannel_same hc _
  refine ite_keeps (P := fun u => u.channel c = (s.channel c).cycled) ?_ counted
  exact ((offerNotice_onlyChannels _ _ ∅).others c (Set.notMem_empty c)).trans counted

theorem completeCycles_channel (hc : c < s.channels.length) (n e : Nat) :
    (State.completeCycles n c e s).channel c = (s.channel c).completing s.stormInForce n e := by
  induction n generalizing s e with
  | zero => rfl
  | succ n ih =>
    have changes := onlyChannel_changes c s
    have counts : s.OnlyChannel c (s.countCycle c) := changes.countCycle (.refl _ s)
    have loads : s.OnlyChannel c ((s.countCycle c).loadTarget c) := changes.loadTarget counts
    have counted := countCycle_channel hc
    have loaded : ((s.countCycle c).loadTarget c).channel c = (s.channel c).cycled.loaded s.stormInForce := by
      rw [loadTarget_channel (counts.length ▸ hc), counted, stormInForce_congr counts.storm]
    unfold State.completeCycles Channel.completing
    dsimp only
    rw [counted, loaded]
    split_ifs with batch covers
    · rw [disableChannel_channel (by simpa using counts.length ▸ hc), State.channel_modChannel_same (counts.length ▸ hc), counted]
      rfl
    · rw [ih (loads.length ▸ hc), loaded, stormInForce_congr loads.storm]
    · rw [State.channel_modChannel_same (loads.length ▸ hc), loaded]

theorem meterDelta_channel (hc : c < s.channels.length) (delta : Nat) :
    (s.meterDelta c delta).channel c = (s.channel c).deltaMetered s.stormInForce delta := by
  have summed : (s.modChannel c fun x => { x with counted := (x.counted + delta) % 4294967296 }).channel c
      = { s.channel c with counted := ((s.channel c).counted + delta) % 4294967296 } := State.channel_modChannel_same hc _
  have length : c < (s.modChannel c fun x => { x with counted := (x.counted + delta) % 4294967296 }).channels.length := by
    simpa using hc
  unfold State.meterDelta Channel.deltaMetered
  dsimp only
  rw [summed]
  dsimp only
  split_ifs
  · rw [State.channel_modChannel_same length, summed]
  · rw [completeCycles_channel length, summed]
    rfl

theorem meter_channel (hc : c < s.channels.length) (v : Nat) : (s.meter c v).channel c = (s.channel c).metered s.stormInForce v := by
  have noted : (s.modChannel c fun x => { x with lastMeter := some v }).channel c = { s.channel c with lastMeter := some v } :=
    State.channel_modChannel_same hc _
  unfold State.meter Channel.metered
  dsimp only
  split_ifs
  · rfl
  · cases (s.channel c).lastMeter with
    | none => exact noted
    | some last =>
      refine (meterDelta_channel (by simpa using hc) _).trans ?_
      rw [noted]
      rfl

end Sys2Proof.Machine
end

section
/-! SUPPORT. The law of a channel's figures over a metered reading (R115), mode by mode. -/

namespace Sys2Proof.Machine

open Sys2Proof

variable {n e sum delta v : Nat} {x : Channel} {storm : Bool}

/-! ### Mode by mode -/

/-- R115: the figures of the cycle a channel is in. -/
def Channel.inCycle (x : Channel) (target remaining cycles : Nat) : Channel :=
  { x with target := target, remaining := remaining, cycles := cycles }

theorem completing_of_batch (hm : x.cfg.mode = .val .batch) (storm : Bool) (n e : Nat) :
    Channel.completing storm (n + 1) e x = x.cycled.batchEnded e := if_pos hm

theorem completing_of_other (hm : x.cfg.mode ≠ .val .batch) (storm : Bool) (n e : Nat) : Channel.completing storm (n + 1) e x =
    if (x.cycled.loaded storm).target ≤ e then
      Channel.completing storm n (e - (x.cycled.loaded storm).target) (x.cycled.loaded storm)
    else { x.cycled.loaded storm with remaining := (x.cycled.loaded storm).target - e } := if_neg hm

/-- A count that holds at its top holds there whatever is added. -/
theorem min_add_min (top a b : Nat) : min top (min top a + b) = min top (a + b) := by omega

/-- R115: in CYCLE mode every cycle has the configured target. -/
theorem completing_of_cycle (hm : x.cfg.mode = .val .cycle) (ht : 1 ≤ x.cfg.target) (he : e < n) : Channel.completing storm n e x
    = x.inCycle x.cfg.target (x.cfg.target - e % x.cfg.target) (min 65535 (x.cycles + 1 + e / x.cfg.target)) := by
  induction n generalizing x e with
  | zero => omega
  | succ n ih =>
    have loaded : x.cycled.loaded storm = { x.cycled with target := x.cfg.target } :=
      Channel.loaded_of_other (x := x.cycled) (by rw [show x.cycled.cfg.mode = .val .cycle from hm]; decide)
    rw [completing_of_other (by rw [hm]; decide), loaded]
    dsimp only
    split_ifs with covers
    · rw [ih (x := { x.cycled with target := x.cfg.target }) hm ht (by omega), Nat.mod_eq_sub_mod covers, Nat.div_eq_sub_div ht covers]
      refine congrArg (Channel.inCycle x x.cfg.target _) ?_
      change min 65535 (min 65535 (x.cycles + 1) + 1 + (e - x.cfg.target) / x.cfg.target) = _
      rw [Nat.add_assoc, min_add_min]
      congr 1
      omega
    · rw [Nat.mod_eq_of_lt (not_le.mp covers), Nat.div_eq_of_lt (not_le.mp covers)]
      rfl

/-- R111: once the accumulator is empty, every RATIO target is 1. -/
theorem completing_of_empty (hm : x.cfg.mode = .val .ratio) (ha : x.accumulator = 0) (he : e < n) :
    Channel.completing storm n e x = x.inCycle 1 1 (min 65535 (x.cycles + 1 + e)) := by
  induction n generalizing x e with
  | zero => omega
  | succ n ih =>
    have loaded : x.cycled.loaded storm = { x.cycled with target := 1 } := by
      rw [Channel.loaded_of_ratio (x := x.cycled) hm]
      have empty : x.cycled.accumulator = 0 := ha
      simp [empty]
    rw [completing_of_other (by rw [hm]; decide), loaded]
    dsimp only
    split_ifs with covers
    · rw [ih (x := { x.cycled with target := 1 }) hm ha (by omega)]
      refine congrArg (Channel.inCycle x 1 1) ?_
      change min 65535 (min 65535 (x.cycles + 1) + 1 + _) = _
      rw [Nat.add_assoc, min_add_min]
      congr 1
      omega
    · obtain rfl : e = 0 := by omega
      rfl

/-- R111, R115: in RATIO mode the first target is loaded from the accumulator, which is then empty. -/
theorem completing_of_ratio (hm : x.cfg.mode = .val .ratio) (storm : Bool) (e : Nat) :
    let first := max 1 (min 65535 (x.accumulator * (if storm then x.cfg.stormRatio else x.cfg.ratio) / 1000 / 10))
    Channel.completing storm (e + 1) e x = if first ≤ e then
      Channel.inCycle { x with accumulator := 0 } 1 1 (min 65535 (x.cycles + 2 + (e - first)))
    else Channel.inCycle { x with accumulator := 0 } first (first - e) (min 65535 (x.cycles + 1)) := by
  intro first
  have loaded : x.cycled.loaded storm = { x.cycled with target := first, accumulator := 0 } :=
    Channel.loaded_of_ratio (x := x.cycled) hm
  have pos : 1 ≤ first := le_max_left _ _
  rw [completing_of_other (by rw [hm]; decide), loaded]
  dsimp only
  split_ifs with covers
  · rw [completing_of_empty (x := { x.cycled with target := first, accumulator := 0 }) hm rfl (by omega)]
    refine congrArg (Channel.inCycle { x with accumulator := 0 } 1 1) ?_
    change min 65535 (min 65535 (x.cycles + 1) + 1 + _) = _
    rw [Nat.add_assoc, min_add_min]
    congr 1
    omega
  · rfl

/-! ### What metering leaves alone -/

/-- Configuration, last readings and the sum counted: what the completion of cycles leaves alone. -/
def Channel.Kept (x y : Channel) : Prop :=
  y.cfg = x.cfg ∧ y.lastMeter = x.lastMeter ∧ y.counted = x.counted ∧ y.lastInfluent = x.lastInfluent

theorem completing_kept (storm : Bool) (n e : Nat) (x : Channel) : x.Kept (Channel.completing storm n e x) := by
  induction n generalizing x e with
  | zero => exact ⟨rfl, rfl, rfl, rfl⟩
  | succ n ih =>
    unfold Channel.completing
    split_ifs
    · exact ⟨rfl, rfl, rfl, rfl⟩
    · exact ih _ (x.cycled.loaded storm)
    · exact ⟨rfl, rfl, rfl, rfl⟩

theorem metered_of_disabled (hx : x.state = .disabled) : x.metered storm v = x := if_pos hx

theorem metered_of_first (hx : x.state ≠ .disabled) (hl : x.lastMeter = none) : x.metered storm v = { x with lastMeter := some v } := by
  unfold Channel.metered
  rw [if_neg hx, hl]

theorem metered_of_last {last : Nat} (hx : x.state ≠ .disabled) (hl : x.lastMeter = some last) : x.metered storm v
    = Channel.deltaMetered storm { x with lastMeter := some v } ((v + 65536 - last) % 65536) := by
  unfold Channel.metered
  rw [if_neg hx, hl]

theorem deltaMetered_of_lt (hd : delta < x.remaining) : x.deltaMetered storm delta
    = { x with counted := (x.counted + delta) % 4294967296, remaining := x.remaining - delta } := if_pos hd

theorem deltaMetered_of_le (hd : x.remaining ≤ delta) : x.deltaMetered storm delta
    = Channel.completing storm (delta - x.remaining + 1) (delta - x.remaining)
      { x with counted := (x.counted + delta) % 4294967296 } := if_neg (not_lt.mpr hd)

theorem metered_cfg (storm : Bool) (x : Channel) (v : Nat) :
    (x.metered storm v).cfg = x.cfg ∧ (x.metered storm v).lastInfluent = x.lastInfluent := by
  unfold Channel.metered
  split_ifs
  · exact ⟨rfl, rfl⟩
  · split
    · exact ⟨rfl, rfl⟩
    · unfold Channel.deltaMetered
      split_ifs
      · exact ⟨rfl, rfl⟩
      · obtain ⟨cfg, -, -, influent⟩ := completing_kept storm _ _ _
        exact ⟨cfg, influent⟩

/-! ### The law of the figures -/

/-- R115: the cycles that complete, the one just ended and those the excess covers, keep the law of the figures. -/
theorem completing_metered (ho : x.overshoot = 0) (ht : 1 ≤ x.cfg.target) (he : e < n)
    (hsum : x.counted % 4294967296 = (sum + x.target + e) % 4294967296) :
    ∃ done : List Nat, (Channel.completing storm n e x).Metered (sum + (x.target :: done).sum)
      ∧ (Channel.completing storm n e x).cycles = min 65535 (x.cycles + (x.target :: done).length) := by
  induction n generalizing x e sum with
  | zero => omega
  | succ n ih =>
    by_cases hm : x.cfg.mode = .val .batch
    · rw [completing_of_batch hm]
      exact ⟨[], ⟨by simpa [Channel.batchEnded, Channel.stopped, Channel.cycled] using hsum, le_rfl⟩, rfl⟩
    · have pos : 1 ≤ (x.cycled.loaded storm).target := Channel.loaded_target_pos (x := x.cycled) ht
      rw [completing_of_other hm]
      split_ifs with covers
      · obtain ⟨done, law, cycles⟩ := ih (x := x.cycled.loaded storm) (e := e - (x.cycled.loaded storm).target) (sum := sum + x.target)
          ho ht (by omega) (by
            rw [Nat.add_assoc, Nat.add_sub_cancel' covers]
            exact hsum)
        refine ⟨(x.cycled.loaded storm).target :: done, ?_, cycles.trans ?_⟩
        · rwa [List.sum_cons, ← Nat.add_assoc]
        · change min 65535 (min 65535 (x.cycles + 1) + _) = _
          rw [min_add_min]
          simp only [List.length_cons]
          congr 1
          omega
      · refine ⟨[], ⟨?_, Nat.sub_le _ _⟩, rfl⟩
        change (x.counted + ((x.cycled.loaded storm).target - e)) % 4294967296
          = (sum + [x.target].sum + (x.cycled.loaded storm).target + x.overshoot) % 4294967296
        rw [ho, List.sum_singleton]
        omega

/-- R114, R115: a metered reading keeps the law of the figures; the first cycle it completes is the one the channel was in. -/
theorem metered_metered (hx : x.Metered sum) (ho : x.overshoot = 0) (ht : 1 ≤ x.cfg.target) (storm : Bool) (v : Nat) :
    ∃ done : List Nat, (x.metered storm v).Metered (sum + done.sum)
      ∧ (x.cycles ≤ 65535 → (x.metered storm v).cycles = min 65535 (x.cycles + done.length))
      ∧ (done = [] ∨ done.head? = some x.target) := by
  obtain ⟨law, within⟩ := hx
  have none_done {y : Channel} (hy : y.Metered sum) (hc : y.cycles = x.cycles) : ∃ done : List Nat, y.Metered (sum + done.sum)
      ∧ (x.cycles ≤ 65535 → y.cycles = min 65535 (x.cycles + done.length)) ∧ (done = [] ∨ done.head? = some x.target) :=
    ⟨[], hy, fun hle => hc.trans (min_eq_right hle).symm, .inl rfl⟩
  by_cases hs : x.state = .disabled
  · rw [metered_of_disabled hs]
    exact none_done ⟨law, within⟩ rfl
  cases hl : x.lastMeter with
  | none =>
    rw [metered_of_first hs hl]
    exact none_done ⟨law, within⟩ rfl
  | some last =>
    rw [metered_of_last hs hl]
    generalize (v + 65536 - last) % 65536 = delta
    by_cases hd : delta < x.remaining
    · rw [deltaMetered_of_lt (x := { x with lastMeter := some v }) hd]
      refine none_done ⟨?_, ?_⟩ rfl
      · dsimp only
        omega
      · dsimp only
        omega
    · have hd : x.remaining ≤ delta := not_lt.mp hd
      rw [deltaMetered_of_le (x := { x with lastMeter := some v }) hd]
      obtain ⟨done, law', cycles⟩ := completing_metered (storm := storm) (sum := sum) (e := delta - x.remaining)
        (n := delta - x.remaining + 1)
        (x := { x with lastMeter := some v, counted := (x.counted + delta) % 4294967296 }) ho ht (Nat.lt_succ_self _) (by
          dsimp only
          omega)
      exact ⟨x.target :: done, law', fun _ => cycles, .inr rfl⟩

end Sys2Proof.Machine
end

section
/-! SUPPORT. What a metered reading does to the state beside the record (R114, R115), and what a channel makes of a reading of each of
its points (R107, R114, R116, R117). -/

namespace Sys2Proof.Machine

open Sys2Proof

variable {s t u : State} {c p v e delta : Nat} {x : Channel} {accepted : Bool}

/-! ### Metering on the state (R114, R115) -/

theorem meter_of_disabled (hx : (s.channel c).state = .disabled) (v : Nat) : s.meter c v = s := if_pos hx

theorem meter_of_first (hx : (s.channel c).state ≠ .disabled) (hl : (s.channel c).lastMeter = none) (v : Nat) :
    s.meter c v = s.modChannel c fun x => { x with lastMeter := some v } := by
  unfold State.meter
  dsimp only
  rw [if_neg hx, hl]

theorem meter_of_last {last : Nat} (hx : (s.channel c).state ≠ .disabled) (hl : (s.channel c).lastMeter = some last) (v : Nat) :
    s.meter c v = (s.modChannel c fun x => { x with lastMeter := some v }).meterDelta c ((v + 65536 - last) % 65536) := by
  unfold State.meter
  dsimp only
  rw [if_neg hx, hl]

/-- A delta that does not cover remaining moves the record alone. -/
theorem meterDelta_of_lt (hc : c < s.channels.length) (hd : delta < (s.channel c).remaining) : s.meterDelta c delta
    = s.modChannel c fun x => { x with counted := (x.counted + delta) % 4294967296, remaining := (s.channel c).remaining - delta } := by
  have summed : (s.modChannel c fun x => { x with counted := (x.counted + delta) % 4294967296 }).channel c
      = { s.channel c with counted := ((s.channel c).counted + delta) % 4294967296 } := State.channel_modChannel_same hc _
  unfold State.meterDelta
  dsimp only
  rw [summed]
  exact (if_pos hd).trans (State.modChannel_modChannel s c _ _)

theorem meterDelta_of_le (hc : c < s.channels.length) (hd : (s.channel c).remaining ≤ delta) : s.meterDelta c delta
    = State.completeCycles (delta - (s.channel c).remaining + 1) c (delta - (s.channel c).remaining)
      (s.modChannel c fun x => { x with counted := (x.counted + delta) % 4294967296 }) := by
  have summed : (s.modChannel c fun x => { x with counted := (x.counted + delta) % 4294967296 }).channel c
      = { s.channel c with counted := ((s.channel c).counted + delta) % 4294967296 } := State.channel_modChannel_same hc _
  unfold State.meterDelta
  dsimp only
  rw [summed]
  exact if_neg (not_lt.mpr hd)

/-- R114: a reading that does not cover remaining. -/
theorem meter_of_lt (hc : c < s.channels.length) {last : Nat} (hx : (s.channel c).state ≠ .disabled)
    (hl : (s.channel c).lastMeter = some last) (hd : (v + 65536 - last) % 65536 < (s.channel c).remaining) :
    s.meter c v = s.modChannel c fun x => { x with
      lastMeter := some v, counted := ((s.channel c).counted + (v + 65536 - last) % 65536) % 4294967296,
      remaining := x.remaining - (v + 65536 - last) % 65536 } := by
  have noted : (s.modChannel c fun x => { x with lastMeter := some v }).channel c = { s.channel c with lastMeter := some v } :=
    State.channel_modChannel_same hc _
  rw [meter_of_last hx hl, meterDelta_of_lt (by simpa using hc) (by rw [noted]; exact hd), noted, State.modChannel_modChannel]
  exact modChannel_congr rfl

/-- R115: the notice of a completed cycle. -/
theorem countCycle_notices (hc : c < s.channels.length) (hn : (s.channel c).cfg.noticeOnCycle = true)
    (room : s.port.notices.length < 32) : (s.countCycle c).port.notices
      = s.port.notices ++ [.channelDone c (s.channel c).cycled.cycles (s.channel c).counted] := by
  have counted : (s.modChannel c Channel.cycled).channel c = (s.channel c).cycled := State.channel_modChannel_same hc _
  have told : s.countCycle c = (s.modChannel c Channel.cycled).offerNotice (.channelDone c
      ((s.modChannel c Channel.cycled).channel c).cycles ((s.modChannel c Channel.cycled).channel c).counted) :=
    if_pos (by
      change ((s.modChannel c Channel.cycled).channel c).cfg.noticeOnCycle = true
      rw [counted]
      exact hn)
  rw [told, counted, offerNotice_added (s := s.modChannel c Channel.cycled) _ room]
  rfl

/-- R115: the end of a BATCH tells of its cycle before its alarms are cleared. -/
theorem completeCycles_batch_notices (hc : c < s.channels.length) (hm : (s.channel c).cfg.mode = .val .batch)
    (hn : (s.channel c).cfg.noticeOnCycle = true) (room : s.port.notices.length < 32) (n e : Nat) :
    s.port.notices ++ [.channelDone c (s.channel c).cycled.cycles (s.channel c).counted]
      <+: (State.completeCycles (n + 1) c e s).port.notices := by
  have batch : ((s.countCycle c).channel c).cfg.mode = .val .batch := by
    rw [countCycle_channel hc]
    exact hm
  have ended : State.completeCycles (n + 1) c e s = ((s.countCycle c).modChannel c fun x =>
      { x with overshoot := e, target := 0, remaining := 0 }).disableChannel c := if_pos batch
  rw [ended, ← countCycle_notices hc hn room]
  exact (notices_changes c _).disableChannel (List.prefix_refl (s.countCycle c).port.notices)

/-! ### A reading of each point -/

/-- R114: what the record makes of an event of its volume point. -/
def Channel.volumeTaken (s : State) (p : Nat) (accepted : Bool) (x : Channel) : Channel :=
  if x.cfg.volumePoint ≠ p then x
  else if accepted && s.pointGood p .volume then x.metered s.stormInForce (s.point p).value
  else if (s.point p).validity = .none then { x with lastMeter := none }
  else x

/-- R116: what the record makes of an event of its influent point. -/
def Channel.influentTaken (s : State) (p : Nat) (accepted : Bool) (x : Channel) : Channel :=
  if x.cfg.influentPoint ≠ some p then x
  else if !s.pointGood p .inflow then { x with lastInfluent := none }
  else if accepted then
    { x with
      accumulator := match x.lastInfluent with
        | none => x.accumulator
        | some t => holdAdd 4294967295 x.accumulator ((s.point p).value * (s.uptime - t)),
      lastInfluent := some s.uptime }
  else x

/-- R117: what the record makes of a level. -/
def Channel.levelJudged (now v : Nat) (x : Channel) : Channel :=
  if x.state = .running ∧ v < x.cfg.minLevel then x.inState now .paused
  else if x.state = .paused ∧ x.cfg.minLevel + 10 ≤ v then x.inState now .running
  else x

/-- R117: what the record makes of an event of its level point. -/
def Channel.levelTaken (s : State) (p : Nat) (accepted : Bool) (x : Channel) : Channel :=
  if x.cfg.levelPoint = some p ∧ accepted ∧ s.pointGood p .level then x.levelJudged s.uptime (s.point p).value else x

/-- R41: what the record makes of an event of a point. -/
def Channel.pointTaken (s : State) (p : Nat) (accepted : Bool) (x : Channel) : Channel :=
  ((x.volumeTaken s p accepted).influentTaken s p accepted).levelTaken s p accepted

/-- What a record takes up depends on the points, the clock and the storm alone. -/
theorem Channel.pointTaken_congr (hp : t.points = s.points) (hu : t.uptime = s.uptime) (hs : t.storm = s.storm) (p : Nat)
    (accepted : Bool) (x : Channel) : x.pointTaken t p accepted = x.pointTaken s p accepted := by
  unfold Channel.pointTaken Channel.levelTaken Channel.influentTaken Channel.volumeTaken
  rw [stormInForce_congr hs, point_congr hp, pointGood_congr hp, pointGood_congr hp, pointGood_congr hp, hu]

/-! ### The stages of `channelPoint` -/

/-- R114: an event of the volume point. -/
def State.volumeStage (s : State) (c p : Nat) (accepted : Bool) : State :=
  if (s.channel c).cfg.volumePoint ≠ p then s
  else if accepted && s.pointGood p .volume then s.meter c (s.pointValue p)
  else if (s.point p).validity = .none then s.modChannel c fun x => { x with lastMeter := none }
  else s

/-- R116: an event of the influent point. -/
def State.influentStage (s : State) (c p : Nat) (accepted : Bool) : State :=
  if (s.channel c).cfg.influentPoint ≠ some p then s
  else if !s.pointGood p .inflow then s.modChannel c fun x => { x with lastInfluent := none }
  else if accepted then s.accumulate c (s.pointValue p)
  else s

/-- R117: an event of the level point. -/
def State.levelStage (s : State) (c p : Nat) (accepted : Bool) : State :=
  if (s.channel c).cfg.levelPoint = some p ∧ accepted ∧ s.pointGood p .level then s.judgeLevel c (s.pointValue p) else s

theorem volumeStage_onlyChannel (s : State) (c p : Nat) (accepted : Bool) : s.OnlyChannel c (s.volumeStage c p accepted) := by
  have changes := onlyChannel_changes c s
  exact ite_keeps (.refl _ s) (ite_keeps (changes.meter (.refl _ s) _)
    (ite_keeps (changes.channel _ (fun _ => rfl) (.refl _ s)) (.refl _ s)))

theorem influentStage_onlyChannel (s : State) (c p : Nat) (accepted : Bool) : s.OnlyChannel c (s.influentStage c p accepted) := by
  have changes := onlyChannel_changes c s
  exact ite_keeps (.refl _ s) (ite_keeps (changes.channel _ (fun _ => rfl) (.refl _ s))
    (ite_keeps (changes.accumulate (.refl _ s) _) (.refl _ s)))

/-- No stage changes the configuration the next one reads. -/
theorem channelPoint_eq (s : State) (c p : Nat) (accepted : Bool) :
    s.channelPoint c p accepted = ((s.volumeStage c p accepted).influentStage c p accepted).levelStage c p accepted := by
  have volume := (volumeStage_onlyChannel s c p accepted).cfg c
  have influent := (influentStage_onlyChannel (s.volumeStage c p accepted) c p accepted).cfg c
  unfold State.levelStage
  rw [influent, volume]
  unfold State.influentStage
  rw [volume]
  rfl

section
variable (hc : c < s.channels.length)
include hc

theorem volumeStage_channel (p : Nat) (accepted : Bool) :
    (s.volumeStage c p accepted).channel c = (s.channel c).volumeTaken s p accepted := by
  unfold State.volumeStage Channel.volumeTaken
  split_ifs
  · rfl
  · exact meter_channel hc _
  · exact State.channel_modChannel_same hc _
  · rfl

theorem influentStage_channel (p : Nat) (accepted : Bool) :
    (s.influentStage c p accepted).channel c = (s.channel c).influentTaken s p accepted := by
  unfold State.influentStage Channel.influentTaken
  split_ifs
  · rfl
  · exact State.channel_modChannel_same hc _
  · exact State.channel_modChannel_same hc _
  · rfl

theorem judgeLevel_channel (v : Nat) : (s.judgeLevel c v).channel c = (s.channel c).levelJudged s.uptime v := by
  unfold State.judgeLevel Channel.levelJudged
  dsimp only
  split_ifs
  · exact enterChannel_channel hc _
  · exact enterChannel_channel hc _
  · rfl

theorem levelStage_channel (p : Nat) (accepted : Bool) :
    (s.levelStage c p accepted).channel c = (s.channel c).levelTaken s p accepted := by
  unfold State.levelStage Channel.levelTaken
  split_ifs
  · exact judgeLevel_channel hc _
  · rfl

theorem channelPoint_channel (p : Nat) (accepted : Bool) :
    (s.channelPoint c p accepted).channel c = (s.channel c).pointTaken s p accepted := by
  have volume := volumeStage_onlyChannel s c p accepted
  have both := volume.trans (influentStage_onlyChannel (s.volumeStage c p accepted) c p accepted)
  rw [channelPoint_eq, levelStage_channel (both.length ▸ hc), influentStage_channel (volume.length ▸ hc), volumeStage_channel hc]
  unfold Channel.pointTaken Channel.levelTaken Channel.influentTaken
  rw [pointGood_congr both.points, point_congr both.points, both.uptime, pointGood_congr volume.points, point_congr volume.points,
    volume.uptime]

end

/-! ### The channels in turn -/

theorem foldl_onlyChannels {g : State → Nat → State} (hg : ∀ (u : State) (d : Nat), u.OnlyChannel d (g u d)) (cs : List Nat)
    (s : State) : s.OnlyChannels {d | d ∈ cs} (cs.foldl g s) := by
  induction cs generalizing s with
  | nil => exact .refl _ s
  | cons d cs ih =>
    have first := (hg s d).mono (D := {i | i ∈ d :: cs}) fun i hi => hi ▸ List.mem_cons_self
    exact first.trans ((ih (g s d)).mono fun i hi => List.mem_cons_of_mem d hi)

/-- A channel's record after all of them is what its own turn makes of a state in which the channel and the rest of the plant still
are as they were. -/
theorem foldl_channel {g : State → Nat → State} (hg : ∀ (u : State) (d : Nat), u.OnlyChannel d (g u d)) {cs : List Nat}
    (hn : cs.Nodup) (s : State) (hc : c ∈ cs) :
    ∃ u, s.OnlyChannels {c}ᶜ u ∧ (cs.foldl g s).channel c = (g u c).channel c := by
  induction cs generalizing s with
  | nil => cases hc
  | cons d cs ih =>
    obtain ⟨hd, hn⟩ := List.nodup_cons.mp hn
    by_cases same : c = d
    · subst same
      exact ⟨s, .refl _ s, (foldl_onlyChannels hg cs (g s c)).others c hd⟩
    · obtain ⟨u, before, after⟩ := ih hn (g s d) ((List.mem_cons.mp hc).resolve_left same)
      refine ⟨u, .trans ((hg s d).mono ?_) before, after⟩
      rintro i rfl
      exact Ne.symm same

/-- R107: a channel that is not dormant takes up an event of a point. -/
theorem channelsPoint_channel (h4 : c < 4) (hc : c < s.channels.length) (p : Nat) (accepted : Bool) :
    (s.channelsPoint p accepted).channel c = if s.dormant c then s.channel c else (s.channel c).pointTaken s p accepted := by
  have turn (u : State) (d : Nat) : u.OnlyChannel d (if u.dormant d then u else u.channelPoint d p accepted) :=
    ite_keeps (.refl _ u) ((onlyChannel_changes d u).channelPoint (.refl _ u) p accepted)
  obtain ⟨u, before, after⟩ := foldl_channel turn (List.nodup_range (n := 4)) s (List.mem_range.mpr h4)
  have own : u.channel c = s.channel c := before.others c fun k => k rfl
  refine ((channel_congr (syncCommands_channels _ _) c).trans after).trans ?_
  rw [← own, ← dormant_congr before.joined, ← Channel.pointTaken_congr before.points before.uptime before.storm]
  split_ifs
  · rfl
  · exact channelPoint_channel (before.length ▸ hc) p accepted

end Sys2Proof.Machine
end

section
/-! CHANNEL_START and CHANNEL_STOP, and what a started channel counts and pauses for (R107, R111 to R118). -/

namespace Sys2Proof.Machine

open Sys2Proof

variable {s : State} {h : Hdr} {c i p v : Nat} {x : Channel} {accepted : Bool}

/-! ### A reading of one kind moves what goes by that kind -/

/-- R52: a point is of one kind. -/
theorem pointGood_other {k k' : Kind} (hg : s.pointGood p k = true) (hk : k ≠ k') : s.pointGood p k' = false := by
  simp only [State.pointGood, Bool.and_eq_true, beq_iff_eq] at hg
  simp [State.pointGood, hg.2, hk]

theorem volumeTaken_of_good (hp : x.cfg.volumePoint = p) (hg : s.pointGood p .volume = true) :
    x.volumeTaken s p true = x.metered s.stormInForce (s.point p).value :=
  (if_neg (not_not.mpr hp)).trans (if_pos (by simp [hg]))

/-- No other event than an accepted GOOD reading of the volume point is metered. -/
theorem volumeTaken_unmetered (hn : x.cfg.volumePoint ≠ p ∨ accepted = false ∨ s.pointGood p .volume = false) :
    ∃ m, x.volumeTaken s p accepted = { x with lastMeter := m } := by
  unfold Channel.volumeTaken
  split_ifs with other good none
  · exact ⟨_, rfl⟩
  · rw [Bool.and_eq_true] at good
    exact absurd hn (by simp [good, not_not.mp other])
  · exact ⟨_, rfl⟩
  · exact ⟨_, rfl⟩

theorem volumeTaken_keeps (s : State) (p : Nat) (accepted : Bool) (x : Channel) :
    (x.volumeTaken s p accepted).cfg = x.cfg ∧ (x.volumeTaken s p accepted).lastInfluent = x.lastInfluent := by
  unfold Channel.volumeTaken
  split_ifs
  · exact ⟨rfl, rfl⟩
  · exact metered_cfg _ _ _
  · exact ⟨rfl, rfl⟩
  · exact ⟨rfl, rfl⟩

theorem influentTaken_moves (s : State) (p : Nat) (accepted : Bool) (x : Channel) :
    ∃ a d, x.influentTaken s p accepted = { x with accumulator := a, lastInfluent := d } := by
  unfold Channel.influentTaken
  split_ifs <;> exact ⟨_, _, rfl⟩

theorem levelTaken_moves (s : State) (p : Nat) (accepted : Bool) (x : Channel) :
    ∃ st a d, x.levelTaken s p accepted = { x with state := st, pauseStart := a, pauseDeadline := d } := by
  unfold Channel.levelTaken Channel.levelJudged
  split_ifs <;> exact ⟨_, _, _, rfl⟩

theorem levelTaken_of_bad (hg : s.pointGood p .level = false) : x.levelTaken s p accepted = x :=
  if_neg fun k => by simp [hg] at k

/-! ### The record after a reading -/

/-- R114: a metered reading moves no level. -/
theorem pointTaken_of_volume (hp : x.cfg.volumePoint = p) (hg : s.pointGood p .volume = true) :
    ∃ a d, x.pointTaken s p true = { x.metered s.stormInForce (s.point p).value with accumulator := a, lastInfluent := d } := by
  unfold Channel.pointTaken
  rw [levelTaken_of_bad (pointGood_other hg (by decide)), volumeTaken_of_good hp hg]
  exact influentTaken_moves _ _ _ _

/-- What is not metered moves none of the figures. -/
theorem pointTaken_unmetered (hn : x.cfg.volumePoint ≠ p ∨ accepted = false ∨ s.pointGood p .volume = false) :
    ∃ m a d st b e, x.pointTaken s p accepted = { x with
      lastMeter := m, accumulator := a, lastInfluent := d, state := st, pauseStart := b, pauseDeadline := e } := by
  obtain ⟨m, volume⟩ := volumeTaken_unmetered hn
  obtain ⟨a, d, influent⟩ := influentTaken_moves s p accepted { x with lastMeter := m }
  unfold Channel.pointTaken
  rw [volume, influent]
  obtain ⟨st, b, e, level⟩ := levelTaken_moves s p accepted { x with lastMeter := m, accumulator := a, lastInfluent := d }
  exact ⟨m, a, d, st, b, e, level⟩

theorem pointTaken_of_none (hp : x.cfg.volumePoint = p) (hv : (s.point p).validity = .none) :
    (x.pointTaken s p accepted).lastMeter = none ∧ (x.pointTaken s p accepted).counted = x.counted := by
  have bad : s.pointGood p .volume = false := by simp [State.pointGood, hv]
  have forgotten : x.volumeTaken s p accepted = { x with lastMeter := none } :=
    (if_neg (not_not.mpr hp)).trans ((if_neg (by simp [bad])).trans (if_pos hv))
  obtain ⟨a, d, influent⟩ := influentTaken_moves s p accepted { x with lastMeter := none }
  unfold Channel.pointTaken
  rw [forgotten, influent]
  obtain ⟨st, b, e, level⟩ := levelTaken_moves s p accepted { x with lastMeter := none, accumulator := a, lastInfluent := d }
  rw [level]
  exact ⟨rfl, rfl⟩

theorem pointTaken_lastInfluent (s : State) (p : Nat) (accepted : Bool) (x : Channel) : (x.pointTaken s p accepted).lastInfluent
    = ((x.volumeTaken s p accepted).influentTaken s p accepted).lastInfluent := by
  obtain ⟨st, b, e, level⟩ := levelTaken_moves s p accepted ((x.volumeTaken s p accepted).influentTaken s p accepted)
  unfold Channel.pointTaken
  rw [level]

/-- R116: a point that is not GOOD ends the accumulation. -/
theorem pointTaken_of_bad_influent (hp : x.cfg.influentPoint = some p) (hg : s.pointGood p .inflow = false) :
    (x.pointTaken s p accepted).lastInfluent = none := by
  have cfg := (volumeTaken_keeps s p accepted x).1
  have ended : (x.volumeTaken s p accepted).influentTaken s p accepted = { x.volumeTaken s p accepted with lastInfluent := none } :=
    (if_neg (by rw [cfg, not_not, hp])).trans (if_pos (by rw [hg]; rfl))
  rw [pointTaken_lastInfluent, ended]

theorem pointTaken_of_other_influent (hp : x.cfg.influentPoint ≠ some p) :
    (x.pointTaken s p accepted).lastInfluent = x.lastInfluent := by
  obtain ⟨cfg, influent⟩ := volumeTaken_keeps s p accepted x
  have rests : (x.volumeTaken s p accepted).influentTaken s p accepted = x.volumeTaken s p accepted := if_pos (by rwa [cfg])
  rw [pointTaken_lastInfluent, rests, influent]

/-- R116: a GOOD reading of the influent point is accumulated. -/
theorem pointTaken_of_influent (hp : x.cfg.influentPoint = some p) (hg : s.pointGood p .inflow = true) :
    (x.pointTaken s p true).lastInfluent = some s.uptime ∧ (x.pointTaken s p true).accumulator = match x.lastInfluent with
      | none => x.accumulator
      | some t => holdAdd 4294967295 x.accumulator ((s.point p).value * (s.uptime - t)) := by
  obtain ⟨m, volume⟩ := volumeTaken_unmetered (x := x) (accepted := true) (.inr (.inr (pointGood_other hg (by decide))))
  unfold Channel.pointTaken Channel.influentTaken
  rw [levelTaken_of_bad (pointGood_other hg (by decide)), volume, if_neg (not_not.mpr hp), hg, if_neg (by decide), if_pos rfl]
  exact ⟨rfl, rfl⟩

/-- R117: a GOOD reading of the level point is judged. -/
theorem pointTaken_of_level (hp : x.cfg.levelPoint = some p) (hg : s.pointGood p .level = true) :
    ∃ z : Channel, z.cfg = x.cfg ∧ z.state = x.state ∧ x.pointTaken s p true = z.levelJudged s.uptime (s.point p).value := by
  obtain ⟨m, volume⟩ := volumeTaken_unmetered (x := x) (accepted := true) (.inr (.inr (pointGood_other hg (by decide))))
  obtain ⟨a, d, influent⟩ := influentTaken_moves s p true { x with lastMeter := m }
  refine ⟨{ x with lastMeter := m, accumulator := a, lastInfluent := d }, rfl, rfl, ?_⟩
  unfold Channel.pointTaken
  rw [volume, influent]
  exact if_pos ⟨hp, rfl, hg⟩

/-! ### CHANNEL_START -/

theorem begun_metered (storm : Bool) (x : Channel) (now : Nat) (st : ChannelState) : ((x.begun storm).inState now st).Metered 0 :=
  ⟨by simp [Channel.begun, Channel.inState], le_rfl⟩

theorem syncStart_onlyChannel (s : State) (c : Nat) : s.OnlyChannel c (s.syncCommands (s.startChannel c)) :=
  ((onlyChannel_changes c s).startChannel (.refl _ s)).trans (syncCommands_onlyChannels _ _ _)

theorem syncStop_onlyChannel (s : State) (c : Nat) : s.OnlyChannel c (s.syncCommands (s.disableChannel c)) :=
  ((onlyChannel_changes c s).disableChannel (.refl _ s)).trans (syncCommands_onlyChannels _ _ _)

/-- R113: what a CHANNEL_STOP leaves, whether or not the channel was DISABLED. -/
theorem stopped_channels (s : State) (i : Nat) : (if (s.channel i).state = .disabled then s.modChannel i fun x => { x with autoPending := false }
      else s.syncCommands (s.disableChannel i)).channels = s.channels.modify i fun x =>
        if x.state = .disabled then { x with autoPending := false }
        else { x with state := .disabled, pauseStart := none, pauseDeadline := none, autoPending := false } := by
  split_ifs with hx
  · exact modify_congr fun x hk => by
      rw [channel_of_getElem? hk] at hx
      exact (if_pos hx).symm
  · refine (syncCommands_channels _ _).trans ((disableChannel_channels s i).trans (modify_congr fun x hk => ?_))
    rw [channel_of_getElem? hk] at hx
    exact (if_neg hx).symm

theorem stopped_pairs (s : State) (i : Nat) : (if (s.channel i).state = .disabled then s.modChannel i fun x => { x with autoPending := false }
      else s.syncCommands (s.disableChannel i)).pairs = s.pairs := by
  refine ite_keeps (P := fun u => u.pairs = s.pairs) rfl ((syncCommands_pairs _ _).trans ?_)
  unfold State.disableChannel
  dsimp only
  rw [(clearAlarm_only _ _ _).2, (clearAlarm_only _ _ _).2]
  exact enterChannel_pairs s i .disabled

/-! ### The statement -/

/-- R114, R115: the reading that completes a cycle, mode by mode. -/
theorem completed_record (storm : Bool) {last : Nat} (hx : x.state ≠ .disabled) (hl : x.lastMeter = some last)
    (hd : x.remaining ≤ (v + 65536 - last) % 65536) : x.metered storm v = Channel.completing storm
      ((v + 65536 - last) % 65536 - x.remaining + 1) ((v + 65536 - last) % 65536 - x.remaining)
      { x with lastMeter := some v, counted := (x.counted + (v + 65536 - last) % 65536) % 4294967296 } :=
  (metered_of_last hx hl).trans (deltaMetered_of_le (x := { x with lastMeter := some v }) hd)

/-- R115: the notice of a BATCH that ends. -/
theorem meter_batch_notices (hc : c < s.channels.length) {last : Nat} (hx : (s.channel c).state ≠ .disabled)
    (hl : (s.channel c).lastMeter = some last) (hd : (s.channel c).remaining ≤ (v + 65536 - last) % 65536)
    (hm : (s.channel c).cfg.mode = .val .batch) (hn : (s.channel c).cfg.noticeOnCycle = true) (room : s.port.notices.length < 32) :
    s.port.notices ++ [.channelDone c (s.channel c).cycled.cycles
      (((s.channel c).counted + (v + 65536 - last) % 65536) % 4294967296)] <+: (s.meter c v).port.notices := by
  let noted := s.modChannel c fun x => { x with lastMeter := some v }
  let summed := noted.modChannel c fun x => { x with counted := (x.counted + (v + 65536 - last) % 65536) % 4294967296 }
  have length : c < noted.channels.length := by simpa [noted] using hc
  have notedRecord : noted.channel c = { s.channel c with lastMeter := some v } := State.channel_modChannel_same hc _
  have record : summed.channel c = { s.channel c with
      lastMeter := some v, counted := ((s.channel c).counted + (v + 65536 - last) % 65536) % 4294967296 } := by
    rw [State.channel_modChannel_same length, notedRecord]
  have told := completeCycles_batch_notices (s := summed) (c := c) (by simpa [summed] using length) (by rw [record]; exact hm)
    (by rw [record]; exact hn) room ((v + 65536 - last) % 65536 - (noted.channel c).remaining)
    ((v + 65536 - last) % 65536 - (noted.channel c).remaining)
  rw [meter_of_last hx hl, meterDelta_of_le length (by rw [notedRecord]; exact hd)]
  rw [record] at told
  exact told

/-- Settles O31: the requests by `startChannel` and `disableChannel`, the figures and the pauses by the record a reading leaves. -/
theorem channelsStartAndStop : Obligations.ChannelsStartAndStop := by
  refine ⟨fun s h i hs hi hlen hd hc => ⟨fun hx => ?_, fun hx => ?_, ?_⟩, fun s c v hc => ?_, fun s c p accepted h4 hc => ?_⟩
  · exact exec_status (q := ⟨h, .channelStart i⟩) rfl hs (handleChannelStart i (s.addressed h)) rfl
      (handleChannelStart_busy (s := s.addressed h) hi hd hc hx) (by decide)
  · intro x target duty other low
    let a := s.addressed h
    have only := syncStart_onlyChannel a i
    have settled := Settled.answered (a.syncCommands (a.startChannel i)) h 26 .done []
    have record (d : Nat) : ((a.syncCommands (a.startChannel i)).answered h 26 .done []).channel d = (a.startChannel i).channel d :=
      (channel_congr settled.channels d).trans (channel_congr (syncCommands_channels _ _) d)
    have available : a.otherAvailable i = true ↔ other := otherAvailable_iff s i
    have lowLevel : a.levelLow i = true ↔ low := levelLow_iff s i
    obtain ⟨st, started⟩ := startChannel_channel (s := a) hlen
    have flows (ha : duty = true ∨ other) := startChannel_of_available (s := a) hlen (ha.imp_right available.mpr)
    refine ⟨_, exec_channelStart hs hi hd hc hx, answered_replied only.port 26 .done [], settled.config.trans only.config, ?_⟩
    rw [record i, started]
    refine ⟨rfl, rfl, rfl, rfl, rfl, rfl, begun_metered _ _ _ _, rfl, fun hm => ?_, fun hm => ?_, fun hn hno => ?_, fun ha hl => ?_,
      fun ha hl => ?_, fun ha => settled.pairs.trans ((syncCommands_pairs _ _).trans (startChannel_pairs (s := a) ha)),
      fun d hne => (channel_congr settled.channels d).trans (only.others d hne), settled.hand.trans only.hand,
      settled.zones.trans only.zones, settled.points.trans only.points, settled.blowers.trans only.blowers⟩
    · change ((a.channel i).loaded a.stormInForce).accumulator = 0
      rw [Channel.loaded_of_ratio (x := a.channel i) hm]
    · change ((a.channel i).loaded a.stormInForce).accumulator = x.accumulator
      rw [Channel.loaded_of_other (x := a.channel i) hm]
      rfl
    · rw [← started, startChannel_of_none (s := a) hlen (Bool.eq_false_iff.mpr hn) (Bool.eq_false_iff.mpr (mt available.mp hno))]
      rfl
    · rw [← started, flows ha, State.flowState, if_pos (lowLevel.mpr hl)]
      exact ⟨rfl, rfl⟩
    · rw [← started, flows ha, State.flowState, if_neg (mt lowLevel.mp hl)]
      rfl
  · let a := s.addressed h
    have settled := Settled.answered (if (s.channel i).state = .disabled then a.modChannel i fun x => { x with autoPending := false }
      else a.syncCommands (a.disableChannel i)) h 27 .done []
    have only : a.OnlyChannel i (if (s.channel i).state = .disabled then a.modChannel i fun x => { x with autoPending := false }
        else a.syncCommands (a.disableChannel i)) :=
      ite_keeps (modChannel_onlyChannel a fun _ => rfl) (syncStop_onlyChannel a i)
    exact ⟨_, exec_channelStop hs hi hd hc, answered_replied only.port 27 .done [], settled.config.trans only.config,
      settled.channels.trans (stopped_channels a i), settled.pairs.trans (stopped_pairs a i), settled.hand.trans only.hand,
      settled.zones.trans only.zones, settled.points.trans only.points, settled.blowers.trans only.blowers⟩
  · intro x t y
    have record : y = x.metered s.stormInForce v := meter_channel hc v
    refine ⟨fun hx => meter_of_disabled hx v, fun hx hl => meter_of_first hx hl v,
      fun d hne => ((onlyChannel_changes c s).meter (.refl _ s) v).others d hne, fun last hx hl => ?_, fun sum hm ho ht => ?_⟩
    · intro delta counted e
      refine ⟨fun hd => ?_, fun hd => ?_⟩
      · exact meter_of_lt hc hx hl hd
      · have completed : y = Channel.completing s.stormInForce (e + 1) e { x with lastMeter := some v, counted := counted } :=
          record.trans (completed_record _ hx hl hd)
        obtain ⟨cfg, meter, sum, -⟩ := completing_kept s.stormInForce (e + 1) e { x with lastMeter := some v, counted := counted }
        rw [completed]
        refine ⟨meter, sum, cfg, fun hm => ?_, fun hm ht => ?_, fun hm => ?_⟩
        · rw [completing_of_batch (x := { x with lastMeter := some v, counted := counted }) hm]
          exact ⟨rfl, rfl, rfl, rfl, rfl, rfl, meter_batch_notices hc hx hl hd hm⟩
        · rw [completing_of_cycle (x := { x with lastMeter := some v, counted := counted }) hm ht (Nat.lt_succ_self e)]
          exact ⟨rfl, rfl, rfl, rfl, rfl, rfl⟩
        · intro first
          have ratio : Channel.completing s.stormInForce (e + 1) e { x with lastMeter := some v, counted := counted } = _ :=
            completing_of_ratio (x := { x with lastMeter := some v, counted := counted }) hm _ e
          rw [ratio]
          by_cases covers : first ≤ e
          · rw [if_pos covers]
            exact ⟨rfl, rfl, rfl, fun hlt => absurd covers (not_le.mpr hlt), fun _ => ⟨rfl, rfl, rfl⟩⟩
          · rw [if_neg covers]
            exact ⟨rfl, rfl, rfl, fun _ => ⟨rfl, rfl, rfl⟩, fun hle => absurd hle covers⟩
    · rw [record]
      exact metered_metered hm ho ht _ v
  · intro x t y v
    have record := channelsPoint_channel h4 hc p accepted
    refine ⟨fun hd => record.trans (if_pos hd), fun hd => ?_⟩
    have taken : y = x.pointTaken s p accepted := record.trans (if_neg (Bool.eq_false_iff.mp hd))
    refine ⟨fun hp hg ha => ?_, fun hp hv => ?_, fun hn => ?_, fun hp hg => ?_, fun hp hg ha => ?_, fun hp => ?_, fun hp hg ha => ?_⟩
    · intro m
      have metered : m = x.metered s.stormInForce v := meter_channel hc v
      subst ha
      obtain ⟨a, d, whole⟩ := pointTaken_of_volume hp hg
      rw [taken, whole, metered]
      exact ⟨rfl, rfl, rfl, rfl, rfl, rfl, rfl⟩
    · rw [taken]
      exact pointTaken_of_none hp hv
    · obtain ⟨m, a, d, st, b, e, whole⟩ := pointTaken_unmetered (x := x) (s := s) (hn.imp_right .inl)
      rw [taken, whole]
      exact ⟨rfl, rfl, rfl, rfl⟩
    · rw [taken]
      exact pointTaken_of_bad_influent hp hg
    · subst ha
      obtain ⟨last, sum⟩ := pointTaken_of_influent hp hg
      rw [taken]
      exact ⟨last, fun hn => by rw [sum, hn], fun d hl => by rw [sum, hl]; rfl⟩
    · rw [taken]
      exact pointTaken_of_other_influent hp
    · subst ha
      obtain ⟨z, cfg, state, whole⟩ := pointTaken_of_level hp hg
      rw [taken, whole, ← cfg, ← state]
      refine ⟨fun hr hl => ?_, fun hr hl => ?_, fun hr hn => ?_⟩
      · rw [Channel.levelJudged, if_pos ⟨hr, hl⟩]
        exact ⟨rfl, rfl, rfl⟩
      · rw [Channel.levelJudged, if_neg (by simp [hr]), if_pos ⟨hr, hl⟩]
        exact ⟨rfl, rfl, rfl⟩
      · rw [Channel.levelJudged, if_neg hr, if_neg hn]

end Sys2Proof.Machine
end
